-- ==== Sys2Proof/Word.lean ====
section
/-! DEFINITION. The word types of the KZT-940 (00_scope.md R4): bytes, the 32-bit lane word, the 64-bit scalar and
instruction word, and one register row of 32 lanes. -/

namespace Sys2Proof

/-- One byte of any memory space. -/
abbrev Byte := BitVec 8
/-- One lane's vector register, 32 bits (02_formats.md R29). -/
abbrev Word := BitVec 32
/-- A scalar register or an instruction word, 64 bits (02_formats.md R27, R29). -/
abbrev DWord := BitVec 64
/-- One bit per lane; bit l belongs to lane l (00_scope.md R5). -/
abbrev LaneMask := BitVec 32
/-- One vector register across the 32 lanes, lane 0 first; a missing entry reads 0. -/
abbrev Lanes := List Word

/-- The lane numbers 0 to 31 (00_scope.md R5). -/
def laneIds : List Nat := List.range 32

/-- The value of lane `l` of a register row. -/
def Lanes.at (x : Lanes) (l : Nat) : Word := x.getD l 0

/-- The register row whose lane `l` is `f l`. -/
def Lanes.make (f : Nat → Word) : Lanes := laneIds.map f

end Sys2Proof
end

