-- ==== Sys2Proof/Syntax.lean ====
section
/-! DEFINITION. The instructions and events of the opcode table (spec/opcode_table.json), one constructor per row. The
operand records follow the eight formats of 02_formats.md R31: a field is the bits the format gives it, and what each
instruction permits in it is said once, in WellFormed. Events carry what the outside brings, or which party moves. -/

namespace Sys2Proof

/-- The guard of every word: PG [14:8] and GN [15] (02_formats.md R27, R28). -/
structure Guard where
  pg : BitVec 7
  gn : Bool
  deriving DecidableEq, Repr

/-- F-V (02_formats.md R31): vector operands, operand B by kind BK, SUB, TY and RM. -/
structure FV where
  g   : Guard
  vd  : BitVec 7
  va  : BitVec 7
  vb  : BitVec 7
  vc  : BitVec 7
  bk  : BitVec 2
  sub : BitVec 6
  ty  : BitVec 4
  rm  : BitVec 4
  deriving DecidableEq, Repr

/-- F-I (02_formats.md R31): a 32-bit immediate. -/
structure FI where
  g   : Guard
  vd  : BitVec 7
  va  : BitVec 7
  ty2 : BitVec 2
  imm : BitVec 32
  deriving DecidableEq, Repr

/-- F-S (02_formats.md R31): scalar operands. -/
structure FS where
  g   : Guard
  sd  : BitVec 6
  sa  : BitVec 6
  sb  : BitVec 6
  sub : BitVec 6
  im  : Bool
  imm : BitVec 23
  deriving DecidableEq, Repr

/-- F-M (02_formats.md R31): a memory access with an offset. -/
structure FM where
  g   : Guard
  vt  : BitVec 7
  va  : BitVec 7
  am  : BitVec 2
  sp  : BitVec 3
  w   : BitVec 3
  sc  : BitVec 3
  ord : BitVec 2
  cp  : BitVec 2
  sb  : BitVec 6
  off : BitVec 13
  deriving DecidableEq, Repr

/-- F-M of the atomics (02_formats.md R31): VX and AOP stand in place of the offset. -/
structure FA where
  g   : Guard
  vt  : BitVec 7
  va  : BitVec 7
  am  : BitVec 2
  sp  : BitVec 3
  w   : BitVec 3
  sc  : BitVec 3
  ord : BitVec 2
  cp  : BitVec 2
  sb  : BitVec 6
  aop : BitVec 6
  vx  : BitVec 7
  deriving DecidableEq, Repr

/-- F-C (02_formats.md R31, 04_sweep.md R100): labels. -/
structure FC where
  g    : Guard
  lid  : BitVec 16
  lid2 : BitVec 16
  va   : BitVec 7
  attr : BitVec 2
  deriving DecidableEq, Repr

/-- F-C, BWAIT layout (02_formats.md R31, 09_engines.md R245). -/
structure FB where
  g   : Guard
  lid : BitVec 16
  so  : BitVec 6
  sa  : BitVec 6
  pd  : BitVec 7
  deriving DecidableEq, Repr

/-- F-E (02_formats.md R31). FN is the constructor's: ENG is one constructor per function of R40, and every other
F-E instruction carries FN = 0 (R37). -/
structure FE where
  g  : Guard
  sd : BitVec 6
  sa : BitVec 6
  sb : BitVec 6
  rp : Bool
  so : BitVec 6
  sc : BitVec 3
  deriving DecidableEq, Repr

/-- F-X (02_formats.md R31): matrix and clause instructions. -/
structure FX where
  g   : Guard
  sa  : BitVec 6
  sb  : BitVec 6
  so  : BitVec 6
  fsa : BitVec 3
  fsb : BitVec 3
  sub : BitVec 6
  bnk : Bool
  imm : BitVec 17
  deriving DecidableEq, Repr

/-- F-Y (02_formats.md R31): system instructions, waits and fences. -/
structure FY where
  g   : Guard
  sd  : BitVec 6
  sysreg : BitVec 12
  sub : BitVec 6
  imm : BitVec 24
  deriving DecidableEq, Repr

/-- What a request does at its target (14_fabric.md R332, R339). -/
inductive ReqKind where
  | read | write | atomic | cas
  deriving DecidableEq, Repr

/-- A request packet as it reaches the target (14_fabric.md R326, R327, R332): its source, the target EPOCH it
carries, its sequence number, its plane, what it does and on which local IA bits [47:0], and the scope of its acquire,
0 for none (08_memory.md R199). -/
structure RemoteReq where
  src   : Nat
  epoch : BitVec 16
  q     : BitVec 16
  plane : Nat
  kind  : ReqKind
  ia    : Nat
  size  : Nat
  data  : List Byte
  cmp   : List Byte
  aop   : Nat
  uncached : Bool
  whole : Bool
  poison : Bool
  acq : Nat
  deriving DecidableEq, Repr

/-- The answer to a request (14_fabric.md R334, R340): data (empty for a write), poisoned data, or a fault reason. -/
inductive RemoteResult where
  | data (d : List Byte)
  | poisoned
  | refused (reason : Nat)
  deriving DecidableEq, Repr

/-- A collective message (09_engines.md R241, 14_fabric.md R343): its team, sender index and step, the values it
carries for agreement, and its data. -/
structure CollMsg where
  team    : BitVec 32
  sender  : Nat
  device  : Nat
  nmem    : Nat
  members : List Nat
  ctl     : DWord
  len     : Nat
  kx      : BitVec 32
  data    : List Byte
  step    : Nat
  deriving DecidableEq, Repr

/-- A collective message as it comes: the write request that carries it (14_fabric.md R343). -/
structure CollWrite where
  req : RemoteReq
  msg : CollMsg
  deriving DecidableEq, Repr

/-- Which collective of a team: its number among the collectives of the TEAMID (14_fabric.md R343). -/
structure TeamStep where
  team : BitVec 32
  step : Nat
  deriving DecidableEq, Repr

/-- The common part of a host command entry: the function whose ring holds it, CTX and TAG (20_host.md R406). -/
structure HostCmd where
  fn  : Nat
  ctx : BitVec 16
  tag : BitVec 32
  deriving DecidableEq, Repr

/-- OPEN_CONTEXT's arguments (20_host.md R408). -/
structure OpenArgs where
  detm    : Bool
  sigreq  : Bool
  pvsize  : Nat
  chip    : Nat
  dccnt   : Nat
  ftcount : Nat
  qmask   : BitVec 16
  clmask  : BitVec 16
  weight  : Nat
  cap     : Nat
  savesz  : Nat
  deriving DecidableEq, Repr

/-- MAP's arguments (20_host.md R408): IA, LEN, page size (true for 2 MiB), MT, host address, R, W, X, DSVC. -/
structure MapArgs where
  ia   : Nat
  len  : Nat
  big  : Bool
  mt   : BitVec 2
  host : Nat
  r    : Bool
  w    : Bool
  x    : Bool
  dsvc : Bool
  deriving DecidableEq, Repr

/-- The instructions and events of the opcode table. -/
inductive Instr where
  -- control, 04_sweep.md
  | nop (f : FC) | lbl (f : FC) | go (f : FC) | goi (f : FC) | call (f : FC) | calli (f : FC)
  | ret (f : FC) | exit (f : FC) | yieldBand (f : FC) | lblid (f : FI) | swcnt (f : FS) | cens (f : FS)
  -- integer, 05_integer.md
  | iadd (f : FV) | isub (f : FV) | imul (f : FV) | imulh (f : FV) | imad (f : FV) | imadw (f : FV)
  | imin (f : FV) | imax (f : FV) | iabs (f : FV) | ineg (f : FV) | iaddc (f : FV) | icmp (f : FV)
  | isel (f : FV) | lea (f : FV) | isad (f : FV) | mov (f : FV) | vand (f : FV) | vor (f : FV)
  | vxor (f : FV) | vnot (f : FV) | shl (f : FV) | shr (f : FV) | sar (f : FV) | rot (f : FV)
  | bfe (f : FV) | bfi (f : FV) | popc (f : FV) | clz (f : FV) | brev (f : FV) | prmb (f : FV)
  | movi (f : FI) | iaddi (f : FI)
  -- float and conversion, 07_numbers.md
  | fadd (f : FV) | fmul (f : FV) | ffma (f : FV) | fmin (f : FV) | fmax (f : FV) | fcmp (f : FV)
  | fsfu (f : FV) | frnd (f : FV) | fclass (f : FV) | fdiv (f : FV) | cvt (f : FV) | qnt (f : FV)
  | dqnt (f : FV) | amax (f : FV) | pkt5 (f : FV) | upkt5 (f : FV)
  -- lane exchange, scalar, predicate, 05_integer.md
  | shfl (f : FV) | scan (f : FV) | rdc (f : FV) | cmpct (f : FV) | vote (f : FV)
  | sadd (f : FS) | ssub (f : FS) | smul (f : FS) | sand (f : FS) | sor (f : FS) | sxor (f : FS)
  | sshl (f : FS) | sshr (f : FS) | smov (f : FS) | scmp (f : FS) | ssel (f : FS) | srdl (f : FS)
  | smin (f : FS) | smax (f : FS) | smovi (f : FS) | smovh (f : FS)
  | plop (f : FV) | pset (f : FI) | ptov (f : FV) | vtop (f : FV) | pcnt (f : FV) | sprd (f : FV)
  -- memory, 08_memory.md
  | ld (f : FM) | st (f : FM) | lds (f : FM) | sts (f : FM) | pref (f : FM) | cctl (f : FM)
  | fence (f : FY) | fencex (f : FY) | waitc (f : FY) | ldtr (f : FM)
  | atom (f : FA) | acas (f : FA) | atoms (f : FA) | red (f : FA)
  -- engines and barriers, 09_engines.md
  | cpyLin (f : FE) | cpy2d (f : FE) | cpyRowg (f : FE) | cpyRows (f : FE) | cpyMrow (f : FE)
  | cpyFill (f : FE) | cpyZc (f : FE) | cpyZd (f : FE)
  | collAr (f : FE) | collRs (f : FE) | collAg (f : FE) | collBc (f : FE) | ckpt (f : FE)
  | binit (f : FE) | barv (f : FE) | bwait (f : FB) | bexp (f : FE) | btest (f : FE)
  -- matrix, 11_matrix.md
  | mldb (f : FX) | mbank (f : FX) | mma (f : FX) | mmag (f : FX) | macz (f : FX) | macr (f : FX)
  | macv (f : FX)
  -- clause, 12_clause.md
  | clcfg (f : FX) | clld (f : FX) | clst (f : FX) | clinf (f : FX) | clvote (f : FX) | clfb (f : FX)
  | cltab (f : FX) | clseed (f : FX) | clfnc (f : FX) | clcnt (f : FX)
  -- tasks, 13_tasks.md
  | spawn (f : FC) | tqenq (f : FE) | tqdeq (f : FE) | dcinit (f : FE) | dcdec (f : FE) | dcadd (f : FE)
  | binfl (f : FE) | targ (f : FS) | tid (f : FS) | prog (f : FS)
  -- system, 15_traps.md
  | trapf (f : FY) | trap (f : FY) | rte (f : FY) | sysrd (f : FY) | syswr (f : FY) | flagc (f : FY)
  | bkill (f : FY)
  -- hints, emulation space and illegal words, 02_formats.md R43 to R48: the whole word
  | hprio (w : DWord) | hreuse (w : DWord) | hintNop (w : DWord)
  | idot4 (w : DWord) | emulateTrap (w : DWord) | illenc (w : DWord)
  -- events of the sequencer, memory, engines and units
  | skip
  | labelCacheFill (core ctx handle lid : Nat)
  | bandRetire (core slot : Nat)
  | memOpComplete (core slot op : Nat) (lanes : LaneMask)
  | memFaultResponse (core slot op : Nat) (lanes : LaneMask)
  | pinExpiry (core line : Nat)
  | collectorWindow (core : Nat)
  | engAccept (core : Nat)
  | engWritePerformed (core cmd n : Nat)
  | engComplete (core cmd : Nat)
  | teamAbort (team : TeamStep) (aux : Nat)
  | collMessage (m : CollWrite)
  | collTimeout (core cmd : Nat)
  | mxAccept (core : Nat)
  | mxComplete (core : Nat)
  | cimScrub (core bank mac col : Nat)
  | clAccept (cluster core : Nat)
  | clComplete (cluster : Nat)
  -- events of the scheduler
  | binTimer (cluster bin : Nat)
  | admitCrew (core : Nat)
  | gangAdmit (core : Nat)
  | preemptWait (core : Nat)
  | drainRechoice (core crew : Nat)
  | flushRestart (core crew : Nat)
  | crewSave (core crew : Nat)
  | crewRestore (core ctx saved : Nat)
  | preemptHoldExpiry (core crew : Nat)
  | saveRetry (core crew : Nat)
  | saveAborted (core crew : Nat)
  | watchdog (core crew : Nat)
  | trapBackoff (core slot : Nat)
  | sampleCheck (core slot : Nat) (mismatch : Option Nat)
  | fetchFault (core slot : Nat)
  | pageServiced (ia : Nat) (leaf : Option DWord)
  | patrolScrub (sector : Nat)
  -- events of the fabric
  | linkFailure (plane : Nat)
  | flitResend (plane : Nat) (good : Bool)
  | remoteRequest (r : RemoteReq)
  | remoteAck (dst : Nat) (q : BitVec 16) (r : RemoteResult)
  | remoteTimeout (dst : Nat) (q : BitVec 16)
  | rehash (gen : BitVec 16) (mask : BitVec 8)
  | rhack (src : Nat) (gen : BitVec 16) (mask : BitVec 8)
  | commit (gen : BitVec 16)
  | rhtmoExpiry
  | memberDown (domidx : Nat)
  -- the host interface
  | boot (stages : List (List Byte))
  | rtail (fn : Nat) (v : BitVec 12)
  | ren (fn : Nat) (log : BitVec 4) (en : Bool)
  | cen (fn : Nat) (log : BitVec 4) (en : Bool)
  | chead (fn : Nat) (v : BitVec 12)
  | bar0Write (fn off : Nat) (v : DWord)
  | openContext (c : HostCmd) (a : OpenArgs)
  | closeContext (c : HostCmd)
  | mapRange (c : HostCmd) (a : MapArgs)
  | unmapRange (c : HostCmd) (ia len : Nat)
  | setWindow (c : HostCmd) (n : Nat) (lo hi : DWord)
  | setFstab (c : HostCmd) (n : Nat) (descs : List Word)
  | loadModule (c : HostCmd) (addr len handle : Nat)
  | submit (c : HostCmd) (addr : Nat) (queue : DWord)
  | readLog (c : HostCmd) (buf most : Nat) (clear clearErr : Bool)
  | checkpoint (c : HostCmd) (all : Bool) (ia len safe : Nat) (ckid : DWord)
  | restoreImage (c : HostCmd) (safe ia len : Nat) (blocks : List (Nat × Nat))
  | setBudget (c : HostCmd) (watts : Nat) (weight : Option Nat)
  | planeStatus (c : HostCmd) (ret : Bool) (mask : BitVec 8) (buf : Nat)
  | attest (c : HostCmd) (buf : Nat) (nonce : List Byte)
  | setInwin (c : HostCmd) (n : Nat) (lo hi : DWord)
  | memberReport (c : HostCmd) (join : Bool) (domidx : Nat) (epoch : BitVec 16)
  | spdmRequest (code : Nat) (body : List Byte)
  | takeClauseArray (cluster : Nat)
  deriving DecidableEq, Repr

end Sys2Proof
end

