-- ==== Sys2Proof/WellFormed.lean ====
section
/-! DEFINITION. Which operand fields each instruction permits (02_formats.md R32 to R41 and the limits of the class
chapters), and which vector registers it may name for a band that declares `n` (R30). Both are Bool. -/

namespace Sys2Proof

/-- The code sets of R37: int, I, N and flt. -/
def tyInt : List Nat := [0, 1, 2, 3, 4, 5, 6, 7]
def tyI : List Nat := [0, 2, 4, 6]
def tyN : List Nat := [1, 3, 5, 7]
def tyFlt : List Nat := [8, 9, 10]

/-- The RM bits an instruction permits (R33): SAT is 4, rounding is 3, FTZ is 8. -/
def rmNone : BitVec 4 := 0
def rmSat : BitVec 4 := 4
def rmRnd : BitVec 4 := 3
def rmFtz : BitVec 4 := 8
def rmRndFtz : BitVec 4 := 11
def rmAll : BitVec 4 := 15

/-- Operand B of F-V (R33, R34): BK 0 to 2, and BK 1 names a scalar register, so VB[6] is 0. -/
def FV.bLegal (f : FV) : Bool := f.bk != 3 && (f.bk != 1 || f.vb.toNat < 64)

/-- No operand B (R34): BK 0 and VB 0. -/
def FV.bAbsent (f : FV) : Bool := f.bk == 0 && f.vb == 0

/-- The TY and RM limits of an F-V instruction (R37). -/
def FV.kinds (f : FV) (tys : List Nat) (rm : BitVec 4) : Bool :=
  tys.contains f.ty.toNat && (f.rm &&& ~~~rm) == 0

/-- F-V with VD, VA, B. -/
def FV.opAB (f : FV) (tys : List Nat) (rm : BitVec 4) (sub : Nat → Bool) : Bool :=
  f.kinds tys rm && sub f.sub.toNat && f.bLegal && f.vc == 0
/-- F-V with VD, VA, B, VC. -/
def FV.opABC (f : FV) (tys : List Nat) (rm : BitVec 4) : Bool :=
  f.kinds tys rm && f.sub == 0 && f.bLegal
/-- F-V with VD, VA. -/
def FV.opA (f : FV) (tys : List Nat) (rm : BitVec 4) (sub : Nat → Bool) : Bool :=
  f.kinds tys rm && sub f.sub.toNat && f.bAbsent && f.vc == 0

/-- SUB must be zero. -/
def subZero (n : Nat) : Bool := n == 0
/-- SUB lies below a limit. -/
def subBelow (k n : Nat) : Bool := n < k

/-- The Scan table and its limits (R39, R132, R133). -/
def FV.scanLegal (f : FV) (excl : Bool) : Bool :=
  let s := f.sub.toNat
  let op := s % 8
  let wide := s / 16 % 2 == 1
  f.bAbsent && f.vc == 0 && op ≤ 5 && s / 32 == 0 && (excl || s / 8 % 2 == 0)
    && (if f.ty == 8 then f.kinds [8] rmRnd && op ≤ 2 else f.kinds tyInt rmSat)
    && (!wide || ((f.ty == 2 || f.ty == 3) && op == 0))

/-- Operand B of F-S (R32): IMM23 when IM is 1, and then SB is 0; S[SB] when IM is 0, and then IMM23 is 0. -/
def FS.bLegal (f : FS) : Bool := if f.im then f.sb == 0 else f.imm == 0
/-- F-S with SD, SA, B. -/
def FS.opAB (f : FS) (sub : Nat → Bool) : Bool := sub f.sub.toNat && f.bLegal
/-- F-S with SD alone. -/
def FS.sdOnly (f : FS) : Bool := f.sa == 0 && f.sb == 0 && f.sub == 0 && !f.im && f.imm == 0

/-- ORD and SC agree in F-M (R35). -/
def scopeAgrees (ord : BitVec 2) (sc : BitVec 3) : Bool :=
  if ord == 0 then sc == 0 else 1 ≤ sc.toNat && sc.toNat ≤ 5

/-- The address fields of F-M: SB is zero in AM 0, VA in AM 1 (R32, R205). -/
def amLegal (am : BitVec 2) (sb : BitVec 6) (va : BitVec 7) : Bool :=
  am != 3 && (am != 0 || sb == 0) && (am != 1 || va == 0)

/-- F-M of a load or a store: `rel` is the ORD code it permits beside plain. -/
def FM.access (f : FM) (rel : BitVec 2) : Bool :=
  amLegal f.am f.sb f.va && f.sp.toNat ≤ 4 && f.w.toNat ≤ 5 && (f.ord == 0 || f.ord == rel)
    && scopeAgrees f.ord f.sc
/-- LDS and STS: AM 1, SP 1 to 4, W 0 to 3, VT[6] zero (R208). -/
def FM.scalar (f : FM) (rel : BitVec 2) : Bool :=
  f.access rel && f.am == 1 && f.sp != 0 && f.w.toNat ≤ 3 && f.vt.toNat < 64

/-- The atomics (R35, R41, R212). -/
def FA.access (f : FA) (aop : Bool) : Bool :=
  amLegal f.am f.sb f.va && 1 ≤ f.sp.toNat && f.sp.toNat ≤ 4 && (f.w == 2 || f.w == 3)
    && 1 ≤ f.sc.toNat && f.sc.toNat ≤ 5
    && (if aop then f.aop.toNat ≤ 12 && (f.aop.toNat ≤ 10 || f.w == 2) else f.aop == 0)

/-- SD is zero where no reply is written (R230, R318). -/
def FE.reply (f : FE) : Bool := f.rp || f.sd == 0
/-- ENG (R230). -/
def FE.eng (f : FE) : Bool := f.reply && f.sc.toNat ≤ 5

/-- The F-X fields beside SA, SB and SO. -/
def FX.rest (f : FX) (fsa fsb bnk : Bool) (imm : Nat → Bool) : Bool :=
  f.sub == 0 && (fsa || f.fsa == 0) && (fsb || f.fsb == 0) && (bnk || !f.bnk) && imm f.imm.toNat

/-- The assigned system registers (15_traps.md R354). -/
def sysregAssigned (n : Nat) : Bool :=
  n ≤ 0x006 || (0x010 ≤ n && n ≤ 0x01D) || (0x030 ≤ n && n ≤ 0x037) || (0x100 ≤ n && n ≤ 0x12E)

/-- F-Y with every operand field zero. -/
def FY.bare (f : FY) : Bool := f.sd == 0 && f.sysreg == 0 && f.sub == 0 && f.imm == 0

/-- A label id that names a label: 0xFFFF names none (R32). -/
def isLabel (x : BitVec 16) : Bool := x != 0xFFFF

/-- Whether the fields of a word are those its instruction permits (02_formats.md R37). Events have no encoding and
no limit here. `illenc` is the row of the words that no instruction has. -/
def Instr.wf : Instr → Bool
  | .nop f | .ret f | .exit f | .yieldBand f => f.lid == 0 && f.lid2 == 0 && f.va == 0 && f.attr == 0
  | .lbl f => f.g.pg == 0 && !f.g.gn && f.lid2 == 0 && f.va == 0 && f.attr != 3
      && (isLabel f.lid || f.attr == 0)
  | .go f => isLabel f.lid && f.lid2 == 0 && f.va == 0 && f.attr == 0
  | .goi f => f.lid == 0 && f.lid2 == 0 && f.attr == 0
  | .call f => isLabel f.lid && isLabel f.lid2 && f.va == 0 && f.attr == 0
  | .calli f => f.lid == 0 && isLabel f.lid2 && f.attr == 0
  | .lblid f => f.imm.toNat < 0xFFFF && f.va == 0 && (f.ty2 == 0 || (f.ty2 == 1 && f.vd.toNat < 64))
  | .swcnt f | .cens f | .tid f => f.sdOnly
  | .iadd f | .isub f | .imul f | .shl f => f.opAB tyInt rmSat subZero
  | .imulh f => f.opAB [0, 1, 2, 3] rmNone subZero
  | .imad f => f.opABC tyInt rmSat
  | .imadw f | .iaddc f => f.opABC [0, 1] rmNone
  | .imin f | .imax f => f.opAB tyInt rmNone subZero
  | .iabs f | .ineg f => f.opA tyI rmSat subZero
  | .icmp f => f.opAB tyInt rmNone (subBelow 6)
  | .isel f => f.opABC [0, 6] rmNone
  | .lea f => f.opAB [0, 1] rmNone (subBelow 64)
  | .isad f => f.opABC [2, 3, 4, 5] rmNone
  | .mov f => f.opAB [0, 6] rmNone subZero && f.va == 0
  | .vand f | .vor f | .vxor f => f.opAB [0, 6] rmNone subZero
  | .vnot f => f.opA [0, 6] rmNone subZero
  | .shr f => f.opAB tyN rmNone subZero
  | .sar f => f.opAB tyI rmNone subZero
  | .rot f => f.opAB [1, 7] rmNone subZero
  | .bfe f => f.opABC [0, 1, 6, 7] rmNone
  | .bfi f => f.opABC [1, 7] rmNone
  | .popc f | .clz f | .brev f => f.opA [1, 7] rmNone subZero
  | .prmb f => f.opAB [1] rmNone subZero
  | .movi f => f.ty2 != 3 && f.va == 0
  | .iaddi f => f.ty2 != 3
  | .fadd f | .fmul f => f.opAB tyFlt rmRndFtz subZero
  | .ffma f => f.opABC tyFlt rmRndFtz
  | .fmin f | .fmax f => f.opAB tyFlt rmFtz subZero
  | .fcmp f => f.opAB tyFlt rmFtz (subBelow 8)
  | .fsfu f => f.opA [8] rmFtz (subBelow 8)
  | .frnd f => f.opA tyFlt rmRndFtz subZero
  | .fclass f => f.opA tyFlt rmNone subZero
  | .fdiv f => f.opAB [8] rmRndFtz subZero
  | .cvt f => f.opA (tyInt ++ tyFlt) rmAll (subBelow 11)
  | .qnt f | .dqnt f => f.opAB tyFlt rmNone (subBelow 8)
  | .amax f => f.opA tyFlt rmNone (subBelow 3) && !(f.sub == 2 && f.ty == 8)
  | .pkt5 f | .upkt5 f => f.opA [4] rmNone subZero
  | .shfl f => f.opAB [0, 6] rmNone (subBelow 5) && (f.sub != 4 || f.bAbsent)
  | .scan f => f.scanLegal true
  | .rdc f => f.scanLegal false
  | .cmpct f => f.kinds [0, 6] rmNone && f.sub == 0 && f.bAbsent
  | .vote f => f.opA [0] rmNone (subBelow 4)
  | .sadd f | .ssub f | .smul f | .sand f | .sor f | .sxor f | .sshl f | .ssel f => f.opAB subZero
  | .sshr f | .smin f | .smax f => f.opAB (subBelow 2)
  | .smov f => f.opAB subZero && f.sa == 0
  | .scmp f => f.opAB (fun s => s % 8 ≤ 5 && s < 16)
  | .srdl f => f.sa == 0 && f.im && f.imm.toNat < 128 && (f.sub == 0 || (f.sub == 1 && f.sb == 0))
  | .smovi f => f.sa == 0 && f.sb == 0 && f.im && f.sub == 0
  | .smovh f => f.sa == 0 && f.sb == 0 && f.im && (f.sub == 0 || f.sub == 1 || (f.sub == 2 && f.imm.toNat < 2 ^ 18))
  | .plop f => f.kinds [0] rmNone && f.sub.toNat < 16 && f.bk == 0 && f.vc == 0
  | .pset f => f.ty2 == 0 && f.va == 0
  | .ptov f | .vtop f | .pcnt f => f.opA [0] rmNone subZero
  | .sprd f => f.opAB [0] rmNone subZero && f.bk == 1 && f.va == 0
  | .ld f => f.access 1
  | .st f => f.access 2
  | .lds f => f.scalar 1
  | .sts f => f.scalar 2
  | .pref f => amLegal f.am f.sb f.va && f.sp.toNat ≤ 4 && f.w == 0 && f.ord == 0 && f.sc == 0 && f.vt == 0
  | .cctl f => amLegal f.am f.sb f.va && f.sp == 4 && f.w == 0 && f.ord == 0 && f.sc == 0 && f.cp == 0
      && f.vt.toNat ≤ 2
  | .ldtr f => amLegal f.am f.sb f.va && f.am != 0 && (f.sp == 1 || f.sp == 2) && (f.w == 1 || f.w == 2)
      && f.ord == 0 && f.sc == 0 && f.cp == 0
  | .fence f => f.sd == 0 && f.sysreg == 0 && f.imm == 0 && 1 ≤ f.sub.toNat % 8 && f.sub.toNat % 8 ≤ 5
      && f.sub.toNat / 8 ≤ 2
  | .fencex f | .trapf f | .rte f => f.bare
  | .waitc f | .trap f | .bkill f => f.sd == 0 && f.sysreg == 0 && f.sub == 0
  | .flagc f => f.sd == 0 && f.sysreg == 0 && f.sub == 0 && f.imm.toNat < 512
  | .sysrd f | .syswr f => sysregAssigned f.sysreg.toNat && f.sub == 0 && f.imm == 0
  | .atom f => f.access true
  | .acas f => f.access false
  | .atoms f => f.access true && f.am == 1 && f.vt.toNat < 64 && f.vx.toNat < 64
  | .red f => f.access true && f.vt == 0
  | .cpyLin f | .cpy2d f | .cpyRowg f | .cpyRows f | .cpyMrow f | .cpyFill f | .cpyZc f | .cpyZd f
  | .collAr f | .collRs f | .collAg f | .collBc f | .ckpt f => f.eng
  | .binit f => f.sd == 0 && !f.rp && f.sb == 0 && f.sc == 0
  | .barv f => f.reply && f.sa == 0 && f.sb == 0 && f.sc == 0
  | .bexp f => f.sd == 0 && !f.rp && f.sc == 0
  | .btest f => f.rp && f.sa == 0 && f.sb == 0 && f.sc == 0
  | .bwait f => isLabel f.lid
  | .mldb f => f.rest false true true subZero
  | .mbank f => f.sa == 0 && f.sb == 0 && f.rest false false true subZero
  | .mma f | .mmag f => f.rest true true false subZero
  | .macz f => f.sa == 0 && f.rest false false false (subBelow 2048)
  | .macr f => f.rest false true false subZero
  | .macv f | .clvote f => f.rest false false false (subBelow 128)
  | .clcfg f | .clld f | .clst f | .clseed f | .clcnt f => f.rest false false false subZero
  | .clinf f => f.sb == 0 && f.rest false false false (subBelow 128)
  | .clfb f => f.sa == 0 && f.rest false false false (subBelow 128)
  | .cltab f => f.sb == 0 && f.rest false false false subZero
  | .clfnc f => f.sa == 0 && f.sb == 0 && f.rest false false false subZero
  | .spawn f => isLabel f.lid && f.lid2 == 0 && f.attr == 0
  | .tqenq f | .tqdeq f | .dcadd f => f.reply && f.so == 0 && f.sc == 0
  | .dcinit f => f.sd == 0 && !f.rp && f.so == 0 && f.sc == 0
  | .dcdec f => f.reply && f.sb == 0 && f.so == 0 && f.sc == 0
  | .binfl f => f.sd == 0 && !f.rp && f.sb == 0 && f.so == 0 && f.sc == 0
  | .targ f => f.sa == 0 && f.sb == 0 && f.sub == 0 && f.im && f.imm.toNat ≤ 4
  | .prog f => f.sd == 0 && f.sa == 0 && f.opAB subZero
  | .hprio w => w.toNat % 256 == 0xF0
  | .hreuse w => w.toNat % 256 == 0xF1
  | .hintNop w => 0xF2 ≤ w.toNat % 256 && w.toNat % 256 ≤ 0xF7
  | .idot4 w => w.toNat % 256 == 0xF8
  | .emulateTrap w => 0xF9 ≤ w.toNat % 256 && w.toNat % 256 ≤ 0xFE
  | _ => true

/-- One declared register. -/
def regOk (n : Nat) (r : BitVec 7) : Bool := r.toNat < n
/-- A group of `k` registers: the base a multiple of `k`, all of them declared (R30). -/
def groupOk (n k : Nat) (r : BitVec 7) : Bool := r.toNat % k == 0 && r.toNat + k ≤ n
/-- A register, or a pair at the 64-bit kinds (R30). -/
def kindOk (n : Nat) (ty : BitVec 4) (r : BitVec 7) : Bool :=
  if ty == 6 || ty == 7 then groupOk n 2 r else regOk n r
/-- Operand B as a vector register of the kind (BK 0), else no limit (R30, R34). -/
def FV.bOk (f : FV) (n : Nat) : Bool := f.bk != 0 || kindOk n f.ty f.vb
/-- Operand B as a single 32-bit register at every TY (R30). -/
def FV.bOneOk (f : FV) (n : Nat) : Bool := f.bk != 0 || regOk n f.vb
/-- The address registers of F-M: an even pair for GLB in AM 0, none in AM 1 (R30, R205). -/
def addrOk (n : Nat) (am : BitVec 2) (sp : BitVec 3) (va : BitVec 7) : Bool :=
  if am == 1 then true else if am == 0 && sp == 4 then groupOk n 2 va else regOk n va
/-- The data group of an access width (R30). -/
def dataOk (n : Nat) (w : BitVec 3) (vt : BitVec 7) : Bool :=
  groupOk n (if w.toNat ≤ 2 then 1 else 2 ^ (w.toNat - 2)) vt

/-- Whether every vector register a word names exists for a band that declares `n` of them, with each group's base
aligned (02_formats.md R30). -/
def Instr.regsOk (n : Nat) : Instr → Bool
  | .goi f | .calli f => regOk n f.va
  | .lblid f => f.ty2 != 0 || regOk n f.vd
  | .iadd f | .isub f | .imul f | .imulh f | .imin f | .imax f | .vand f | .vor f | .vxor f
  | .shl f | .shr f | .sar f | .rot f | .prmb f | .fadd f | .fmul f | .fmin f | .fmax f | .fdiv f =>
      kindOk n f.ty f.vd && kindOk n f.ty f.va && f.bOk n
  | .imad f | .ffma f => kindOk n f.ty f.vd && kindOk n f.ty f.va && f.bOk n && kindOk n f.ty f.vc
  | .imadw f => groupOk n 2 f.vd && regOk n f.va && f.bOneOk n && groupOk n 2 f.vc
  | .iabs f | .ineg f | .vnot f | .popc f | .clz f | .brev f | .frnd f | .fclass f | .fsfu f | .amax f
  | .cmpct f => kindOk n f.ty f.vd && kindOk n f.ty f.va
  | .iaddc f | .isel f => kindOk n f.ty f.vd && kindOk n f.ty f.va && f.bOk n
  | .icmp f | .fcmp f => kindOk n f.ty f.va && f.bOk n
  | .lea f => groupOk n 2 f.vd && groupOk n 2 f.va && f.bOneOk n
  | .isad f => regOk n f.vd && regOk n f.va && f.bOk n && regOk n f.vc
  | .mov f => kindOk n f.ty f.vd && f.bOk n
  | .bfe f | .bfi f => kindOk n f.ty f.vd && kindOk n f.ty f.va && f.bOneOk n && regOk n f.vc
  | .movi f => if f.ty2 == 0 then regOk n f.vd else groupOk n 2 f.vd
  | .iaddi f => regOk n f.vd && regOk n f.va
  | .cvt f => kindOk n f.ty f.va && kindOk n (BitVec.ofNat 4 f.sub.toNat) f.vd
  | .qnt f | .dqnt f => regOk n f.vd && regOk n f.va && f.bOneOk n
  | .pkt5 f => regOk n f.vd && groupOk n 2 f.va
  | .upkt5 f => groupOk n 2 f.vd && regOk n f.va
  | .shfl f => kindOk n f.ty f.vd && kindOk n f.ty f.va && (f.sub == 4 || f.bOneOk n)
  | .scan f | .rdc f =>
      (if f.sub.toNat / 16 % 2 == 1 then groupOk n 2 f.vd else kindOk n f.ty f.vd) && kindOk n f.ty f.va
  | .vote f => f.sub != 3 || regOk n f.vd
  | .srdl f => f.imm.toNat < n
  | .ptov f | .pcnt f => regOk n f.vd
  | .vtop f => regOk n f.va
  | .ld f | .st f => dataOk n f.w f.vt && addrOk n f.am f.sp f.va
  | .pref f | .cctl f => addrOk n f.am f.sp f.va
  | .ldtr f => regOk n f.vt && addrOk n f.am f.sp f.va
  | .atom f | .acas f => dataOk n f.w f.vt && dataOk n f.w f.vx && addrOk n f.am f.sp f.va
  | .red f => dataOk n f.w f.vx && addrOk n f.am f.sp f.va
  | .macv f | .clvote f => f.imm.toNat % 4 == 0 && f.imm.toNat + 4 ≤ n
  | .clinf f | .clfb f => f.imm.toNat < n
  | .spawn f => groupOk n 2 f.va
  | _ => true

end Sys2Proof
end

