-- ==== Sys2Proof/Decode.lean ====
section
/-! DEFINITION. Reading a 64-bit word as an instruction (02_formats.md R27 to R48) and, after it, the encoder written from
the same layouts (R31). Decoding is total: a word is an instruction or is rejected by name. -/

namespace Sys2Proof

/-- Bits [start + len - 1 : start] of a word. -/
def bitsOf (w : DWord) (start len : Nat) : BitVec len := w.extractLsb' start len

/-- The guard of a word (R27). -/
def parseGuard (w : DWord) : Guard := ⟨bitsOf w 8 7, w.getLsbD 15⟩

/-- F-V (R31). -/
def parseFV (w : DWord) : FV :=
  { g := parseGuard w, vd := bitsOf w 16 7, va := bitsOf w 23 7, vb := bitsOf w 30 7, vc := bitsOf w 37 7,
    bk := bitsOf w 44 2, sub := bitsOf w 46 6, ty := bitsOf w 52 4, rm := bitsOf w 56 4 }
/-- F-I (R31). -/
def parseFI (w : DWord) : FI :=
  { g := parseGuard w, vd := bitsOf w 16 7, va := bitsOf w 23 7, ty2 := bitsOf w 30 2, imm := bitsOf w 32 32 }
/-- F-S (R31). -/
def parseFS (w : DWord) : FS :=
  { g := parseGuard w, sd := bitsOf w 16 6, sa := bitsOf w 22 6, sb := bitsOf w 28 6, sub := bitsOf w 34 6,
    im := w.getLsbD 40, imm := bitsOf w 41 23 }
/-- F-M (R31). -/
def parseFM (w : DWord) : FM :=
  { g := parseGuard w, vt := bitsOf w 16 7, va := bitsOf w 23 7, am := bitsOf w 30 2, sp := bitsOf w 32 3,
    w := bitsOf w 35 3, sc := bitsOf w 38 3, ord := bitsOf w 41 2, cp := bitsOf w 43 2, sb := bitsOf w 45 6,
    off := bitsOf w 51 13 }
/-- F-M of the atomics (R31). -/
def parseFA (w : DWord) : FA :=
  { g := parseGuard w, vt := bitsOf w 16 7, va := bitsOf w 23 7, am := bitsOf w 30 2, sp := bitsOf w 32 3,
    w := bitsOf w 35 3, sc := bitsOf w 38 3, ord := bitsOf w 41 2, cp := bitsOf w 43 2, sb := bitsOf w 45 6,
    aop := bitsOf w 51 6, vx := bitsOf w 57 7 }
/-- F-C (R31, 04_sweep.md R100). -/
def parseFC (w : DWord) : FC :=
  { g := parseGuard w, lid := bitsOf w 16 16, lid2 := bitsOf w 32 16, va := bitsOf w 48 7, attr := bitsOf w 55 2 }
/-- F-C in the BWAIT layout (R31, 09_engines.md R245). -/
def parseFB (w : DWord) : FB :=
  { g := parseGuard w, lid := bitsOf w 16 16, so := bitsOf w 32 6, sa := bitsOf w 38 6, pd := bitsOf w 44 7 }
/-- F-E (R31); FN [40:34] is read by `rawInstr`. -/
def parseFE (w : DWord) : FE :=
  { g := parseGuard w, sd := bitsOf w 16 6, sa := bitsOf w 22 6, sb := bitsOf w 28 6, rp := w.getLsbD 41,
    so := bitsOf w 42 6, sc := bitsOf w 48 3 }
/-- F-X (R31). -/
def parseFX (w : DWord) : FX :=
  { g := parseGuard w, sa := bitsOf w 16 6, sb := bitsOf w 22 6, so := bitsOf w 28 6, fsa := bitsOf w 34 3,
    fsb := bitsOf w 37 3, sub := bitsOf w 40 6, bnk := w.getLsbD 46, imm := bitsOf w 47 17 }
/-- F-Y (R31). -/
def parseFY (w : DWord) : FY :=
  { g := parseGuard w, sd := bitsOf w 16 6, sysreg := bitsOf w 22 12, sub := bitsOf w 34 6, imm := bitsOf w 40 24 }

/-- The ENG function of FN (R40). -/
def rawEng (w : DWord) : Option Instr :=
  match (bitsOf w 34 7).toNat with
  | 0x00 => some (.cpyLin (parseFE w))
  | 0x01 => some (.cpy2d (parseFE w))
  | 0x02 => some (.cpyRowg (parseFE w))
  | 0x03 => some (.cpyRows (parseFE w))
  | 0x04 => some (.cpyMrow (parseFE w))
  | 0x05 => some (.cpyFill (parseFE w))
  | 0x06 => some (.cpyZc (parseFE w))
  | 0x07 => some (.cpyZd (parseFE w))
  | 0x10 => some (.collAr (parseFE w))
  | 0x11 => some (.collRs (parseFE w))
  | 0x12 => some (.collAg (parseFE w))
  | 0x13 => some (.collBc (parseFE w))
  | 0x20 => some (.ckpt (parseFE w))
  | _ => none

/-- The instruction that the opcode map assigns to OPC [7:0], with the fields of its format (R37); the hint space is
R44 and the emulation space R47. -/
def rawInstr (w : DWord) : Option Instr :=
  match (bitsOf w 0 8).toNat with
  | 0x00 => some (.nop (parseFC w))
  | 0x01 => some (.lbl (parseFC w))
  | 0x02 => some (.go (parseFC w))
  | 0x03 => some (.goi (parseFC w))
  | 0x04 => some (.call (parseFC w))
  | 0x05 => some (.calli (parseFC w))
  | 0x06 => some (.ret (parseFC w))
  | 0x07 => some (.exit (parseFC w))
  | 0x08 => some (.yieldBand (parseFC w))
  | 0x09 => some (.lblid (parseFI w))
  | 0x0A => some (.swcnt (parseFS w))
  | 0x0B => some (.cens (parseFS w))
  | 0x10 => some (.iadd (parseFV w))
  | 0x11 => some (.isub (parseFV w))
  | 0x12 => some (.imul (parseFV w))
  | 0x13 => some (.imulh (parseFV w))
  | 0x14 => some (.imad (parseFV w))
  | 0x15 => some (.imadw (parseFV w))
  | 0x16 => some (.imin (parseFV w))
  | 0x17 => some (.imax (parseFV w))
  | 0x18 => some (.iabs (parseFV w))
  | 0x19 => some (.ineg (parseFV w))
  | 0x1A => some (.iaddc (parseFV w))
  | 0x1B => some (.icmp (parseFV w))
  | 0x1C => some (.isel (parseFV w))
  | 0x1D => some (.lea (parseFV w))
  | 0x1E => some (.isad (parseFV w))
  | 0x1F => some (.mov (parseFV w))
  | 0x20 => some (.vand (parseFV w))
  | 0x21 => some (.vor (parseFV w))
  | 0x22 => some (.vxor (parseFV w))
  | 0x23 => some (.vnot (parseFV w))
  | 0x24 => some (.shl (parseFV w))
  | 0x25 => some (.shr (parseFV w))
  | 0x26 => some (.sar (parseFV w))
  | 0x27 => some (.rot (parseFV w))
  | 0x28 => some (.bfe (parseFV w))
  | 0x29 => some (.bfi (parseFV w))
  | 0x2A => some (.popc (parseFV w))
  | 0x2B => some (.clz (parseFV w))
  | 0x2C => some (.brev (parseFV w))
  | 0x2D => some (.prmb (parseFV w))
  | 0x2E => some (.movi (parseFI w))
  | 0x2F => some (.iaddi (parseFI w))
  | 0x30 => some (.fadd (parseFV w))
  | 0x31 => some (.fmul (parseFV w))
  | 0x32 => some (.ffma (parseFV w))
  | 0x33 => some (.fmin (parseFV w))
  | 0x34 => some (.fmax (parseFV w))
  | 0x35 => some (.fcmp (parseFV w))
  | 0x36 => some (.fsfu (parseFV w))
  | 0x37 => some (.frnd (parseFV w))
  | 0x38 => some (.fclass (parseFV w))
  | 0x39 => some (.fdiv (parseFV w))
  | 0x40 => some (.cvt (parseFV w))
  | 0x41 => some (.qnt (parseFV w))
  | 0x42 => some (.dqnt (parseFV w))
  | 0x43 => some (.amax (parseFV w))
  | 0x44 => some (.pkt5 (parseFV w))
  | 0x45 => some (.upkt5 (parseFV w))
  | 0x50 => some (.shfl (parseFV w))
  | 0x51 => some (.scan (parseFV w))
  | 0x52 => some (.rdc (parseFV w))
  | 0x53 => some (.cmpct (parseFV w))
  | 0x54 => some (.vote (parseFV w))
  | 0x60 => some (.sadd (parseFS w))
  | 0x61 => some (.ssub (parseFS w))
  | 0x62 => some (.smul (parseFS w))
  | 0x63 => some (.sand (parseFS w))
  | 0x64 => some (.sor (parseFS w))
  | 0x65 => some (.sxor (parseFS w))
  | 0x66 => some (.sshl (parseFS w))
  | 0x67 => some (.sshr (parseFS w))
  | 0x68 => some (.smov (parseFS w))
  | 0x69 => some (.scmp (parseFS w))
  | 0x6A => some (.ssel (parseFS w))
  | 0x6B => some (.srdl (parseFS w))
  | 0x6C => some (.smin (parseFS w))
  | 0x6D => some (.smax (parseFS w))
  | 0x6E => some (.smovi (parseFS w))
  | 0x6F => some (.smovh (parseFS w))
  | 0x70 => some (.plop (parseFV w))
  | 0x71 => some (.pset (parseFI w))
  | 0x72 => some (.ptov (parseFV w))
  | 0x73 => some (.vtop (parseFV w))
  | 0x74 => some (.pcnt (parseFV w))
  | 0x75 => some (.sprd (parseFV w))
  | 0x80 => some (.ld (parseFM w))
  | 0x81 => some (.st (parseFM w))
  | 0x82 => some (.lds (parseFM w))
  | 0x83 => some (.sts (parseFM w))
  | 0x84 => some (.pref (parseFM w))
  | 0x85 => some (.cctl (parseFM w))
  | 0x86 => some (.fence (parseFY w))
  | 0x87 => some (.fencex (parseFY w))
  | 0x88 => some (.waitc (parseFY w))
  | 0x89 => some (.ldtr (parseFM w))
  | 0x90 => some (.atom (parseFA w))
  | 0x91 => some (.acas (parseFA w))
  | 0x92 => some (.atoms (parseFA w))
  | 0x93 => some (.red (parseFA w))
  | 0xA0 => rawEng w
  | 0xA1 => some (.binit (parseFE w))
  | 0xA2 => some (.barv (parseFE w))
  | 0xA3 => some (.bwait (parseFB w))
  | 0xA4 => some (.bexp (parseFE w))
  | 0xA5 => some (.btest (parseFE w))
  | 0xB0 => some (.mldb (parseFX w))
  | 0xB1 => some (.mbank (parseFX w))
  | 0xB2 => some (.mma (parseFX w))
  | 0xB3 => some (.mmag (parseFX w))
  | 0xB4 => some (.macz (parseFX w))
  | 0xB5 => some (.macr (parseFX w))
  | 0xB6 => some (.macv (parseFX w))
  | 0xC0 => some (.clcfg (parseFX w))
  | 0xC1 => some (.clld (parseFX w))
  | 0xC2 => some (.clst (parseFX w))
  | 0xC3 => some (.clinf (parseFX w))
  | 0xC4 => some (.clvote (parseFX w))
  | 0xC5 => some (.clfb (parseFX w))
  | 0xC6 => some (.cltab (parseFX w))
  | 0xC7 => some (.clseed (parseFX w))
  | 0xC8 => some (.clfnc (parseFX w))
  | 0xC9 => some (.clcnt (parseFX w))
  | 0xD0 => some (.spawn (parseFC w))
  | 0xD1 => some (.tqenq (parseFE w))
  | 0xD2 => some (.tqdeq (parseFE w))
  | 0xD3 => some (.dcinit (parseFE w))
  | 0xD4 => some (.dcdec (parseFE w))
  | 0xD5 => some (.dcadd (parseFE w))
  | 0xD6 => some (.binfl (parseFE w))
  | 0xD7 => some (.targ (parseFS w))
  | 0xD8 => some (.tid (parseFS w))
  | 0xD9 => some (.prog (parseFS w))
  | 0xE0 => some (.trapf (parseFY w))
  | 0xE1 => some (.trap (parseFY w))
  | 0xE2 => some (.rte (parseFY w))
  | 0xE3 => some (.sysrd (parseFY w))
  | 0xE4 => some (.syswr (parseFY w))
  | 0xE5 => some (.flagc (parseFY w))
  | 0xE6 => some (.bkill (parseFY w))
  | 0xF0 => some (.hprio w)
  | 0xF1 => some (.hreuse w)
  | 0xF2 => some (.hintNop w)
  | 0xF3 => some (.hintNop w)
  | 0xF4 => some (.hintNop w)
  | 0xF5 => some (.hintNop w)
  | 0xF6 => some (.hintNop w)
  | 0xF7 => some (.hintNop w)
  | 0xF8 => some (.idot4 w)
  | 0xF9 => some (.emulateTrap w)
  | 0xFA => some (.emulateTrap w)
  | 0xFB => some (.emulateTrap w)
  | 0xFC => some (.emulateTrap w)
  | 0xFD => some (.emulateTrap w)
  | 0xFE => some (.emulateTrap w)
  | _ => none

/-- Bits [15:0]: GN, PG, OPC (R27). -/
def packLow (g : Guard) (opc : BitVec 8) : BitVec 16 := BitVec.ofBool g.gn ++ g.pg ++ opc
/-- F-V (R31). -/
def packFV (opc : BitVec 8) (f : FV) : DWord :=
  (0#4) ++ f.rm ++ f.ty ++ f.sub ++ f.bk ++ f.vc ++ f.vb ++ f.va ++ f.vd ++ packLow f.g opc
/-- F-I (R31). -/
def packFI (opc : BitVec 8) (f : FI) : DWord := f.imm ++ f.ty2 ++ f.va ++ f.vd ++ packLow f.g opc
/-- F-S (R31). -/
def packFS (opc : BitVec 8) (f : FS) : DWord :=
  f.imm ++ BitVec.ofBool f.im ++ f.sub ++ f.sb ++ f.sa ++ f.sd ++ packLow f.g opc
/-- F-M (R31). -/
def packFM (opc : BitVec 8) (f : FM) : DWord :=
  f.off ++ f.sb ++ f.cp ++ f.ord ++ f.sc ++ f.w ++ f.sp ++ f.am ++ f.va ++ f.vt ++ packLow f.g opc
/-- F-M of the atomics (R31). -/
def packFA (opc : BitVec 8) (f : FA) : DWord :=
  f.vx ++ f.aop ++ f.sb ++ f.cp ++ f.ord ++ f.sc ++ f.w ++ f.sp ++ f.am ++ f.va ++ f.vt ++ packLow f.g opc
/-- F-C (R31). -/
def packFC (opc : BitVec 8) (f : FC) : DWord :=
  (0#7) ++ f.attr ++ f.va ++ f.lid2 ++ f.lid ++ packLow f.g opc
/-- F-C in the BWAIT layout (R31). -/
def packFB (opc : BitVec 8) (f : FB) : DWord :=
  (0#13) ++ f.pd ++ f.sa ++ f.so ++ f.lid ++ packLow f.g opc
/-- F-E (R31) with its function code. -/
def packFE (opc : BitVec 8) (fn : BitVec 7) (f : FE) : DWord :=
  (0#13) ++ f.sc ++ f.so ++ BitVec.ofBool f.rp ++ fn ++ f.sb ++ f.sa ++ f.sd ++ packLow f.g opc
/-- F-X (R31). -/
def packFX (opc : BitVec 8) (f : FX) : DWord :=
  f.imm ++ BitVec.ofBool f.bnk ++ f.sub ++ f.fsb ++ f.fsa ++ f.so ++ f.sb ++ f.sa ++ packLow f.g opc
/-- F-Y (R31). -/
def packFY (opc : BitVec 8) (f : FY) : DWord :=
  f.imm ++ f.sub ++ f.sysreg ++ f.sd ++ packLow f.g opc

/-- The word of an instruction (R31, R37, R40). Events have no word; they give 0. -/
def encode : Instr → DWord
  | .nop f => packFC 0x00 f
  | .lbl f => packFC 0x01 f
  | .go f => packFC 0x02 f
  | .goi f => packFC 0x03 f
  | .call f => packFC 0x04 f
  | .calli f => packFC 0x05 f
  | .ret f => packFC 0x06 f
  | .exit f => packFC 0x07 f
  | .yieldBand f => packFC 0x08 f
  | .lblid f => packFI 0x09 f
  | .swcnt f => packFS 0x0A f
  | .cens f => packFS 0x0B f
  | .iadd f => packFV 0x10 f
  | .isub f => packFV 0x11 f
  | .imul f => packFV 0x12 f
  | .imulh f => packFV 0x13 f
  | .imad f => packFV 0x14 f
  | .imadw f => packFV 0x15 f
  | .imin f => packFV 0x16 f
  | .imax f => packFV 0x17 f
  | .iabs f => packFV 0x18 f
  | .ineg f => packFV 0x19 f
  | .iaddc f => packFV 0x1A f
  | .icmp f => packFV 0x1B f
  | .isel f => packFV 0x1C f
  | .lea f => packFV 0x1D f
  | .isad f => packFV 0x1E f
  | .mov f => packFV 0x1F f
  | .vand f => packFV 0x20 f
  | .vor f => packFV 0x21 f
  | .vxor f => packFV 0x22 f
  | .vnot f => packFV 0x23 f
  | .shl f => packFV 0x24 f
  | .shr f => packFV 0x25 f
  | .sar f => packFV 0x26 f
  | .rot f => packFV 0x27 f
  | .bfe f => packFV 0x28 f
  | .bfi f => packFV 0x29 f
  | .popc f => packFV 0x2A f
  | .clz f => packFV 0x2B f
  | .brev f => packFV 0x2C f
  | .prmb f => packFV 0x2D f
  | .movi f => packFI 0x2E f
  | .iaddi f => packFI 0x2F f
  | .fadd f => packFV 0x30 f
  | .fmul f => packFV 0x31 f
  | .ffma f => packFV 0x32 f
  | .fmin f => packFV 0x33 f
  | .fmax f => packFV 0x34 f
  | .fcmp f => packFV 0x35 f
  | .fsfu f => packFV 0x36 f
  | .frnd f => packFV 0x37 f
  | .fclass f => packFV 0x38 f
  | .fdiv f => packFV 0x39 f
  | .cvt f => packFV 0x40 f
  | .qnt f => packFV 0x41 f
  | .dqnt f => packFV 0x42 f
  | .amax f => packFV 0x43 f
  | .pkt5 f => packFV 0x44 f
  | .upkt5 f => packFV 0x45 f
  | .shfl f => packFV 0x50 f
  | .scan f => packFV 0x51 f
  | .rdc f => packFV 0x52 f
  | .cmpct f => packFV 0x53 f
  | .vote f => packFV 0x54 f
  | .sadd f => packFS 0x60 f
  | .ssub f => packFS 0x61 f
  | .smul f => packFS 0x62 f
  | .sand f => packFS 0x63 f
  | .sor f => packFS 0x64 f
  | .sxor f => packFS 0x65 f
  | .sshl f => packFS 0x66 f
  | .sshr f => packFS 0x67 f
  | .smov f => packFS 0x68 f
  | .scmp f => packFS 0x69 f
  | .ssel f => packFS 0x6A f
  | .srdl f => packFS 0x6B f
  | .smin f => packFS 0x6C f
  | .smax f => packFS 0x6D f
  | .smovi f => packFS 0x6E f
  | .smovh f => packFS 0x6F f
  | .plop f => packFV 0x70 f
  | .pset f => packFI 0x71 f
  | .ptov f => packFV 0x72 f
  | .vtop f => packFV 0x73 f
  | .pcnt f => packFV 0x74 f
  | .sprd f => packFV 0x75 f
  | .ld f => packFM 0x80 f
  | .st f => packFM 0x81 f
  | .lds f => packFM 0x82 f
  | .sts f => packFM 0x83 f
  | .pref f => packFM 0x84 f
  | .cctl f => packFM 0x85 f
  | .fence f => packFY 0x86 f
  | .fencex f => packFY 0x87 f
  | .waitc f => packFY 0x88 f
  | .ldtr f => packFM 0x89 f
  | .atom f => packFA 0x90 f
  | .acas f => packFA 0x91 f
  | .atoms f => packFA 0x92 f
  | .red f => packFA 0x93 f
  | .cpyLin f => packFE 0xA0 0x00 f
  | .cpy2d f => packFE 0xA0 0x01 f
  | .cpyRowg f => packFE 0xA0 0x02 f
  | .cpyRows f => packFE 0xA0 0x03 f
  | .cpyMrow f => packFE 0xA0 0x04 f
  | .cpyFill f => packFE 0xA0 0x05 f
  | .cpyZc f => packFE 0xA0 0x06 f
  | .cpyZd f => packFE 0xA0 0x07 f
  | .collAr f => packFE 0xA0 0x10 f
  | .collRs f => packFE 0xA0 0x11 f
  | .collAg f => packFE 0xA0 0x12 f
  | .collBc f => packFE 0xA0 0x13 f
  | .ckpt f => packFE 0xA0 0x20 f
  | .binit f => packFE 0xA1 0 f
  | .barv f => packFE 0xA2 0 f
  | .bwait f => packFB 0xA3 f
  | .bexp f => packFE 0xA4 0 f
  | .btest f => packFE 0xA5 0 f
  | .mldb f => packFX 0xB0 f
  | .mbank f => packFX 0xB1 f
  | .mma f => packFX 0xB2 f
  | .mmag f => packFX 0xB3 f
  | .macz f => packFX 0xB4 f
  | .macr f => packFX 0xB5 f
  | .macv f => packFX 0xB6 f
  | .clcfg f => packFX 0xC0 f
  | .clld f => packFX 0xC1 f
  | .clst f => packFX 0xC2 f
  | .clinf f => packFX 0xC3 f
  | .clvote f => packFX 0xC4 f
  | .clfb f => packFX 0xC5 f
  | .cltab f => packFX 0xC6 f
  | .clseed f => packFX 0xC7 f
  | .clfnc f => packFX 0xC8 f
  | .clcnt f => packFX 0xC9 f
  | .spawn f => packFC 0xD0 f
  | .tqenq f => packFE 0xD1 0 f
  | .tqdeq f => packFE 0xD2 0 f
  | .dcinit f => packFE 0xD3 0 f
  | .dcdec f => packFE 0xD4 0 f
  | .dcadd f => packFE 0xD5 0 f
  | .binfl f => packFE 0xD6 0 f
  | .targ f => packFS 0xD7 f
  | .tid f => packFS 0xD8 f
  | .prog f => packFS 0xD9 f
  | .trapf f => packFY 0xE0 f
  | .trap f => packFY 0xE1 f
  | .rte f => packFY 0xE2 f
  | .sysrd f => packFY 0xE3 f
  | .syswr f => packFY 0xE4 f
  | .flagc f => packFY 0xE5 f
  | .bkill f => packFY 0xE6 f
  | .hprio w | .hreuse w | .hintNop w | .idot4 w | .emulateTrap w | .illenc w => w
  | _ => 0

/-- Why a word is no instruction (R43): its opcode has no row in the opcode map or its FN no function, a bit that must
be zero is set, or a field holds a value its instruction does not permit. -/
inductive DecodeError where
  | noInstruction (opc : Nat)
  | mustBeZero (opc : Nat)
  | illegalField (opc : Nat)
  deriving DecidableEq, Repr

/-- Reads a word (R37, R43). A bit that the instruction's layout does not use must be zero, so the word is the one its
instruction encodes to. Hints are never checked (R44) and emulation space is accepted whatever its fields hold (R47).
The register limits of R30 depend on the band's declared count and are checked when the word issues. -/
def decode (w : DWord) : Except DecodeError Instr :=
  let opc := (bitsOf w 0 8).toNat
  match rawInstr w with
  | none => .error (.noInstruction opc)
  | some i =>
    if encode i = w then
      if i.wf then .ok i else .error (.illegalField opc)
    else .error (.mustBeZero opc)

/-- The instruction a band that declares `n` vector registers finds in a word: one whose registers exist (R30), or
the illegal encoding (R43). -/
def decodeFor (n : Nat) (w : DWord) : Instr :=
  match decode w with
  | .ok i => if i.regsOk n then i else .illenc w
  | .error _ => .illenc w

/-- The instruction that this decoder reads from a word whose bits the opcode table numbers: one 64-bit word, bit 0
the least significant, bits above `nbits` zero. None where the decoder refuses. -/
def decodeTableWord (nbits w : Nat) : Option Instr :=
  match decode (BitVec.ofNat 64 (w % 2 ^ nbits)) with
  | .ok i => some i
  | .error _ => none

end Sys2Proof
end

