-- ==== Sys2Proof/Config.lean ====
section
/-! DEFINITION. The free values of the model: constants without a body, one for each value the specification leaves
open. Nothing can be proved about their values (DESIGN CHOICE, assumption log entry 7). -/

namespace Sys2Proof

/-- A fresh free number for each count of `State.fresh`: every value the specification leaves open that has no
function of its own below (DESIGN CHOICE, assumption log entry 7). -/
opaque Config.free : Nat → Nat

/-- FSFU of function code `fn` on the F32 bits `x`: 'a fixed function of the input bits' that 'is not published'
(07_numbers.md R168). -/
opaque Config.sfu : Nat → Word → Word

/-- The energy weight, in nJ, of an event of the given kind (20_host.md R414: 'The weights are not part of Nalvis
and are not published'). The first argument is the kind of event, the second its size. -/
opaque Config.eventEnergy : Nat → Nat → Nat

/-- SHA-384 of a byte string (03_assembly.md R72, 20_host.md R412): its definition lies outside the specification. -/
opaque Config.sha384 : List Byte → List Byte

/-- Whether a signature verifies: key identifier, message, signature (03_assembly.md R72). -/
opaque Config.rsaVerifies : Nat → List Byte → List Byte → Bool
/-- Whether an SLH-DSA signature verifies: key identifier, message, signature (03_assembly.md R72). -/
opaque Config.slhVerifies : Nat → List Byte → List Byte → Bool

/-- Whether a key identifier names one of the module keys of the signed firmware image (20_host.md R412). -/
opaque Config.keyKnown : Nat → Bool

/-- Whether a firmware stage's two signatures verify (20_host.md R412; the layout of a stage is not given). -/
opaque Config.stageVerifies : List Byte → Bool
/-- FWSVN and MODSVN as a firmware stage's manifest raises them (20_host.md R412; the layout is not given). -/
opaque Config.stageSvn : List Byte → Nat × Nat

/-- The bytes of an ATTEST report over the given contents (20_host.md R413; the layout and the signatures are not
given). -/
opaque Config.attestReport : List Byte → List Byte

/-- The bytes of the answer to an SPDM request over the measurements (20_host.md R413; the messages are those of
SPDM 1.3, outside the specification). -/
opaque Config.spdmAnswer : Nat → List Byte → List Byte → List Byte

/-- Whether a CLINF reads row `c` ahead of a CLFB that precedes it, at a count of `State.fresh` (12_clause.md R282). -/
opaque Config.clinfReadsAhead : Nat → Nat → Bool

/-- Firmware's choice of a place for a resource, at a count of `State.fresh` (20_host.md R408: OPEN_CONTEXT 'places
PVBASE, the private region, CHIPLO and CHIPHI, DCBASE, FTBASE and CSAVE itself'). -/
opaque Config.firmwarePlace : Nat → Nat

end Sys2Proof
end

