-- ==== Sys2Proof/Machine/Tab.lean ====
section
/-! DEFINITION. The two plain-data containers of the state: a table from numbers to values, and a memory of bytes with
the poison marks of its protected units. Both are lists sorted by key. -/

namespace Sys2Proof.Machine

/-- A table: entries by rising key; a key without an entry holds the table's own default. -/
abbrev Tab (α : Type) := List (Nat × α)

/-- The entry of a key. -/
def Tab.find {α : Type} : Tab α → Nat → Option α
  | [], _ => none
  | (j, v) :: t, k => if j = k then some v else Tab.find t k

/-- The entry of a key, or the default. -/
def Tab.get {α : Type} (t : Tab α) (d : α) (k : Nat) : α := (t.find k).getD d

/-- Sets the entry of a key. -/
def Tab.put {α : Type} : Tab α → Nat → α → Tab α
  | [], k, v => [(k, v)]
  | (j, w) :: t, k, v =>
    if j = k then (k, v) :: t
    else if k < j then (k, v) :: (j, w) :: t
    else (j, w) :: Tab.put t k v

/-- Removes the entry of a key. -/
def Tab.drop {α : Type} : Tab α → Nat → Tab α
  | [], _ => []
  | (j, w) :: t, k => if j = k then Tab.drop t k else (j, w) :: Tab.drop t k

/-- The values of a table, by rising key. -/
def Tab.vals {α : Type} (t : Tab α) : List α := t.map (·.2)
/-- The keys of a table. -/
def Tab.keys {α : Type} (t : Tab α) : List Nat := t.map (·.1)

/-- The first element of a list that has a property, with its place. -/
def firstIdx {α : Type} (p : α → Bool) : Nat → List α → Option (Nat × α)
  | _, [] => none
  | n, a :: t => if p a then some (n, a) else firstIdx p (n + 1) t

/-- Bytes of a memory: strictly rising addresses, no entry equal to 0, which is what an unlisted address reads as
(DESIGN CHOICE, assumption log entry 3). -/
abbrev Cells := List Host.Cell

/-- The byte at an address. -/
def Cells.at : Cells → Nat → Byte
  | [], _ => 0
  | (j, v) :: t, a => if j = a then v else Cells.at t a

/-- Removes the entry of an address. -/
def Cells.drop : Cells → Nat → Cells
  | [], _ => []
  | (j, v) :: t, a => if j = a then Cells.drop t a else (j, v) :: Cells.drop t a

/-- Puts a nonzero byte at an address. -/
def Cells.put : Cells → Nat → Byte → Cells
  | [], a, v => [(a, v)]
  | (j, w) :: t, a, v =>
    if j = a then (a, v) :: t
    else if a < j then (a, v) :: (j, w) :: t
    else (j, w) :: Cells.put t a v

/-- Writes one byte, keeping the form: writing 0 removes the entry. -/
def Cells.set (m : Cells) (a : Nat) (v : Byte) : Cells := if v = 0 then m.drop a else m.put a v

/-- The canonical form: addresses strictly rising, no entry equal to 0. -/
def Cells.wf : Cells → Bool
  | [] => true
  | [(_, v)] => v != 0
  | (a, v) :: (b, w) :: t => v != 0 && decide (a < b) && Cells.wf ((b, w) :: t)

/-- A memory: its bytes, and the numbers of its poisoned units (15_traps.md R368, R369). -/
structure Memory where
  cells  : Cells
  poison : List Nat
  deriving DecidableEq, Repr

/-- A memory with nothing listed. -/
def Memory.empty : Memory := ⟨[], []⟩

/-- The canonical form of a memory. -/
def Memory.wf (m : Memory) : Bool := m.cells.wf

/-- The byte at an address. -/
def Memory.at (m : Memory) (a : Nat) : Byte := m.cells.at a

/-- Writes bytes at rising addresses. -/
def Cells.setMany : Cells → Nat → List Byte → Cells
  | m, _, [] => m
  | m, a, b :: t => Cells.setMany (m.set a b) (a + 1) t

/-- The bytes at `a` to `a + n - 1`. -/
def Memory.read (m : Memory) (a n : Nat) : List Byte := (List.range n).map fun i => m.cells.at (a + i)

/-- Writes bytes, clearing the poison of the units of `u` bytes that the write covers whole (R368: 'A write that covers
a whole protected unit clears its poison. A partial write leaves the unit poisoned'). -/
def Memory.write (u : Nat) (m : Memory) (a : Nat) (d : List Byte) : Memory :=
  ⟨m.cells.setMany a d, m.poison.filter fun k => !(decide (a ≤ k * u) && decide (k * u + u ≤ a + d.length))⟩

/-- Whether any of the `n` bytes at `a` lies in a poisoned unit of `u` bytes. -/
def Memory.poisoned (u : Nat) (m : Memory) (a n : Nat) : Bool :=
  m.poison.any fun k => decide (k * u < a + n) && decide (a < k * u + u)

/-- Marks the unit of `u` bytes that holds `a` poisoned. -/
def Memory.mark (u : Nat) (m : Memory) (a : Nat) : Memory :=
  if m.poison.contains (a / u) then m else ⟨m.cells, m.poison ++ [a / u]⟩

/-- A number as `n` bytes, least significant first (00_scope.md R4). -/
def toBytes (n v : Nat) : List Byte := (List.range n).map fun i => BitVec.ofNat 8 (v >>> (8 * i))

/-- Bytes as a number, least significant first (00_scope.md R4). -/
def ofBytes : List Byte → Nat
  | [] => 0
  | b :: t => b.toNat + 256 * ofBytes t

end Sys2Proof.Machine
end

