-- ==== Sys2Proof/Machine/State.lean ====
section
/-! DEFINITION. The state of the device: everything the specification names (INVENTORY.md, State), as plain data, the
reasons a step can stop, and the state after reset. -/

namespace Sys2Proof.Machine

/-! ### Bands -/

/-- The lane states of 04_sweep.md R76, in the order of the frame's LSTATE codes (15_traps.md R359). -/
inductive LaneSt where
  | running | wanting | blocked | exited
  deriving DecidableEq, Repr

/-- What a band holds per lane beside its registers (04_sweep.md R76): state, Want, Cond (object offset, generation,
status predicate), Depth, and the hardware entries of the return stack, the newest first. -/
structure Lane where
  st    : LaneSt
  want  : BitVec 16
  obj   : BitVec 20
  gen   : BitVec 4
  pd    : BitVec 7
  depth : BitVec 16
  top   : List (BitVec 16)
  deriving DecidableEq, Repr

/-- The kinds of operation that the operand log holds (08_memory.md R188, R218). -/
inductive OpKind where
  | load | store | loadS | storeS | loadT | atom | cas | atomS | red | cctl
  deriving DecidableEq, Repr

/-- A location an element names: a member's scratchpad, CHIP, PRIV of the lane, or an IA (08_memory.md R175). -/
inductive Loc where
  | scr (member off : Nat)
  | chip (off : Nat)
  | priv (off : Nat)
  | ia (a : Nat)
  deriving DecidableEq, Repr

/-- How far an element has come: not performed; its request sent to another device under number q; performed, with the
data it read; faulted with its MEM sub-cause and reason (08_memory.md R188); or faulted, its trap taken, and held until
RTE reissues it (R189). -/
inductive ElemSt where
  | pending
  | sent (dst : Nat) (q : BitVec 16)
  | done (data : List Byte)
  | faulted (sub reason : Nat)
  | taken
  deriving DecidableEq, Repr

/-- One lane's element of a logged operation: its location, store data or atomic operand, compare value, the window's
policy, and its status; its place in the band's order of effect, which is the operation's number until RTE reissues it
(08_memory.md R189, R190); and the 64-bit parts of a wide access already performed, with the data they read (R194). -/
structure Elem where
  lane : Nat
  loc  : Loc
  data : List Byte
  cmp  : List Byte
  cp   : Nat
  ep   : BitVec 16     -- the target EPOCH recorded at first issue (14_fabric.md R341)
  q    : Option (BitVec 16)  -- the sequence number reserved by a request that timed out (14_fabric.md R342)
  seq  : Nat
  got  : List (Nat × List Byte)
  st   : ElemSt
  deriving DecidableEq, Repr

/-- An entry of the operand log (08_memory.md R188). -/
structure MemOp where
  id    : Nat
  kind  : OpKind
  size  : Nat
  scope : Nat
  acq   : Bool
  rel   : Bool
  dst   : Nat
  aop   : Nat
  p     : BitVec 64
  kept  : Bool           -- it completed during a handler that it was issued before: RTE writes its destination again
  elems : List Elem
  deriving DecidableEq, Repr

/-- A sample of a CHECKED instruction that waits to be executed again (15_traps.md R372): the instruction's offset
divided by 8. -/
structure Sample where
  off : BitVec 32
  deriving DecidableEq, Repr

/-- A band in its slot. -/
structure Band where
  crew    : Nat          -- its crew's admission number on this core
  index   : Nat          -- band index in the crew
  p       : BitVec 64
  scnt    : BitVec 32
  yld     : Bool
  lanes   : List Lane
  v       : Tab Lanes
  pr      : Tab LaneMask
  s       : Tab DWord
  fs      : List Word
  flags   : BitVec 9
  fen     : BitVec 9
  tvec    : DWord
  tfrm    : DWord
  tl      : Bool
  cause   : DWord
  detail  : BitVec 96
  cstk    : DWord
  icnt    : DWord
  ccnt    : DWord
  handler : LaneMask     -- the handler lanes while TL = 1 (15_traps.md R358)
  late    : BitVec 9     -- Late of 15_traps.md R386
  trapAt  : Nat          -- the value of State.nextId at trap entry: what has a lower number was issued before
  permit  : Bool
  backoff : Nat          -- 64 to 4,096 (15_traps.md R357)
  waitTo  : Option Nat   -- the count at which the back-off ends
  hprio   : BitVec 2
  yldCycle : Nat         -- the cycle of the latest YIELD, and
  yldMark : Nat          -- the core's count of retired instructions at it (04_sweep.md R108)
  picked  : Nat          -- that count when a pipe last selected the band
  stall   : Nat          -- the cycle until which a latency keeps its next word from being ready (05_integer.md R111)
  log     : List MemOp
  acqAt   : Nat          -- the value of State.nextId at the band's latest acquire (08_memory.md R195)
  kids    : Nat          -- k of 13_tasks.md R301
  sampled : Nat          -- CHECKED count (15_traps.md R372)
  park    : Option Nat   -- the IA page whose service its fetch waits for (15_traps.md R365)
  hwerr   : List (BitVec 96)     -- pending HWERR details
  wdog    : Bool                 -- a pending WATCHDOG
  killed  : Bool         -- ended by a kill: fault responses are discarded (02_formats.md R43)
  deriving DecidableEq, Repr

/-! ### Tasks and crews -/

/-- A task: its record, id and what entry checks resolved (13_tasks.md R299 to R301). `lanes` is the lane tasks of a bin
band: argument pointer and id. `queue` of a bin band is 0, or 1 + the core on whose run list it stands
(15_traps.md R377). -/
structure Task where
  id     : BitVec 48
  ctx    : Nat
  mod    : Nat
  entry  : BitVec 16
  kind   : Nat           -- 0 bin band, 1 crew, 2 gang
  bytes  : List Byte
  fs     : List Word
  cluster : Nat
  queue  : Nat
  held   : Bool
  prio   : Nat
  lanes  : List (DWord × BitVec 48)
  since  : Nat           -- the cycle it began to wait (15_traps.md R374)
  deriving DecidableEq, Repr

/-- What the scheduler has decided for a crew (15_traps.md R364, R374 to R379): drain from an ICNT; a request held since a
cycle while a band is at TL = 1, and whether its choice allows the drain test; flush; save, begun at a cycle; a save that found no room, to be asked for again. -/
inductive PreAct where
  | drain (v : Nat) (icnt : Nat)
  | hold (since : Nat) (drain : Bool)
  | flush
  | save (since : Nat)
  | retry (at_ : Nat)
  deriving DecidableEq, Repr

/-- An entry of a crew's object table (09_engines.md R226): the offset, ARR, and a stamp of its last naming. -/
structure ObjEntry where
  off   : Nat
  arr   : LaneMask
  stamp : Nat
  deriving DecidableEq, Repr

/-- A resident crew. -/
structure Crew where
  task    : Task
  member  : Nat
  gang    : List (Nat × Nat)     -- core and crew number of every member, member 0 first
  slots   : List Nat             -- slot of band i
  place   : Nat                  -- byte place of the allotment
  size    : Nat                  -- bytes of the allotment
  regs    : Nat
  idem    : Bool
  paired  : Bool
  checked : Bool
  prog    : Option Nat           -- the last PROG (13_tasks.md R324)
  objs    : List ObjEntry
  stamp   : Nat
  rot     : Nat                  -- the rotation pointer's slot
  serial  : Nat                  -- age: order of admission
  since  : Nat                  -- the cycle of the last retirement (15_traps.md R351)
  count   : Nat                  -- the cycle from which the watchdog counts (15_traps.md R380)
  debit   : Nat                  -- µJ debited at admission
  used    : Nat                  -- nJ used
  pre     : Option PreAct
  gtCount : Nat                  -- GT = 1 MMAs issued (11_matrix.md R260)
  gone    : Bool                 -- exited; kept until its gang's last member exits (08_memory.md R178)
  deriving DecidableEq, Repr

/-! ### Caches -/

/-- A pin of a line (08_memory.md R198): the slot of the holder, the cycle of its latest CORE-scope release that pinned
the line, and the number State.nextId then had, which orders it against the acquires of the core's bands. -/
structure Pin where
  slot  : Nat
  cycle : Nat
  stamp : Nat
  deriving DecidableEq, Repr

/-- Whether a copy in an L1 may be older than the L2's (the model's own, 08_memory.md R193, R195): no write has passed it;
one that a CLUSTER-scope acquire must see; or only writes from outside the cluster that no core of the cluster has
acquired since. -/
inductive Age where
  | fresh | near | far
  deriving DecidableEq, Repr

/-- A line of an L1 (08_memory.md R186, R198). -/
structure L1Line where
  data    : List Byte
  dirty   : BitVec 128
  rperm   : Bool                 -- whether the page was found to permit reads
  wperm   : Bool                 -- whether the fill was granted write permission
  evict   : Bool                 -- evicted first
  keep    : Bool                 -- HREUSE asked to keep it
  pins    : List Pin
  mine    : Tab (BitVec 128)     -- by slot, 32 for the copy engine: bytes written since its previous release
  age     : Age
  poison  : BitVec 16
  deriving DecidableEq, Repr

/-- A line of the L2, with the leaf its fill used (08_memory.md R183 to R186). -/
structure L2Line where
  data   : List Byte
  dirty  : BitVec 128
  poison : BitVec 16
  pa     : Nat
  mt     : BitVec 2
  r      : Bool
  w      : Bool
  x      : Bool
  deriving DecidableEq, Repr

/-! ### The copy engine -/

/-- A collective under way at a member (09_engines.md R241, R242): the values it agrees on, its own data, and what has
arrived, by sender index; its step is its number among the collectives of its team here. -/
structure Coll where
  team    : BitVec 32
  step    : Nat
  nmem    : Nat
  me      : Nat
  members : List Nat
  ctl     : DWord
  len     : Nat
  kx      : BitVec 32
  own     : List Byte
  got     : List (Nat × List Byte)
  timer   : Nat                     -- the cycle its timer last started (14_fabric.md R344)
  deriving DecidableEq, Repr

/-- An ENG command from issue to completion (09_engines.md R220 to R243). A command works through numbered units: blocks
of 64 bytes, rows, chunks or granules; `part` and `woff` say how far the present unit has come. -/
structure EngCmd where
  id      : Nat
  slot    : Nat
  crew    : Nat
  fn      : Nat
  block   : List Byte
  stat    : DWord
  obj     : DWord
  sc      : Nat
  rp      : Bool
  sd      : Nat
  p       : BitVec 64
  accepted : Bool
  started : Bool
  idx     : List Nat             -- row indices, or the set groups of a mask
  cursor  : Nat                  -- units done
  part    : List Byte            -- bytes of the present unit already read
  woff    : Nat                  -- bytes of the present unit already written
  count   : Nat                  -- the reply's COUNT so far
  pos     : Nat                  -- bytes taken or given so far by a packed stream
  left    : Nat                  -- bytes still to be counted on the object
  far     : Nat                  -- of these, bytes that count in OUTB
  bits    : List Nat             -- positions whose status bit is 1
  fault   : Option (Nat × Nat)   -- FCODE and FAUX of the first error
  wide    : Nat                  -- its scope (R230)
  sent    : Option (Nat × BitVec 16)   -- the remote request it waits for
  flags   : BitVec 9
  since   : Nat                  -- the cycle of its issue
  coll    : Option Coll
  finished : Bool                -- nothing is left but the reply
  deriving DecidableEq, Repr

/-! ### The matrix unit and the clause array -/

/-- An accumulator element (07_numbers.md R155): the exact sum of its contributions, of which A is the low 128 bits and
the rest the hidden extension; the anchor; the sticky inexact bit. -/
structure Acc where
  sum     : Int
  anchor  : BitVec 11
  inexact : Bool
  deriving DecidableEq, Repr

/-- A matrix instruction from issue to completion (11_matrix.md R253 to R255). -/
structure MxCmd where
  id    : Nat
  slot  : Nat
  crew  : Nat
  op    : Nat
  sa    : DWord
  sb    : DWord
  obj   : DWord
  fsa   : Word
  fsb   : Word
  bnk   : Bool
  imm   : BitVec 17
  run   : LaneMask
  gt    : Option Nat             -- its number among the member's GT = 1 MMAs
  p     : BitVec 64
  accepted : Bool
  notOwner : Bool                -- issued while another crew owned the unit (11_matrix.md R252)
  seen  : List (Nat × Nat × List Byte)   -- operand bytes the unit has already read: core, byte, data (08_memory.md R203)
  deriving DecidableEq, Repr

/-- One bank of CIM cells (11_matrix.md R249). -/
structure Bank where
  cells  : Tab (BitVec 320)      -- by K-row
  parity : Tab (BitVec 320)      -- by macro: columns whose parity does not hold
  bad    : Tab (BitVec 320)      -- by macro
  slot   : Word
  scales : Tab Byte              -- by block × 160 + column; default 127
  deriving DecidableEq, Repr

/-- The matrix unit of a core (11_matrix.md R249). -/
structure Matrix where
  owner : Option Nat
  bank0 : Bank
  bank1 : Bank
  sel   : Bool
  acc   : Tab Acc
  queue : List MxCmd
  gts   : List (Nat × MxCmd)     -- (member's number, command): GT = 1 MMAs issued, for pairing (R260)
  deriving DecidableEq, Repr

/-- A clause instruction from issue to completion (12_clause.md R279 to R285). -/
structure ClCmd where
  id    : Nat
  core  : Nat
  slot  : Nat
  crew  : Nat
  ctx   : Nat
  op    : Nat
  sa    : DWord
  sb    : DWord
  obj   : DWord
  feat  : BitVec 512
  imm   : BitVec 17
  run   : LaneMask
  p     : BitVec 64
  accepted : Bool
  noArray : Bool
  seen  : Tab (Tab Byte)         -- rows a CLINF has already seen, as they stood (12_clause.md R282)
  saw   : List Nat               -- their numbers
  cursor : Nat                   -- rows done by CLLD and CLST
  part  : List Byte
  sent  : List (Nat × BitVec 16)
  errs  : List (Nat × Nat)       -- FCODE and FAUX of the errors met so far
  deriving DecidableEq, Repr

/-- What firmware saves of a clause array (12_clause.md R278). -/
structure ClState where
  rows   : Tab (Tab Byte)        -- by clause row, by literal; default 127
  cfg    : Tab (BitVec 16)
  t      : Tab (BitVec 16)
  pia    : BitVec 16
  pib    : BitVec 16
  seed   : BitVec 32
  step   : BitVec 32
  poison : List Nat
  deriving DecidableEq, Repr

/-- The clause array of a cluster (12_clause.md R275). -/
structure ClArray where
  owner : Option Nat
  st    : ClState
  queue : List ClCmd
  deriving DecidableEq, Repr

/-! ### Cores and clusters -/

/-- A core (01_machine.md R12). -/
structure Core where
  bands : Tab Band               -- by slot
  crews : Tab Crew               -- by admission number
  scr   : Memory
  last  : Tab Nat                -- by 4 KiB page of the scratchpad: 1 + the context that last wrote it
  carve : Nat                    -- KiB of scratchpad
  l1    : Tab L1Line             -- by IA div 128
  labels : List (Nat × Nat × Nat) -- cached label entries (context, handle, id), most recent first
  window : Option Nat            -- the collector's open window: the cycle it opened
  eng   : List EngCmd
  mx    : Matrix
  released : Bool                -- a CORE-scope release was performed and not yet promoted (08_memory.md R199)
  retires : Nat                  -- instructions retired by the core's bands (15_traps.md R357)
  samples : List (Nat × Sample)  -- the replay queue, at most 8: slot, sample
  deriving DecidableEq, Repr

/-- A lane-task bin (13_tasks.md R302): its key, lane tasks (pointer, id) in order of entry, PRIO of the first, the
cycle its timer started. -/
structure Bin where
  ctx   : Nat
  mod   : Nat
  entry : BitVec 16
  lanes : List (DWord × BitVec 48)
  prio  : Nat
  since : Nat
  deriving DecidableEq, Repr

/-- A task queue (13_tasks.md R305). -/
structure Queue where
  owner : Option Nat
  tasks : List Task
  deriving DecidableEq, Repr

/-- A cluster (01_machine.md R16). -/
structure Cluster where
  bins     : Tab Bin
  queues   : Tab Queue
  launched : List Task           -- launched bin bands, oldest first
  clause   : ClArray
  deriving DecidableEq, Repr

/-! ### Contexts -/

/-- A label-table entry (03_assembly.md R67). -/
structure LabelEntry where
  offset : Nat
  attr   : Nat
  entry  : Bool
  kidx   : Nat
  deriving DecidableEq, Repr

/-- A kernel header (03_assembly.md R68). -/
structure KHeader where
  entry  : BitVec 16
  regs   : Nat
  crew   : Nat
  gang   : Nat
  carve  : Nat
  kflags : BitVec 16
  stack  : Nat
  scratch : Nat
  energy : Nat
  fslots : List Word
  deriving DecidableEq, Repr

/-- A loaded module (03_assembly.md R73): its code's virtual address and SIZE, its tables, the global data symbols with
their addresses; `old` while it is being replaced (R75). -/
structure Module where
  code    : Nat
  size    : Nat
  labels  : List LabelEntry
  kernels : List KHeader
  symbols : List (List Byte × Nat)
  spans   : List (Nat × Nat)     -- addresses and sizes of its placed sections
  old     : Bool
  deriving DecidableEq, Repr

/-- A record of the context error log (15_traps.md R367). -/
structure LogRec where
  group  : Nat
  kind   : Nat
  status : Nat
  core   : Nat
  slot   : Nat
  p      : BitVec 64
  detail : BitVec 96
  word   : DWord
  task   : BitVec 48
  deriving DecidableEq, Repr

/-- A saved crew of a context's save area (15_traps.md R378): the crew, its bands, its PRIV bytes by band, its scratchpad
bytes, and its matrix state. -/
structure Saved where
  id     : Nat
  core   : Nat
  crew   : Crew
  bands  : List Band
  priv   : List (List (Nat × List Byte × Bool))   -- by band: offset, bytes, poison of what its region holds
  scr    : List Byte
  poison : List Nat              -- poisoned units of `scr`
  mx     : Option Matrix
  gts    : List (Nat × MxCmd)    -- its GT = 1 MMAs (11_matrix.md R260)
  eng    : List EngCmd           -- commands not yet accepted, and GT = 1 MMAs not yet paired
  mxq    : List MxCmd
  clq    : List ClCmd
  gang   : Nat                   -- saved gangs share a number
  deriving DecidableEq, Repr

/-- An open context (15_traps.md R354, 20_host.md R408, R414). -/
structure Ctx where
  fn     : Nat
  sys    : Bool
  detm   : Bool
  sigreq : Bool
  closing : Bool
  held   : Bool                  -- admission stopped by CHECKPOINT (20_host.md R415)
  cerr   : BitVec 7
  vw     : Tab DWord             -- 2n: VWn.LO, 2n + 1: VWn.HI
  pvbase : DWord
  pvsize : DWord
  chiplo : DWord
  chiphi : DWord
  ftbase : DWord
  ftcount : DWord
  dcbase : DWord
  dccnt  : DWord
  btim   : DWord
  wdt    : DWord
  chkn   : BitVec 4
  pdrain : DWord
  pflush : DWord
  csave  : DWord
  csavesz : DWord
  ecnt   : Nat                   -- nJ
  reserve : Int                  -- in units of 2^-32 µJ
  weight : Nat
  cap    : Nat
  qmask  : BitVec 16
  clmask : BitVec 16
  modules : Tab Module
  log    : List LogRec
  submits : Nat                  -- n of 13_tasks.md R301
  saved  : List Saved
  arrays : Tab ClState           -- clause arrays taken away, by cluster (12_clause.md R278)
  deriving DecidableEq, Repr

/-! ### The fabric -/

/-- Whose request it is. -/
inductive Owner where
  | band (core slot op lane : Nat)
  | eng (core cmd unit : Nat)
  | clause (cluster cmd : Nat)
  | coll (core cmd : Nat)
  | fw
  deriving DecidableEq, Repr

/-- An outstanding request of this device (14_fabric.md R327, R332). -/
structure Req where
  dst     : Nat
  q       : BitVec 16
  epoch   : BitVec 16
  plane   : Nat
  kind    : ReqKind
  ia      : Nat
  size    : Nat
  data    : List Byte
  cmp     : List Byte
  aop     : Nat
  uncached : Bool
  poison  : Bool                 -- the data are poisoned (15_traps.md R368)
  acq     : Nat                  -- the scope of its acquire, 0 for none (08_memory.md R199)
  owner   : Owner
  sent    : Nat                  -- the cycle its FTMO timer started
  stalled : Bool
  replay  : Bool                 -- replayed by the rehash under way (R335)
  coll    : Option CollMsg       -- a collective's message, written into the receive area (R343)
  deriving DecidableEq, Repr

/-- What this device, as a target, keeps of one source (14_fabric.md R332, R333). -/
structure Source where
  la       : BitVec 16
  accepted : List (BitVec 16)
  answers  : List (BitVec 16 × RemoteResult)
  deriving DecidableEq, Repr

/-- A message this device has sent. -/
inductive Msg where
  | request (r : Req)
  | answer (dst : Nat) (q : BitVec 16) (plane : Nat) (r : RemoteResult)
  | rehash (dst : Nat) (plane : Nat) (gen : BitVec 16) (mask : BitVec 8)
  | rhack (dst : Nat) (gen : BitVec 16) (mask : BitVec 8)
  | commit (dst : Nat) (plane : Nat) (gen : BitVec 16)
  | memberDown (dst : Nat) (down : Nat)
  | teamAbort (dst : Nat) (team : BitVec 32) (step aux : Nat)
  | msix (fn vector : Nat)
  | pageRequest (fn ia : Nat)
  | spdm (body : List Byte)
  deriving DecidableEq, Repr

/-- The member table's entry of a DOMIDX (14_fabric.md R327). -/
structure Member where
  live  : Bool
  epoch : BitVec 16
  deriving DecidableEq, Repr

/-- A rehash under way (14_fabric.md R335 to R337): of its mask, the live planes are being retired and the dead ones
return. -/
structure Rehash where
  gen   : BitVec 16
  mask  : BitVec 8
  map   : List Nat
  acked : Bool                   -- this device has sent its RHACK
  start : Nat                    -- the cycle RHTMO started, at the committer
  deriving DecidableEq, Repr

/-- The fabric state of the device. -/
structure Fabric where
  pmap    : List Nat             -- 64 plane numbers
  pgen    : BitVec 16
  live    : BitVec 8
  dead    : BitVec 8
  rhb     : Bool
  rehash  : Option Rehash
  rhacks  : List (Nat × BitVec 16 × BitVec 8)   -- RHACKs the committer holds
  early   : List (BitVec 8)      -- masks of REHASHes of the generation after the one under way
  up      : BitVec 8             -- links of this device that are up
  resends : Tab Nat              -- by plane: consecutive failed resends of the present flit
  members : Tab Member
  epoch   : BitVec 16            -- this device's own EPOCH
  reqs    : List Req             -- in order of issue
  nextQ   : Tab (BitVec 16)      -- by destination
  sources : Tab Source
  inwin   : Tab DWord            -- 2n: IWn.LO, 2n + 1: IWn.HI
  ftmo    : BitVec 32
  rhtmo   : BitVec 32
  refused : List (Nat × Nat × Nat × Nat)   -- target log: source, IA, reason, kind (R340)
  inbox   : List (Nat × CollMsg) -- the collective receive area: messages with the cycle of their arrival (R343)
  aborts  : List (BitVec 32 × Nat × Nat)   -- TEAM aborts that no command has taken yet: team, step, FAUX (09_engines.md R241)
  teams   : Tab Nat              -- by TEAMID: collectives begun here
  deriving DecidableEq, Repr

/-! ### The host interface -/

/-- The ring registers of one function (20_host.md R404). -/
structure HostFn where
  rbase : DWord
  rlog  : BitVec 4
  ren   : Bool
  rtail : BitVec 12
  rhead : BitVec 12
  cbase : DWord
  clog  : BitVec 4
  cen   : Bool
  chead : BitVec 12
  ctail : BitVec 12
  rerr  : Bool                   -- FSTAT.ERR by the command ring
  cerr  : Bool                   -- FSTAT.ERR by the completion ring
  deriving DecidableEq, Repr

/-- The host command that firmware is executing while it takes more than one step (20_host.md R407): how far it has come,
in a unit of its own, and the request it waits for. -/
structure Job where
  cmd    : Instr
  stage  : Nat
  since  : Nat                   -- the cycle it began
  cursor : Nat                   -- bytes of the range, or records, done
  part   : List Byte             -- bytes read or to be written next
  woff   : Nat                   -- of these, bytes already written
  out    : Nat                   -- bytes already written to the safe tier
  count  : Nat                   -- granules copied or applied
  sent   : Option (Nat × BitVec 16)
  failed : Bool                  -- a remote access ended in a fault
  deriving DecidableEq, Repr

/-- The firmware state (20_host.md R412). -/
structure Firmware where
  ready   : Bool
  measures : List (List Byte)
  fwsvn   : BitVec 16
  modsvn  : Nat
  revoked : List Nat
  cache   : List (List Byte × Nat)
  nextPa  : Nat                  -- the next HBM page firmware hands out
  turn    : Nat                  -- the function whose ring firmware looks at first (20_host.md R407)
  job     : Option Job
  deriving DecidableEq, Repr

/-! ### Who moves next -/

/-- A physical event, which only the outside can bring (15_traps.md R368 to R372, 11_matrix.md R264). -/
inductive Upset where
  | scr (core a : Nat) | chip (a : Nat) | l1 (core line unit : Nat) | l2 (line unit : Nat) | hbm (pa : Nat)
  | regs (core slot index : Nat)
  | acc (core index : Nat)
  | row (cluster c : Nat)
  | parity (core : Nat) (bank : Bool) (mac col : Nat)
  | clone (core slot lane : Nat)
  | corrected (ctx unit index core slot : Nat)
  deriving DecidableEq, Repr

/-- The moves of the agenda (DESIGN CHOICE, assumption log entry 1). -/
inductive Action where
  | issue (core slot : Nat)      -- a pipe of the core selects the band
  | happen (i : Instr)           -- an event of the opcode table
  | stall (core slot n : Nat)    -- a latency keeps the band's next word from being ready for n cycles
  | tick (n : Nat)               -- core cycles pass
  | mxReads (core k a n : Nat)   -- the matrix unit of a core reads operand bytes of core k (08_memory.md R203)
  | evictL1 (core line : Nat)
  | evictL2 (line : Nat)
  | upset (u : Upset)
  | badCode (fn : Nat)           -- firmware answers an entry with an unknown CODE (20_host.md R409)
  deriving DecidableEq, Repr

/-! ### The device -/

/-- The state of the device. `cur` is the band that the words of the opcode table act for; `agenda` holds the moves to
come; `fresh` counts the free values drawn (DESIGN CHOICE, assumption log entries 1 and 7). -/
structure State where
  domidx  : BitVec 8
  stepMin : BitVec 4
  stepMaj : BitVec 4
  cycle   : Nat
  hbm     : Memory
  l2      : Tab L2Line
  chip    : Memory
  hostMem : Memory
  ptes    : Tab DWord            -- by level × 2^48 + index prefix (DEDUCED, assumption log entry 8)
  granules : List Nat            -- dirty 4 KiB granules of HBM
  served  : List (Nat × Bool)    -- IA pages whose service has ended: false, it failed; true, the host has granted a page of MT 1
  budget  : Nat
  ctxs    : Tab Ctx
  clusters : Tab Cluster
  cores   : Tab Core
  fab     : Fabric
  fns     : Tab HostFn
  fw      : Firmware
  out     : List Msg
  nextId  : Nat                  -- numbers for logged operations, commands, crews
  clones  : List (Nat × Nat × Nat)  -- armed clone mismatches: core, slot, lane
  cur     : Option (Nat × Nat)
  agenda  : List Action
  fresh   : Nat
  deriving DecidableEq, Repr

/-- The reasons a step stops without a next state. -/
inductive Fault where
  /-- Raised by a meaning of an instruction word when `State.cur` names no resident band of an open context. Safe: a
  word is only ever issued for a band in its slot, so no run of the device reaches it. -/
  | noBand
  deriving DecidableEq, Repr

/-- The reasons an instruction is refused. -/
inductive Refusal where
  /-- Raised by the dispatch for an instruction that has no meaning yet. Safe: nothing is claimed about it. -/
  | notModelled (mnemonic : String)
  deriving DecidableEq, Repr

/-! ### Reset -/

/-- A bank at the values of 11_matrix.md R249. -/
def Bank.reset : Bank := ⟨[], [], [], 0, []⟩
/-- A matrix unit without an owner (11_matrix.md R249, R252). -/
def Matrix.reset : Matrix := ⟨none, Bank.reset, Bank.reset, false, [], [], []⟩
/-- A clause array at the values of 12_clause.md R275. -/
def ClState.reset : ClState := ⟨[], [], [], 0, 0, 0, 0, []⟩
/-- A core that holds nothing; its carve-out is 256 KiB (13_tasks.md R310). -/
def Core.reset : Core := ⟨[], [], Memory.empty, [], 256, [], [], none, [], Matrix.reset, false, 0, []⟩
/-- A cluster that holds nothing. -/
def Cluster.reset : Cluster := ⟨[], [], [], ⟨none, ClState.reset, []⟩⟩
/-- A function's BAR0 after reset (20_host.md R404). -/
def HostFn.reset : HostFn := ⟨0, 0, false, 0, 0, 0, 0, false, 0, 0, false, false⟩
/-- The fabric after reset (14_fabric.md R329, R330, R339). -/
def Fabric.reset : Fabric :=
  ⟨(List.range 64).map (· % 8), 0, 0xFF, 0, false, none, [], [], 0xFF, [], [], 0, [], [], [], [], 5400000, 27000000, [], [],
    [], []⟩
/-- The firmware before BOOT (20_host.md R404, R412). -/
def Firmware.reset : Firmware := ⟨false, List.replicate 8 (List.replicate 48 0), 0, 0, [], [], 0, 0, none⟩

/-- The device right after reset (INVENTORY.md, State; DESIGN CHOICE, assumption log entries 3, 5 and 6). -/
def State.reset : State :=
  { domidx := 0, stepMin := 2, stepMaj := 0, cycle := 0, hbm := Memory.empty, l2 := [], chip := Memory.empty,
    hostMem := Memory.empty, ptes := [], granules := [], served := [], budget := 2000, ctxs := [], clusters := [],
    cores := [], fab := Fabric.reset, fns := [], fw := Firmware.reset, out := [], nextId := 0, clones := [],
    cur := none, agenda := [], fresh := 0 }

end Sys2Proof.Machine
end

