-- ==== Sys2Proof/Machine/Access.lean ====
section
/-! DEFINITION. Reading and updating the parts of the state: cores, bands, crews, contexts, clusters; the registers of a
band; its lanes and guards; and how a word ends when it has issued. -/

namespace Sys2Proof.Machine

/-! ### Parts of the device -/

/-- Core `c`. -/
def State.coreAt (s : State) (c : Nat) : Core := s.cores.get Core.reset c
def State.setCore (s : State) (c : Nat) (x : Core) : State := { s with cores := s.cores.put c x }
def State.modCore (s : State) (c : Nat) (f : Core → Core) : State := s.setCore c (f (s.coreAt c))
/-- Cluster `q`. -/
def State.clusterAt (s : State) (q : Nat) : Cluster := s.clusters.get Cluster.reset q
def State.setCluster (s : State) (q : Nat) (x : Cluster) : State := { s with clusters := s.clusters.put q x }
/-- The context open in a slot. -/
def State.ctx? (s : State) (x : Nat) : Option Ctx := s.ctxs.find x
def State.setCtx (s : State) (x : Nat) (v : Ctx) : State := { s with ctxs := s.ctxs.put x v }
def State.modCtx (s : State) (x : Nat) (f : Ctx → Ctx) : State :=
  match s.ctx? x with
  | some v => s.setCtx x (f v)
  | none => s
/-- The band in slot `k` of core `c`. -/
def State.band? (s : State) (c k : Nat) : Option Band := (s.coreAt c).bands.find k
def State.setBand (s : State) (c k : Nat) (b : Band) : State :=
  s.setCore c { s.coreAt c with bands := (s.coreAt c).bands.put k b }
def State.modBand (s : State) (c k : Nat) (f : Band → Band) : State :=
  match s.band? c k with
  | some b => s.setBand c k (f b)
  | none => s
/-- The crew with admission number `n` on core `c`. -/
def State.crew? (s : State) (c n : Nat) : Option Crew := (s.coreAt c).crews.find n
def State.setCrew (s : State) (c n : Nat) (w : Crew) : State :=
  s.setCore c { s.coreAt c with crews := (s.coreAt c).crews.put n w }
def State.modCrew (s : State) (c n : Nat) (f : Crew → Crew) : State :=
  match s.crew? c n with
  | some w => s.setCrew c n (f w)
  | none => s
def State.modFab (s : State) (f : Fabric → Fabric) : State := { s with fab := f s.fab }
/-- The cluster of a core (01_machine.md R10). -/
def clusterOf (c : Nat) : Nat := c / 16
/-- The 256 cores (01_machine.md R10). -/
def coreIds : List Nat := List.range 256
/-- A free value no rule fixes, and the state with the counter advanced (DESIGN CHOICE, assumption log entry 7). -/
def State.draw (s : State) : Nat × State := (Config.free s.fresh, { s with fresh := s.fresh + 1 })
/-- A new number for a logged operation, a command or a crew. -/
def State.takeId (s : State) : Nat × State := (s.nextId, { s with nextId := s.nextId + 1 })
/-- Sends a message. -/
def State.send (s : State) (m : Msg) : State := { s with out := s.out ++ [m] }

/-! ### The band a word acts for -/

/-- A band with its crew and its context. -/
structure Here where
  core : Nat
  slot : Nat
  band : Band
  crew : Crew
  ctx  : Ctx
  deriving DecidableEq, Repr

/-- The context's slot. -/
def Here.ctxId (h : Here) : Nat := h.crew.task.ctx

/-- The band in slot `k` of core `c`, with its crew and its open context. -/
def State.hereAt (s : State) (c k : Nat) : Option Here :=
  match s.band? c k with
  | none => none
  | some b =>
    match s.crew? c b.crew with
    | none => none
    | some w =>
      match s.ctx? w.task.ctx with
      | none => none
      | some x => some ⟨c, k, b, w, x⟩

/-- The band that words act for. -/
def State.here? (s : State) : Option Here :=
  match s.cur with
  | none => none
  | some (c, k) => s.hereAt c k

/-- Runs the effect of a word for the current band. -/
def State.onBand (s : State) (f : Here → State) : Host.Outcome State Fault Refusal :=
  match s.here? with
  | none => .fault .noBand
  | some h => .next (f h)

/-- The module of the band. -/
def Here.module (h : Here) : Option Module := h.ctx.modules.find h.crew.task.mod
/-- The label-table entry of a label id in the band's module (04_sweep.md R100); 0xFFFF has none. -/
def Here.label (h : Here) (x : BitVec 16) : Option LabelEntry :=
  if x = 0xFFFF then none
  else match h.module with
    | none => none
    | some m => m.labels[x.toNat]?
/-- The code section's SIZE. -/
def Here.codeSize (h : Here) : Nat := match h.module with | none => 0 | some m => m.size

/-! ### Lane masks -/

/-- The mask of the lanes below `n` that have a property. -/
def maskBelow (p : Nat → Bool) : Nat → LaneMask
  | 0 => 0
  | n + 1 => if p n then maskBelow p n ||| (1#32 <<< n) else maskBelow p n
/-- The mask of the lanes that have a property. -/
def maskOf (p : Nat → Bool) : LaneMask := maskBelow p 32
/-- The lanes of a mask, ascending. -/
def lanesOf (m : LaneMask) : List Nat := laneIds.filter fun l => m.getLsbD l
/-- The lowest lane of a mask, or 0. -/
def lowest (m : LaneMask) : Nat := (lanesOf m).headD 0
/-- How many lanes a mask holds. -/
def laneCount (m : LaneMask) : Nat := (lanesOf m).length

/-! ### Lanes -/

/-- A lane that exists no more. -/
def Lane.gone : Lane := ⟨.exited, 0, 0, 0, 0, 0, []⟩
/-- Lane `l` of a band. -/
def Band.lane (b : Band) (l : Nat) : Lane := b.lanes.getD l Lane.gone
/-- Replaces every lane. -/
def Band.mapLanes (b : Band) (f : Nat → Lane → Lane) : Band :=
  { b with lanes := laneIds.map fun l => f l (b.lane l) }
/-- Replaces the lanes of a mask. -/
def Band.mapMask (b : Band) (m : LaneMask) (f : Nat → Lane → Lane) : Band :=
  b.mapLanes fun l x => if m.getLsbD l then f l x else x
/-- Whether the rules of motion see the lane: every lane at TL = 0, the handler lanes at TL = 1 (04_sweep.md R98,
15_traps.md R358). -/
def Band.active (b : Band) (l : Nat) : Bool := !b.tl || b.handler.getLsbD l
/-- The RUNNING lanes. -/
def Band.running (b : Band) : LaneMask := maskOf fun l => (b.lane l).st == .running && b.active l
/-- The WANTING lanes that the census counts. -/
def Band.wanting (b : Band) : LaneMask := maskOf fun l => (b.lane l).st == .wanting && b.active l
/-- The BLOCKED lanes. -/
def Band.blocked (b : Band) : LaneMask := maskOf fun l => (b.lane l).st == .blocked && b.active l
/-- Whether every lane is EXITED. -/
def Band.allExited (b : Band) : Bool := laneIds.all fun l => (b.lane l).st == .exited
/-- The lowest RUNNING lane (00_scope.md, Leader). -/
def Band.leader (b : Band) : Nat := lowest b.running

/-! ### Registers (02_formats.md R29) -/

/-- Vector register `n`. -/
def Band.vreg (b : Band) (n : Nat) : Lanes := b.v.get [] n
/-- V[l][n]. -/
def Band.v32 (b : Band) (l n : Nat) : Word := (b.vreg n).at l
/-- The pair V[l][n+1]:V[l][n] (R29). -/
def Band.v64 (b : Band) (l n : Nat) : DWord := b.v32 l (n + 1) ++ b.v32 l n
/-- Writes register `n` in the lanes of a mask. -/
def Band.setV (b : Band) (n : Nat) (m : LaneMask) (f : Nat → Word) : Band :=
  { b with v := b.v.put n (Lanes.make fun l => if m.getLsbD l then f l else b.v32 l n) }
/-- Writes the pair at `n` in the lanes of a mask. -/
def Band.setV64 (b : Band) (n : Nat) (m : LaneMask) (f : Nat → DWord) : Band :=
  (b.setV n m fun l => (f l).extractLsb' 0 32).setV (n + 1) m fun l => (f l).extractLsb' 32 32
/-- Predicate `n` of every lane; p0 reads true. -/
def Band.pred (b : Band) (n : Nat) : LaneMask := if n = 0 then BitVec.allOnes 32 else b.pr.get 0 n
/-- Writes predicate `n` in the lanes of a mask; writes to p0 are discarded. -/
def Band.setPred (b : Band) (n : Nat) (m v : LaneMask) : Band :=
  if n = 0 then b else { b with pr := b.pr.put n ((b.pred n &&& ~~~m) ||| (v &&& m)) }
/-- S[n]. -/
def Band.sreg (b : Band) (n : Nat) : DWord := b.s.get 0 n
/-- Writes S[n]. -/
def Band.setS (b : Band) (n : Nat) (v : DWord) : Band := { b with s := b.s.put n v }
/-- Raises sticky flags (07_numbers.md R154). -/
def Band.raise (b : Band) (f : BitVec 9) : Band := { b with flags := b.flags ||| f }

/-! ### Guards (02_formats.md R28) -/

/-- The lanes whose predicate satisfies the guard. -/
def Band.guardMask (b : Band) (g : Guard) : LaneMask :=
  if g.gn then ~~~b.pred g.pg.toNat else b.pred g.pg.toNat
/-- Running of a lane instruction: the RUNNING lanes whose guard holds. -/
def Band.guarded (b : Band) (g : Guard) : LaneMask := b.running &&& b.guardMask g
/-- Whether a band-level instruction's guard holds in Leader. -/
def Band.leads (b : Band) (g : Guard) : Bool := (b.guardMask g).getLsbD b.leader

/-! ### The end of a word -/

/-- The band after a word has issued: P at the next word while a lane is RUNNING, else still at the word, from which the
sequencer decides its next move (04_sweep.md R76, R81, R82); ICNT counted, YLD cleared (R108, 15_traps.md R356). -/
def Band.advance (b : Band) : Band :=
  { b with p := if b.running = 0 then b.p else b.p + 8, icnt := b.icnt + 1, yld := false }

/-- Stores the band back. -/
def Here.put (h : Here) (s : State) (b : Band) : State := s.setBand h.core h.slot b

/-- The crew has retired an instruction (15_traps.md R357, R380), and the word's energy is counted (20_host.md
R414). -/
def State.retired (s : State) (h : Here) : State :=
  ((s.modCrew h.core h.band.crew fun w =>
      { w with since := s.cycle, count := s.cycle, used := w.used + Config.eventEnergy 0 1 }).modCtx h.ctxId fun x =>
      { x with ecnt := x.ecnt + Config.eventEnergy 0 1 }).modCore h.core fun x => { x with retires := x.retires + 1 }

/-- Energy of work of a kind and a size that a crew of core `k` causes (20_host.md R414): 0 words, 1 bytes in the
scratchpads and CHIP, 2 in the device's own memory, 3 at another device, 4 in the host's memory, 5 matrix bit-planes, 6
clause rows, 7 bytes of engine work. The division into kinds is a DESIGN CHOICE (assumption log entry 81). -/
def State.spend (s : State) (k crew kind size : Nat) : State :=
  match s.crew? k crew with
  | none => s
  | some w =>
    (s.modCrew k crew fun v => { v with used := v.used + Config.eventEnergy kind size }).modCtx w.task.ctx fun x =>
      { x with ecnt := x.ecnt + Config.eventEnergy kind size }

/-- The word has issued: the band `b` goes on at the next word. -/
def Here.retire (h : Here) (s : State) (b : Band) : State := (h.put s b.advance).retired h

end Sys2Proof.Machine
end

