-- ==== Sys2Proof/Machine/Mem.lean ====
section
/-! DEFINITION. The memory side: windows, the page walk, physical memory, the L2, the L1 of each core with its pins, and
the reads, writes and atomics that everything above them uses (08_memory.md R180 to R200, R210). -/

namespace Sys2Proof.Machine

/-- How an access ended: served, with the state it left; a MEM sub-cause (R187); or not yet, because a pinned line
refuses it (R198) or firmware services the page (15_traps.md R366). -/
inductive Res (α : Type) where
  | ok (s : State) (a : α)
  | bad (sub : Nat)
  | hold

/-- What an access needs of a leaf (R184). -/
inductive Need where
  | r | w | rw | x | none
  deriving DecidableEq, Repr

/-! ### Windows (R180, R181) -/

def Ctx.vwLo (x : Ctx) (n : Nat) : DWord := x.vw.get 0 (2 * n)
def Ctx.vwHi (x : Ctx) (n : Nat) : DWord := x.vw.get 0 (2 * n + 1)
/-- VBASE of window `n`, as an address. -/
def Ctx.vbase (x : Ctx) (n : Nat) : Nat := ((x.vwLo n).extractLsb' 16 41).toNat * 65536
/-- The bytes window `n` covers. -/
def Ctx.vsize (x : Ctx) (n : Nat) : Nat := (((x.vwHi n).extractLsb' 0 24).toNat + 1) * 65536
/-- IABASE of window `n`, as an address. -/
def Ctx.iabase (x : Ctx) (n : Nat) : Nat := ((x.vwHi n).extractLsb' 24 40).toNat * 65536
/-- The default policy CP of window `n`. -/
def Ctx.vcp (x : Ctx) (n : Nat) : Nat := ((x.vwLo n).extractLsb' 4 2).toNat
/-- DSC of window `n`. -/
def Ctx.vdsc (x : Ctx) (n : Nat) : Nat := ((x.vwLo n).extractLsb' 6 3).toNat
/-- Whether window `n` grants what is needed. -/
def Ctx.grants (x : Ctx) (n : Nat) : Need → Bool
  | .r => (x.vwLo n).getLsbD 1
  | .w => (x.vwLo n).getLsbD 2
  | .rw => (x.vwLo n).getLsbD 1 && (x.vwLo n).getLsbD 2
  | .x => (x.vwLo n).getLsbD 3
  | .none => true

/-- The lowest-numbered valid window that covers an address (R181). -/
def Ctx.window (x : Ctx) (va : DWord) : Option Nat :=
  if va.extractLsb' 57 7 ≠ 0 then none
  else (List.range 16).find? fun n =>
    (x.vwLo n).getLsbD 0 && decide (x.vbase n ≤ va.toNat) && decide (va.toNat < x.vbase n + x.vsize n)

/-- Win of R181: the IA and the window, or the sub-cause 1 NOWIN or 2 PERM. -/
def Ctx.win (x : Ctx) (va : DWord) (need : Need) : Except Nat (Nat × Nat) :=
  match x.window va with
  | none => .error 1
  | some n => if x.grants n need then .ok ((x.iabase n + (va.toNat - x.vbase n)) % 2 ^ 56, n) else .error 2

/-- Whether an IA is local (R182). -/
def State.localIa (s : State) (ia : Nat) : Bool := ia / 2 ^ 48 == s.domidx.toNat
/-- The address in the device's local space. -/
def localPart (ia : Nat) : Nat := ia % 2 ^ 48

/-! ### The walk (R183 to R185) -/

/-- A leaf: physical or host address of the access, MT, permissions, and the entry's key. -/
structure Leaf where
  pa  : Nat
  mt  : BitVec 2
  r   : Bool
  w   : Bool
  x   : Bool
  key : Nat
  deriving DecidableEq, Repr

/-- The key of the entry that level `lv` uses for a local address (DEDUCED, assumption log entry 8). -/
def pteKey (lv a : Nat) : Nat :=
  lv * 2 ^ 48 + a / (if lv = 1 then 2 ^ 39 else if lv = 2 then 2 ^ 30 else if lv = 3 then 2 ^ 21 else 2 ^ 16)

/-- An entry of the page table. -/
def State.pte (s : State) (key : Nat) : DWord := s.ptes.get 0 key

/-- Whether an entry breaks R184 whatever its level: MT 2 or 3, or a nonzero reserved field. -/
def pteBad (e : DWord) : Bool := decide (2 ≤ (e.extractLsb' 7 2).toNat) || e.extractLsb' 9 3 != 0

/-- The result of a walk: a leaf; or the sub-cause, and whether firmware services it (DSVC at a leaf). -/
inductive Walk where
  | leaf (l : Leaf)
  | bad (sub : Nat) (dsvc : Bool)
  deriving DecidableEq, Repr

/-- A leaf found at level 3 or 4: bits of ADDR below the page must be zero. -/
def leafOf (e : DWord) (key a page : Nat) : Walk :=
  let addr := (e.extractLsb' 12 52).toNat * 4096
  if addr % page ≠ 0 then .bad 7 false
  else .leaf ⟨addr + a % page, e.extractLsb' 7 2, e.getLsbD 2, e.getLsbD 3, e.getLsbD 4, key⟩

/-- The walk of a local address through the four levels. -/
def State.walk (s : State) (a : Nat) : Walk :=
  let e1 := s.pte (pteKey 1 a)
  let e2 := s.pte (pteKey 2 a)
  let e3 := s.pte (pteKey 3 a)
  let e4 := s.pte (pteKey 4 a)
  if !e1.getLsbD 0 then .bad 5 false
  else if pteBad e1 || e1.getLsbD 1 then .bad 7 false
  else if !e2.getLsbD 0 then .bad 5 false
  else if pteBad e2 || e2.getLsbD 1 then .bad 7 false
  else if !e3.getLsbD 0 then .bad 5 (e3.getLsbD 6)
  else if pteBad e3 then .bad 7 false
  else if e3.getLsbD 1 then leafOf e3 (pteKey 3 a) a (2 ^ 21)
  else if !e4.getLsbD 0 then .bad 5 (e4.getLsbD 6)
  else if pteBad e4 || !e4.getLsbD 1 then .bad 7 false
  else leafOf e4 (pteKey 4 a) a (2 ^ 16)

def Leaf.grants (l : Leaf) : Need → Bool
  | .r => l.r | .w => l.w | .rw => l.r && l.w | .x => l.x | .none => true

/-- The walk sets A in the leaf (R185). -/
def State.touch (s : State) (key : Nat) : State := { s with ptes := s.ptes.put key (s.pte key ||| 0x20) }

/-- Translates a local address for an access: sets A, checks the leaf's permissions; a page under service holds the
access (15_traps.md R366). -/
def State.translate (s : State) (a : Nat) (need : Need) : Res Leaf :=
  match s.walk a with
  | .leaf l => if l.grants need then .ok (s.touch l.key) l else .bad 6
  | .bad sub dsvc =>
    if sub = 5 && dsvc && !(s.served.contains (a / 65536, false)) then .hold else .bad sub

/-! ### Physical memory (R185, 15_traps.md R368) -/

/-- Reads physical memory of a page of the given MT. -/
def State.physRead (s : State) (mt : BitVec 2) (pa n : Nat) : List Byte :=
  if mt = 0 then s.hbm.read pa n else s.hostMem.read pa n

/-- Marks the 4 KiB granule of an HBM address dirty. -/
def addGranule (g : List Nat) (pa : Nat) : List Nat := if g.contains (pa / 4096) then g else g ++ [pa / 4096]

/-- Writes physical memory; HBM pages mark the dirty granule (R185). -/
def State.physWrite (s : State) (mt : BitVec 2) (pa : Nat) (d : List Byte) : State :=
  if mt = 0 then { s with hbm := s.hbm.write 32 pa d, granules := addGranule s.granules pa }
  else { s with hostMem := s.hostMem.write 32 pa d }

/-! ### Lines -/

/-- The bytes `i` to `i + n - 1` of a line. -/
def sliceOf (d : List Byte) (i n : Nat) : List Byte := (d.drop i).take n
/-- A line with bytes replaced from byte `i`; its length stays. -/
def patch (d : List Byte) (i : Nat) (x : List Byte) : List Byte :=
  (d.take i ++ x ++ d.drop (i + x.length)).take d.length
/-- The mask of the bytes `i` to `i + n - 1` of a line. -/
def span128 (i n : Nat) : BitVec 128 := BitVec.ofNat 128 ((2 ^ n - 1) * 2 ^ i)
/-- The 8-byte units the bytes `i` to `i + n - 1` touch. -/
def units16 (i n : Nat) : BitVec 16 :=
  (List.range 16).foldl (fun a u => if decide (u * 8 < i + n) && decide (i < u * 8 + 8) then a ||| (1#16 <<< u) else a) 0
/-- The 8-byte units the bytes `i` to `i + n - 1` cover whole. -/
def covers16 (i n : Nat) : BitVec 16 :=
  (List.range 16).foldl (fun a u => if decide (i ≤ u * 8) && decide (u * 8 + 8 ≤ i + n) then a ||| (1#16 <<< u) else a) 0
/-- A line's bytes with those of another where a mask is set. -/
def overlay (base top : List Byte) (m : BitVec 128) : List Byte :=
  (List.range 128).map fun i => if m.getLsbD i then top.getD i 0 else base.getD i 0

/-! ### The L2 (R186) -/

/-- Poisoned units of a line read from HBM: the sectors of 32 bytes that are poisoned. -/
def State.sectorPoison (s : State) (mt : BitVec 2) (pa : Nat) : BitVec 16 :=
  (List.range 4).foldl (fun a q =>
    if mt == 0 && s.hbm.poisoned 32 (pa + 32 * q) 32 then a ||| (0xF#16 <<< (4 * q)) else a) 0

/-- Writes a line's dirty bytes of one 32-byte sector to memory: whole when every byte is dirty, else byte by byte. -/
def State.sectorOut (s : State) (e : L2Line) (q : Nat) : State :=
  if (List.range 32).all fun i => e.dirty.getLsbD (32 * q + i) then
    s.physWrite e.mt (e.pa + 32 * q) (sliceOf e.data (32 * q) 32)
  else (List.range 32).foldl (fun s i =>
    if e.dirty.getLsbD (32 * q + i) then
      s.physWrite e.mt (e.pa + 32 * q + i) (sliceOf e.data (32 * q + i) 1) else s) s

/-- Poison travels with the data to HBM (15_traps.md R368). -/
def State.poisonOut (s : State) (e : L2Line) (q : Nat) : State :=
  if e.mt == 0 && e.poison.extractLsb' (4 * q) 4 != 0 then { s with hbm := s.hbm.mark 32 (e.pa + 32 * q) } else s

/-- Writes the dirty bytes of an L2 line to memory; the line stays, clean (R210). -/
def State.l2Back (s : State) (line : Nat) : State :=
  match s.l2.find line with
  | none => s
  | some e =>
    if e.dirty = 0 && e.poison = 0 then s
    else
      let s1 := (List.range 4).foldl (fun s q => (s.sectorOut e q).poisonOut e q) s
      { s1 with l2 := s1.l2.put line { e with dirty := 0 } }

/-- Writes an L2 line back and discards it. -/
def State.l2Drop (s : State) (line : Nat) : State :=
  let s1 := s.l2Back line
  { s1 with l2 := s1.l2.drop line }

/-- Lines the L2 holds: 192 MiB per package, which behaves as one resource (01_machine.md R9, R10, R17). -/
def l2Lines : Nat := 1572864

/-- Makes room for one line in the L2: a full L2 gives up its first line (no rule says which: DESIGN CHOICE, assumption log
entry 10). -/
def State.l2Room (s : State) : State :=
  if s.l2.length < l2Lines then s
  else match s.l2 with
    | e :: _ => s.l2Drop e.1
    | [] => s

/-- A write at the memory side by core `c`, or by another agent, passes the copies that other cores' L1s hold: a copy
in the writer's cluster is one that a CLUSTER-scope acquire must renew (R193, R195). -/
def L1Line.pass (near : Bool) (e : L1Line) : L1Line :=
  { e with age := if near || e.age == .near then .near else .far }
def State.passed (s : State) (c : Option Nat) (line : Nat) : State :=
  let near := fun (d : Nat) => match c with | some k => clusterOf k == clusterOf d | none => false
  let pass := fun (d : Nat × Core) =>
    if some d.1 = c then d
    else match d.2.l1.find line with
      | some e => (d.1, { d.2 with l1 := d.2.l1.put line (e.pass (near d.1)) })
      | none => d
  { s with cores := s.cores.map pass }

/-- Reads memory into the L2 when it does not hold the line (one walk, R183), and checks the leaf's permissions. -/
def State.l2Get (s : State) (line : Nat) (need : Need) : Res L2Line :=
  match s.l2.find line with
  | some e =>
    if (Leaf.mk e.pa e.mt e.r e.w e.x 0).grants need then .ok s e else .bad 6
  | none =>
    match s.translate (localPart (line * 128)) need with
    | .ok s1 l =>
      let e : L2Line := ⟨s1.physRead l.mt l.pa 128, 0, s1.sectorPoison l.mt l.pa, l.pa, l.mt, l.r, l.w, l.x⟩
      let s2 := s1.l2Room
      .ok { s2 with l2 := s2.l2.put line e } e
    | .bad sub => .bad sub
    | .hold => .hold

/-- Writes bytes into an L2 line that is present, for core `c` or another agent. -/
def State.l2Put (s : State) (c : Option Nat) (line i : Nat) (d : List Byte) : State :=
  match s.l2.find line with
  | some e => ({ s with l2 := s.l2.put line { e with
      data := patch e.data i d, dirty := e.dirty ||| span128 i d.length, poison := e.poison &&& ~~~covers16 i d.length } }).passed
        c line
  | none => s

/-! ### The L1 of a core -/

def State.l1Line (s : State) (c line : Nat) : Option L1Line := (s.coreAt c).l1.find line
def State.setL1 (s : State) (c line : Nat) (e : L1Line) : State :=
  s.modCore c fun x => { x with l1 := x.l1.put line e }
def State.dropL1 (s : State) (c line : Nat) : State := s.modCore c fun x => { x with l1 := x.l1.drop line }

/-- The units all of whose bytes a mask holds. -/
def unitsFull (m : BitVec 128) : BitVec 16 :=
  (List.range 16).foldl (fun a u => if m.extractLsb' (8 * u) 8 = 0xFF then a ||| (1#16 <<< u) else a) 0
/-- The units of which a mask holds a byte. -/
def unitsOf (m : BitVec 128) : BitVec 16 :=
  (List.range 16).foldl (fun a u => if m.extractLsb' (8 * u) 8 ≠ 0 then a ||| (1#16 <<< u) else a) 0

/-- A line's bytes with those of another where a mask is set, and its poison: units covered whole take the other's, units
touched keep both (15_traps.md R368). -/
def mergePoison (base top : BitVec 16) (m : BitVec 128) : BitVec 16 :=
  (base &&& ~~~unitsFull m) ||| (top &&& unitsOf m)

/-- Puts the dirty bytes that a mask names into the L2, which allocates the line (R186); when its page is no longer mapped
the bytes stay where they are. -/
def State.l1Push (s : State) (c line : Nat) (mask : BitVec 128) : State :=
  match s.l1Line c line with
  | none => s
  | some e =>
    let m := e.dirty &&& mask
    if m = 0 then s
    else match s.l2Get line .none with
      | .ok s1 f =>
        let f1 : L2Line := { f with data := overlay f.data e.data m, dirty := f.dirty ||| m,
                                    poison := mergePoison f.poison e.poison m }
        (({ s1 with l2 := s1.l2.put line f1 }).setL1 c line { e with dirty := e.dirty &&& ~~~mask }).passed (some c) line
      | _ => s

/-- Writes all of a line's dirty bytes back to the L2. -/
def State.l1Back (s : State) (c line : Nat) : State := s.l1Push c line (BitVec.allOnes 128)

/-- Writes a line back and ends its pins (R198). -/
def State.l1Unpin (s : State) (c line : Nat) : State :=
  let s1 := s.l1Back c line
  match s1.l1Line c line with
  | none => s1
  | some e => s1.setL1 c line { e with pins := [], mine := [] }

/-- Writes back and discards a line that is not pinned. -/
def State.l1Evict (s : State) (c line : Nat) : State :=
  match s.l1Line c line with
  | none => s
  | some e => if e.pins.isEmpty then (s.l1Back c line).dropL1 c line else s

/-- The number under which a line's `mine` keeps what the core's copy engine wrote at CORE scope. -/
def engSlot : Nat := 32
/-- What the copy engine wrote into a line at CORE scope is performed at the L2 (21_ordering.md R418). -/
def State.pushEng (s : State) (c line : Nat) : State :=
  match s.l1Line c line with
  | none => s
  | some e =>
    match e.mine.find engSlot with
    | none => s
    | some m =>
      let s1 := s.l1Push c line m
      match s1.l1Line c line with
      | none => s1
      | some f => s1.setL1 c line { f with mine := f.mine.drop engSlot }

/-- Promotion (R199) and self-promotion (R200): the CORE-scope releases performed on the core become DEVICE-scope ones, so
that what they pinned, and what the engine wrote before them, is performed at the L2; every pin ends. -/
def State.promote (s : State) (c : Nat) : State :=
  ((s.coreAt c).l1.keys.foldl (fun s line =>
    match s.l1Line c line with
    | some e => if e.pins.isEmpty then s.pushEng c line else s.l1Unpin c line
    | none => s) s).modCore c fun x => { x with released := false }

/-- The number of lines the L1 holds: 576 KiB less the carve-out (01_machine.md R18; DESIGN CHOICE, assumption log entry 10). -/
def Core.l1Lines (x : Core) : Nat := (576 - x.carve) * 8

/-- The line an allocation evicts: an evict-first line, else one not asked to be kept, else any, never a pinned one
(R186, R200, 02_formats.md R46). -/
def Core.victim (x : Core) : Option Nat :=
  match x.l1.find? (fun e => e.2.pins.isEmpty && e.2.evict) with
  | some e => some e.1
  | none =>
    match x.l1.find? (fun e => e.2.pins.isEmpty && !e.2.keep) with
    | some e => some e.1
    | none => (x.l1.find? fun e => e.2.pins.isEmpty).map (·.1)

/-- Makes room for one line; a set that is wholly pinned promotes the core first (R200). -/
def State.l1Room (s : State) (c : Nat) : State :=
  if (s.coreAt c).l1.length < (s.coreAt c).l1Lines then s
  else match (s.coreAt c).victim with
    | some line => s.l1Evict c line
    | none =>
      let s1 := s.promote c
      match (s1.coreAt c).victim with
      | some line => s1.l1Evict c line
      | none => s1

/-- The L1 line, filled from the L2 when absent; `evict` marks a streaming fill. -/
def State.l1Get (s : State) (c line : Nat) (need : Need) (evict : Bool) : Res L1Line :=
  match s.l1Line c line with
  | some e => .ok s e
  | none =>
    match s.l2Get line need with
    | .ok s1 f =>
      let e : L1Line := ⟨f.data, 0, need == .r || need == .rw, need == .w || need == .rw, evict, false, [], [], .fresh, f.poison⟩
      .ok ((s1.l1Room c).setL1 c line e) e
    | .bad sub => .bad sub
    | .hold => .hold

/-! ### Pins and scopes -/

/-- A line takes the L2's bytes where it has no dirty ones of its own, and is as new as the L2's. -/
def State.l1Merge (s : State) (c line : Nat) : State :=
  match s.l1Line c line, s.l2Get line .none with
  | some e, .ok s1 f => s1.setL1 c line { e with
      data := overlay f.data e.data e.dirty, age := .fresh, poison := mergePoison f.poison e.poison e.dirty }
  | _, _ => s

/-- The lines of a core take the L2's bytes: all of them, or those that a CLUSTER-scope acquire must renew. -/
def State.renew (s : State) (c : Nat) (all : Bool) : State :=
  (s.coreAt c).l1.keys.foldl (fun s line =>
    match s.l1Line c line with
    | some e => if all || e.age != .far then s.l1Merge c line else s
    | none => s) s

/-- What a core of a cluster has acquired at DEVICE or wider, a later CLUSTER-scope acquire in the cluster must see
(R195). -/
def State.spread (s : State) (q : Nat) : State :=
  { s with cores := s.cores.map fun d =>
      if clusterOf d.1 = q then (d.1, { d.2 with l1 := d.2.l1.map fun e =>
        (e.1, if e.2.age = .far then { e.2 with age := .near } else e.2) }) else d }

/-- An acquire at DEVICE or wider: the lines of the core's L1 take the L2's bytes, so that later reads see the L2
(R195). -/
def State.refresh (s : State) (c : Nat) : State := (s.renew c true).spread (clusterOf c)

/-- The lines of host memory that the L2 holds are written to it: a release at SYSTEM scope completes when the earlier
writes have completed at the host (R202). -/
def State.hostPush (s : State) : State :=
  s.l2.foldl (fun s e => if e.2.mt = 0 then s else s.l2Back e.1) s
/-- The lines of host memory that the L2 holds take the host's bytes where they are clean: an acquire at SYSTEM scope sees
what the host has released (R193, R195). -/
def State.hostPull (s : State) : State :=
  { s with l2 := s.l2.map fun e =>
      if e.2.mt = 0 then e else (e.1, { e.2 with data := overlay (s.hostMem.read e.2.pa 128) e.2.data e.2.dirty }) }

/-- What an acquire of core `c` does at its scope (R195): at CLUSTER it need not see what only parties outside the cluster
have released (R193, 21_ordering.md R420). -/
def State.acquireAt (s : State) (c scope : Nat) : State :=
  if scope ≤ 1 then s
  else if scope = 2 then s.renew c false
  else (if scope = 5 then s.hostPull else s).refresh c
/-- What an acquire does when it may come from outside the cores. -/
def State.acquired (s : State) (c : Option Nat) (scope : Nat) : State :=
  match c with | none => s | some c => s.acquireAt c scope
/-- The copy of the line that an acquire reads is given up unless it is pinned, so that the acquire reaches the L2. -/
def State.reRead (s : State) (c : Option Nat) (line scope : Nat) : State :=
  match c with | none => s | some c => if scope ≤ 1 then s else s.l1Evict c line

/-- The other cores whose L1 holds the line pinned. -/
def State.pinners (s : State) (c : Option Nat) (line : Nat) : List Nat :=
  (s.cores.filter fun e => some e.1 != c &&
    (match e.2.l1.find line with | some l => !l.pins.isEmpty | none => false)).map (·.1)

/-- An access from outside the pinning cores that reaches a line: an acquire at DEVICE or wider promotes them (R199),
any other is refused (R198). What the acquire does at its own core follows the promotion. -/
def State.reach (s : State) (c : Option Nat) (line : Nat) (acq : Nat) : Option State :=
  match s.pinners c line with
  | [] => some s
  | l => if 3 ≤ acq then some ((l.foldl State.promote s).acquired c acq) else none

/-- A release at CLUSTER or wider by the band in a slot performs at the L2 what the band wrote and what happens before
it (R195, 21_ordering.md R418): the band's bytes; its pinned lines, whose pins end (R198); lines pinned by CORE-scope
releases that precede the band's latest acquire (DEDUCED, assumption log entry 71); what the copy engine wrote. -/
def State.flushFor (s : State) (c slot : Nat) : State :=
  let acq := match s.band? c slot with | some b => b.acqAt | none => 0
  (s.coreAt c).l1.keys.foldl (fun s line =>
    match s.l1Line c line with
    | none => s
    | some e =>
      let s1 :=
        if e.pins.any fun p => p.slot == slot || decide (p.stamp ≤ acq) then s.l1Back c line
        else (s.l1Push c line (e.mine.get 0 slot)).l1Push c line (e.mine.get 0 engSlot)
      match s1.l1Line c line with
      | none => s1
      | some f => s1.setL1 c line { f with
          pins := f.pins.filter (fun p => p.slot != slot), mine := (f.mine.drop slot).drop engSlot }) s

/-- A release at CORE pins the lines the band has written since its previous release, and renews its pins (R198). -/
def State.pinFor (s : State) (c slot : Nat) : State :=
  s.modCore c fun x => { x with
    released := true,
    l1 := x.l1.map fun e =>
      if (e.2.mine.find slot).isSome || e.2.pins.any (fun p => p.slot == slot) then
        (e.1, { e.2 with pins := (e.2.pins.filter fun p => p.slot != slot) ++ [⟨slot, s.cycle, s.nextId⟩],
                         mine := e.2.mine.drop slot })
      else e }

/-- What a release does before its own write (R195, R202). -/
def State.release (s : State) (c slot scope : Nat) : State :=
  if scope = 0 then s
  else if scope = 1 then s.pinFor c slot
  else if scope = 5 then (s.flushFor c slot).hostPush
  else s.flushFor c slot
/-- A synchronising write at SYSTEM scope reaches host memory at once (R194, R202). -/
def State.outTo (s : State) (scope : Nat) : State := if scope = 5 then s.hostPush else s

/-- The cores within a scope of core `c` (R193). -/
def inScope (c scope d : Nat) : Bool :=
  if scope ≤ 1 then c == d else if scope = 2 then clusterOf c == clusterOf d else true

/-- A synchronising write becomes visible to every party of its scope at one moment (R194): the other cores' copies of
the line are dropped. -/
def State.publish (s : State) (c : Nat) (scope line : Nat) : State :=
  s.cores.keys.foldl (fun s d => if d != c && inScope c scope d then s.l1Evict d line else s) s

/-! ### Accesses to a local IA -/

/-- The cache policy of an access: the instruction's, or the window's when it is 0 (R186). -/
def policy (cp wcp : Nat) : Nat := if cp = 0 then wcp else cp

/-- Before an access that passes the L1 by, the core's own copy of the line gives its dirty bytes to the L2, and a copy
that is not pinned is given up: no later read of the core is older than this access (R194). -/
def State.syncL1 (s : State) (c : Option Nat) (line : Nat) : State :=
  match c with | none => s | some c => (s.l1Back c line).l1Evict c line

/-- After an access that passed the L1 by, the core's own copy takes the bytes: no later read of the core is older
(R194). -/
def State.echoL1 (s : State) (c : Option Nat) (line i : Nat) (d : List Byte) : State :=
  match c with
  | none => s
  | some c =>
    match s.l1Line c line with
    | none => s
    | some e => s.setL1 c line { e with data := patch e.data i d, poison := e.poison &&& ~~~covers16 i d.length }

/-- Reads at the L2 or, uncached, at the memory side: a walk (R183), then the bytes of an L2 copy or of memory (R186).
The result carries whether they are poisoned. -/
def State.sideRead (s : State) (ia n : Nat) (need : Need) (uncached : Bool) : Res (List Byte × Bool) :=
  if uncached then
    match s.translate (localPart ia) need with
    | .ok s1 l => .ok s1 (match s1.l2.find (ia / 128) with
        | some e => (sliceOf e.data (ia % 128) n, e.poison &&& units16 (ia % 128) n != 0)
        | none => (s1.physRead l.mt l.pa n, l.mt == 0 && s1.hbm.poisoned 32 l.pa n))
    | .bad b => .bad b
    | .hold => .hold
  else
    match s.l2Get (ia / 128) need with
    | .ok s1 e => .ok s1 (sliceOf e.data (ia % 128) n, e.poison &&& units16 (ia % 128) n != 0)
    | .bad b => .bad b
    | .hold => .hold

/-- Reads `n` bytes of a local IA that lie in one line, for core `c` or for an agent of the device, under a policy; `acq`
is the scope of an acquire. A line of the L1 whose page was not found to permit reads asks the L2 (R184). The result
carries whether the bytes are poisoned. -/
def State.iaRead (s : State) (c : Option Nat) (ia n cp acq : Nat) : Res (List Byte × Bool) :=
  let line := ia / 128
  let i := ia % 128
  let s0 := (s.acquired c acq).reRead c line acq
  match (match c with
    | some c => if cp ≤ 1 then (s0.l1Line c line).map (c, ·) else none
    | none => none) with
  | some (d, e) =>
    if e.rperm then .ok s0 (sliceOf e.data i n, e.poison &&& units16 i n != 0)
    else match s0.l2Get line .r with
      | .ok s1 _ => .ok (s1.setL1 d line { e with rperm := true }) (sliceOf e.data i n, e.poison &&& units16 i n != 0)
      | .bad b => .bad b
      | .hold => .hold
  | none =>
    match s0.reach c line acq with
    | none => .hold
    | some s1 =>
      match c with
      | some d =>
        if cp ≤ 1 then
          match s1.l1Get d line .r (cp == 1) with
          | .ok s2 e => .ok s2 (sliceOf e.data i n, e.poison &&& units16 i n != 0)
          | .bad b => .bad b
          | .hold => .hold
        else
          match (s1.syncL1 (some d) line).sideRead ia n .r (cp == 3) with
          | .ok s2 (x, p) => .ok (if p then s2 else s2.echoL1 (some d) line i x) (x, p)
          | .bad b => .bad b
          | .hold => .hold
      | none => s1.sideRead ia n .r (cp == 3)

/-- Writes bytes into a core's L1 line, which records the writing slot. -/
def State.l1Write (s : State) (c slot line i : Nat) (e : L1Line) (d : List Byte) : State :=
  s.setL1 c line { e with
    data := patch e.data i d, dirty := e.dirty ||| span128 i d.length, wperm := true,
    mine := e.mine.put slot (e.mine.get 0 slot ||| span128 i d.length), poison := e.poison &&& ~~~covers16 i d.length }

/-- Writes at the L2 or, uncached, at the memory side, coherently with an L2 copy (R186), for core `c` or another
agent. -/
def State.sideWrite (s : State) (c : Option Nat) (ia : Nat) (d : List Byte) (uncached : Bool) : Res Unit :=
  if uncached then
    match s.translate (localPart ia) .w with
    | .ok s1 l =>
      let s2 := (s1.physWrite l.mt l.pa d).passed c (ia / 128)
      .ok (match s2.l2.find (ia / 128) with
        | some e => { s2 with l2 := s2.l2.put (ia / 128) { e with
            data := patch e.data (ia % 128) d, dirty := e.dirty &&& ~~~span128 (ia % 128) d.length,
            poison := e.poison &&& ~~~covers16 (ia % 128) d.length } }
        | none => s2) ()
    | .bad b => .bad b
    | .hold => .hold
  else
    match s.l2Get (ia / 128) .w with
    | .ok s1 _ => .ok (s1.l2Put c (ia / 128) (ia % 128) d) ()
    | .bad b => .bad b
    | .hold => .hold

/-- Writes bytes of a local IA that lie in one line: by a band of core `c` in slot `slot`, or by another agent when
`slot` is none, which writes at the L2. -/
def State.iaWrite (s : State) (c : Option Nat) (slot : Option Nat) (ia : Nat) (d : List Byte) (cp : Nat) : Res Unit :=
  let line := ia / 128
  let i := ia % 128
  match c, slot with
  | some c, some k =>
    if cp ≤ 1 then
      match s.l1Line c line with
      | some e =>
        if e.wperm then .ok (s.l1Write c k line i e d) ()
        else match s.reach (some c) line 0 with
          | none => .hold
          | some s1 =>
            match s1.l2Get line .w with
            | .ok s2 _ => .ok (s2.l1Write c k line i e d) ()
            | .bad b => .bad b
            | .hold => .hold
      | none =>
        match s.reach (some c) line 0 with
        | none => .hold
        | some s1 =>
          match s1.l1Get c line .w (cp == 1) with
          | .ok s2 e => .ok (s2.l1Write c k line i e d) ()
          | .bad b => .bad b
          | .hold => .hold
    else
      match s.reach (some c) line 0 with
      | none => .hold
      | some s1 =>
        match (s1.syncL1 (some c) line).sideWrite (some c) ia d (cp == 3) with
        | .ok s2 _ => .ok (s2.echoL1 (some c) line i d) ()
        | .bad b => .bad b
        | .hold => .hold
  | c, _ =>
    match s.reach c line 0 with
    | none => .hold
    | some s1 =>
      match (s1.syncL1 c line).sideWrite c ia d (cp == 3) with
      | .ok s2 _ => .ok (s2.echoL1 c line i d) ()
      | .bad b => .bad b
      | .hold => .hold

/-- A read-modify-write of a local IA under a policy: in the core's L1 at CORE scope, else at the L2 (R215); under L2-only
and uncached, which allocate no L1 line, at the L2 and at the memory side (R186; DEDUCED, assumption log entry 72). The result
carries the old bytes and whether they are poisoned, in which case nothing is written. -/
def State.iaAtomic (s : State) (c slot ia n cp scope acq : Nat) (f : List Byte → List Byte) : Res (List Byte × Bool) :=
  let line := ia / 128
  let i := ia % 128
  if scope = 1 ∧ cp ≤ 1 then
    let go := fun (s1 : State) (e : L1Line) =>
      let old := sliceOf e.data i n
      if e.poison &&& units16 i n != 0 then Res.ok s1 (old, true)
      else Res.ok (s1.l1Write c slot line i e (f old)) (old, false)
    match s.l1Line c line with
    | some e =>
      if e.rperm && e.wperm then go s e
      else match s.reach (some c) line 0 with
        | none => .hold
        | some s1 =>
          match s1.l2Get line .rw with
          | .ok s2 _ => go s2 { e with rperm := true }
          | .bad b => .bad b
          | .hold => .hold
    | none =>
      match s.reach (some c) line 0 with
      | none => .hold
      | some s1 =>
        match s1.l1Get c line .rw (cp == 1) with
        | .ok s2 e => go s2 e
        | .bad b => .bad b
        | .hold => .hold
  else
    let s0 := s.acquireAt c acq
    match s0.reach (some c) line acq with
    | none => .hold
    | some s1 =>
      match (s1.syncL1 (some c) line).sideRead ia n .rw (cp == 3) with
      | .ok s2 (old, true) => .ok s2 (old, true)
      | .ok s2 (old, false) =>
        match s2.sideWrite (some c) ia (f old) (cp == 3) with
        | .ok s3 _ => .ok (((s3.echoL1 (some c) line i (f old)).publish c scope line).outTo scope) (old, false)
        | .bad b => .bad b
        | .hold => .hold
      | .bad b => .bad b
      | .hold => .hold

/-! ### Several lines -/

/-- Cuts `n` bytes at `ia` into pieces that lie in one line each. -/
def pieces : Nat → Nat → Nat → List (Nat × Nat)
  | 0, _, _ => []
  | fuel + 1, ia, n =>
    if n = 0 then []
    else
      let m := min n (128 - ia % 128)
      (ia, m) :: pieces fuel (ia + m) (n - m)

/-- Reads bytes over several lines, for an agent or an engine of core `c`. -/
def State.iaReadMany (s : State) (c : Option Nat) (cp : Nat) : List (Nat × Nat) → Res (List Byte × Bool)
  | [] => .ok s ([], false)
  | (ia, n) :: t =>
    match s.iaRead c ia n (if cp = 3 then 3 else 2) 0 with
    | .ok s1 (d, p) =>
      match State.iaReadMany s1 c cp t with
      | .ok s2 (d2, p2) => .ok s2 (d ++ d2, p || p2)
      | .bad b => .bad b
      | .hold => .hold
    | .bad b => .bad b
    | .hold => .hold

/-- Writes bytes over several lines, for an agent or an engine of core `c`. -/
def State.iaWriteMany (s : State) (c : Option Nat) (cp : Nat) : List (Nat × Nat) → List Byte → Res Unit
  | [], _ => .ok s ()
  | (ia, n) :: t, d =>
    match s.iaWrite c none ia (d.take n) cp with
    | .ok s1 _ => State.iaWriteMany s1 c cp t (d.drop n)
    | .bad b => .bad b
    | .hold => .hold

/-! ### Cache maintenance (R210) -/

/-- CCTL on the line of a local IA: 0 WB, 1 INV, 2 WBI. -/
def State.maintain (s : State) (c line op : Nat) : State :=
  if op = 0 then (s.l1Unpin c line).l2Back line
  else if op = 1 then (s.dropL1 c line).l2Drop line
  else ((s.l1Unpin c line).dropL1 c line).l2Drop line

/-- Every core's copy and the L2 copy of a line is written back to memory and discarded (20_host.md R411). -/
def State.expel (s : State) (line : Nat) : State :=
  (s.cores.keys.foldl (fun s c => (s.l1Unpin c line).dropL1 c line) s).l2Drop line

/-! ### Fetch (02_formats.md R49, 15_traps.md R365) -/

/-- Marks `n` bytes of a local IA, which lie in one line, poisoned where they stand (15_traps.md R368): in the L2 or in
HBM, and in the copy of the core that wrote them. -/
def State.poisonIa (s : State) (c : Option Nat) (ia n : Nat) : State :=
  let s1 := match c with
    | none => s
    | some c =>
      match s.l1Line c (ia / 128) with
      | some e => s.setL1 c (ia / 128) { e with poison := e.poison ||| units16 (ia % 128) n }
      | none => s
  match s1.l2.find (ia / 128) with
  | some e => { s1 with l2 := s1.l2.put (ia / 128) { e with poison := e.poison ||| units16 (ia % 128) n } }
  | none =>
    match s1.walk (localPart ia) with
    | .leaf l => if l.mt = 0 then { s1 with hbm := s1.hbm.mark 32 l.pa } else s1
    | .bad _ _ => s1

/-- Whether firmware services the page of a local IA (08_memory.md R184, DSVC). -/
def State.serviced (s : State) (ia : Nat) : Bool :=
  match s.walk (localPart ia) with
  | .bad _ dsvc => dsvc
  | .leaf _ => false

/-- Whether a fetch at a local IA needs a page of host memory that the host has not granted yet: its line is not in the
L2 (15_traps.md R365, 20_host.md R403). -/
def State.hostPage (s : State) (ia : Nat) : Bool :=
  (s.l2.find (ia / 128)).isNone && !s.served.contains (localPart ia / 65536, true)
    && match s.walk (localPart ia) with | .leaf l => l.mt == 1 && l.x | .bad _ _ => false

/-- Whether a fetch at a local IA waits for the service of its page, which has not failed. -/
def State.parks (s : State) (ia : Nat) : Bool :=
  (s.serviced ia || s.hostPage ia) && !s.served.contains (localPart ia / 65536, false)

/-- The IA of the word at an offset of the code section. -/
def Here.codeIa (h : Here) (p : Nat) : Option Nat :=
  match h.module with
  | none => none
  | some m => match h.ctx.win (BitVec.ofNat 64 (m.code + p)) .x with
    | .ok (ia, _) => some ia
    | .error _ => none

/-- Where an IA lies for core `c`, as the UNIT code of an HWERR record: its L1, the L2, or HBM (15_traps.md R353). -/
def State.iaUnit (s : State) (c ia : Nat) : Nat :=
  if (s.l1Line c (ia / 128)).isSome then 3 else if (s.l2.find (ia / 128)).isSome then 2 else 1

/-- The word at offset `p` of the band's code section: read from the L2 through an execute-permitted window, so that after
a change of the code bytes every fetch takes what the L2 then holds, where the specification leaves old or new open for each
word (02_formats.md R49; DESIGN CHOICE, assumption log entry 74). The error
carries the MEM sub-cause; the result whether the word is poisoned. -/
def State.fetchWord (s : State) (h : Here) (p : Nat) : Res (DWord × Bool) :=
  match h.module with
  | none => .bad 1
  | some m =>
    match h.ctx.win (BitVec.ofNat 64 (m.code + p)) .x with
    | .error b => .bad b
    | .ok (ia, _) =>
      if !s.localIa ia then .bad 8
      else if s.hostPage ia then (if s.parks ia then .hold else .bad 5)
      else
        match s.reach (some h.core) (ia / 128) 0 with
        | none => .hold
        | some s1 =>
          match s1.l2Get (ia / 128) .x with
          | .ok s2 e => .ok s2 (BitVec.ofNat 64 (ofBytes (sliceOf e.data (ia % 128) 8)),
              e.poison &&& units16 (ia % 128) 8 != 0)
          | .bad b => .bad b
          | .hold => .hold

/-- The word at P for a record or a frame: 0 when P is SIZE or the word cannot be read (15_traps.md R359, R367). -/
def State.peekWord (s : State) (h : Here) (p : BitVec 64) : DWord :=
  if p.toNat < h.codeSize then
    match s.fetchWord h p.toNat with
    | .ok _ (w, _) => w
    | _ => 0
  else 0

end Sys2Proof.Machine
end

