-- ==== Sys2Proof/Machine/Ops.lean ====
section
/-! DEFINITION. The operations every family shares: the scratchpad, CHIP and PRIV of a band; barrier objects; kills and
the error log; taking a trap and returning from one. -/

namespace Sys2Proof.Machine

/-! ### The scratchpad (08_memory.md R175, R177, 13_tasks.md R310) -/

/-- Bytes at an SCR offset of a crew on core `c`. -/
def State.scrRead (s : State) (c : Nat) (w : Crew) (o n : Nat) : List Byte := (s.coreAt c).scr.read (w.place + o) n
/-- Whether bytes at an SCR offset lie in a poisoned unit. -/
def State.scrPoisoned (s : State) (c : Nat) (w : Crew) (o n : Nat) : Bool := (s.coreAt c).scr.poisoned 8 (w.place + o) n
/-- Writes bytes at an SCR offset; the pages touched were last written by the crew's context (R310). -/
def State.scrWrite (s : State) (c : Nat) (w : Crew) (o : Nat) (d : List Byte) : State :=
  s.modCore c fun x => { x with
    scr := x.scr.write 8 (w.place + o) d,
    last := (List.range (d.length / 4096 + 2)).foldl (fun t i =>
      if decide ((w.place + o) / 4096 + i ≤ (w.place + o + d.length - 1) / 4096) && !d.isEmpty then
        t.put ((w.place + o) / 4096 + i) (w.task.ctx + 1) else t) x.last }

/-- Whether an SCR range lies within the allotment. -/
def Crew.holds (w : Crew) (o n : Nat) : Bool := decide (o + n ≤ w.size)

/-- Member `m` of the crew's gang: its core and its crew (R178). -/
def State.member? (s : State) (w : Crew) (m : Nat) : Option (Nat × Crew) :=
  match w.gang[m]? with
  | none => none
  | some (c, n) => (s.crew? c n).map (c, ·)

/-! ### PRIV (08_memory.md R176) -/

/-- The IA of byte `b` of lane `l`'s private memory. -/
def privIa (pvbase pvsize core slot l b : Nat) : Nat :=
  pvbase + (32 * core + slot) * 32 * pvsize + (b / 4) * 128 + 4 * l + b % 4

/-- The IA of a PRIV byte of the band. -/
def Here.privIa (h : Here) (l b : Nat) : Nat :=
  Sys2Proof.Machine.privIa h.ctx.pvbase.toNat h.ctx.pvsize.toNat h.core h.slot l b

/-! ### Barrier objects (09_engines.md R223 to R228) -/

/-- A barrier object. -/
structure Obj where
  gen   : Nat
  phase : Nat
  apend : Nat
  ainit : Nat
  inb   : BitVec 32
  outb  : BitVec 32
  fcode : Nat
  faux  : Nat
  deriving DecidableEq, Repr

/-- An object from its 128 bits (R223). -/
def Obj.ofNat (n : Nat) : Obj :=
  ⟨n % 16, n / 2 ^ 4 % 16, n / 2 ^ 8 % 2 ^ 16, n / 2 ^ 24 % 2 ^ 16, BitVec.ofNat 32 (n / 2 ^ 40), BitVec.ofNat 32 (n / 2 ^ 72),
    n / 2 ^ 104 % 256, n / 2 ^ 112 % 2 ^ 16⟩
/-- The 128 bits of an object (R223). -/
def Obj.toNat (o : Obj) : Nat :=
  o.gen % 16 + o.phase % 16 * 2 ^ 4 + o.apend % 2 ^ 16 * 2 ^ 8 + o.ainit % 2 ^ 16 * 2 ^ 24 + o.inb.toNat * 2 ^ 40
    + o.outb.toNat * 2 ^ 72 + o.fcode % 256 * 2 ^ 104 + o.faux % 2 ^ 16 * 2 ^ 112

/-- Check of R224: the object, and whether a generation completed. -/
def Obj.check (o : Obj) : Obj × Bool :=
  if o.phase ≠ 3 ∧ o.apend = 0 ∧ o.inb = 0 ∧ o.outb = 0 then
    ({ o with gen := (o.gen + 1) % 16, apend := o.ainit, phase := if o.phase = 0 then 1 else o.phase }, true)
  else (o, false)
/-- Err of R224. -/
def Obj.err (code aux : Nat) (o : Obj) : Obj :=
  if o.phase < 2 then { o with phase := 2, fcode := code, faux := aux } else o
/-- Arrive of R224: 0x0F is EXTRA. -/
def Obj.arrive (o : Obj) : Obj × Bool :=
  if o.phase = 3 then (o, false)
  else if o.apend = 0 then (o.err 0x0F 0).check
  else { o with apend := o.apend - 1 }.check
/-- Count of R224. -/
def Obj.count (i b : BitVec 32) (o : Obj) : Obj × Bool := { o with inb := o.inb - i, outb := o.outb - b }.check
/-- Abandon of R224. -/
def Obj.abandon (o : Obj) : Obj × Bool := ({ o with phase := 3 }, true)
/-- The object BINIT writes (R223). -/
def Obj.init (ainit : Nat) : Obj := ⟨0, 0, ainit, ainit, 0, 0, 0, 0⟩

def State.objRead (s : State) (c : Nat) (w : Crew) (o : Nat) : Obj := Obj.ofNat (ofBytes (s.scrRead c w o 16))

/-- Whether a lane is BLOCKED on object `o` and its release reaches it (09_engines.md R245, 04_sweep.md R98). -/
def Band.waitsOn (b : Band) (o l : Nat) : Bool :=
  (b.lane l).st == .blocked && b.active l && (b.lane l).obj.toNat == o

/-- Releases a lane: WANTING its label, its status predicate written (R245). -/
def Band.wake (b : Band) (l : Nat) (err : Bool) : Band :=
  let pd := (b.lane l).pd.toNat
  (b.mapLanes fun i x => if i = l then { x with st := .wanting } else x).setPred pd (1#32 <<< l)
    (if err then BitVec.allOnes 32 else 0)

/-- Releases the lanes of a band that wait on `o`: all of them at a completion or abandonment, else those whose
condition is met (R228, R245). A lane resumed so has performed a CORE-scope acquire (R203). -/
def Band.release (b : Band) (o : Nat) (x : Obj) (all : Bool) (now : Nat) : Band :=
  laneIds.foldl (fun b l =>
    if b.waitsOn o l && (all || (b.lane l).gen.toNat != x.gen || x.phase == 3) then
      { b.wake l (decide (2 ≤ x.phase)) with acqAt := now }
    else b) b

/-- Writes an object after an event and releases its waiters; a completed generation clears ARR (R226). -/
def State.objWrite (s : State) (c n : Nat) (w : Crew) (o : Nat) (x : Obj) (all : Bool) : State :=
  let s1 := s.scrWrite c w o (toBytes 16 x.toNat)
  let s2 := if all then s1.modCrew c n fun w => { w with
      objs := w.objs.map fun e => if e.off = o then { e with arr := 0 } else e } else s1
  w.slots.foldl (fun s k => s.modBand c k fun b => if b.crew = n then b.release o x all s2.nextId else b) s2

/-- One event on the object at SCR offset `o` of a crew. -/
def State.objEvent (s : State) (c n o : Nat) (f : Obj → Obj × Bool) : State :=
  match s.crew? c n with
  | none => s
  | some w =>
    let r := f (s.objRead c w o)
    s.objWrite c n w o r.1 r.2

/-- Count on the object a scalar names; all ones names none. -/
def State.objCount (s : State) (c n : Nat) (o : DWord) (i b : BitVec 32) : State :=
  if o = BitVec.allOnes 64 then s else s.objEvent c n o.toNat (Obj.count i b)
/-- Err on the object a scalar names. -/
def State.objErr (s : State) (c n : Nat) (o : DWord) (code aux : Nat) : State :=
  if o = BitVec.allOnes 64 then s else s.objEvent c n o.toNat fun x => (x.err code aux, false)

/-- BINIT, BARV and BWAIT name an object: its entry is stamped, or entered in place of the one named longest ago (R226).
`enter` is BINIT. -/
def Crew.nameObj (w : Crew) (o : Nat) (enter : Bool) : Crew :=
  if w.objs.any fun e => e.off == o then
    { w with stamp := w.stamp + 1, objs := w.objs.map fun e =>
        if e.off = o then { e with stamp := w.stamp + 1, arr := if enter then 0 else e.arr } else e }
  else if !enter then w
  else if w.objs.length < 64 then { w with stamp := w.stamp + 1, objs := w.objs ++ [⟨o, 0, w.stamp + 1⟩] }
  else
    let old := w.objs.foldl (fun m e => min m e.stamp) (w.stamp + 1)
    { w with stamp := w.stamp + 1,
             objs := (w.objs.filter fun e => e.stamp != old) ++ [⟨o, 0, w.stamp + 1⟩] }

/-! ### The error log (15_traps.md R355, R367) -/

/-- A full log drops the oldest event record; when it holds only kill records, a new event record is dropped and a new
kill record displaces the oldest. -/
def addRec (l : List LogRec) (r : LogRec) : List LogRec :=
  if l.length < 4096 then l ++ [r]
  else match firstIdx (fun e => e.kind == 0) 0 l with
    | some (i, _) => l.eraseIdx i ++ [r]
    | none => if r.kind = 0 then l else l.drop 1 ++ [r]

/-- Adds a record to a context's log and signals vector 1 of its function (20_host.md R405). -/
def State.logRec (s : State) (x : Nat) (r : LogRec) : State :=
  match s.ctx? x with
  | none => s
  | some v => (s.setCtx x { v with log := addRec v.log r }).send (.msix v.fn 1)

/-- Adds an event record about a band's work (15_traps.md R353). -/
def State.logEvent (s : State) (h : Here) (group : Nat) (detail : BitVec 96) (p : BitVec 64) : State :=
  s.logRec h.ctxId ⟨group, 0, 0, h.core, h.slot, p, detail, s.peekWord h p, h.crew.task.id⟩

/-- Sets a sticky error of the context (R355). -/
def State.setCerr (s : State) (x bit : Nat) : State := s.modCtx x fun v => { v with cerr := v.cerr ||| (1#7 <<< bit) }

/-! ### Kills (02_formats.md R43, 15_traps.md R382) -/

/-- The objects on which a band owes arrivals (09_engines.md R226). -/
def State.owed (s : State) (c : Nat) (w : Crew) (index : Nat) : List Nat :=
  (w.objs.filter fun e =>
    let x := s.objRead c w e.off
    decide (x.phase < 3) && x.apend != 0 && !e.arr.getLsbD index).map (·.off)

/-- Every lane EXITED, the permit returned, and the fault responses discarded: a discarded element writes nothing and
lets those behind it go (R43). -/
def Band.kill (b : Band) : Band :=
  { (b.mapLanes fun _ x => { x with st := .exited }) with
    permit := false, killed := true, park := none, hwerr := [], wdog := false, waitTo := none, hprio := 0,
    log := (b.log.map fun o => { o with elems := o.elems.map fun e =>
      match e.st with | .faulted _ _ | .taken => { e with st := .done [] } | _ => e }).filter fun o =>
        !(o.elems.all fun e => match e.st with | .done _ => true | _ => false) }

/-- Ends a band: its lanes exit and the objects it owed arrivals to are abandoned (R43, steps 2 to 4). -/
def State.endBand (s : State) (h : Here) : State :=
  let owed := s.owed h.core h.crew h.band.index
  owed.foldl (fun s o => s.objEvent h.core h.band.crew o Obj.abandon)
    (s.modBand h.core h.slot Band.kill)

/-- Kills a band with a record (R43, R382): `status` of R367, whose CERR bit is one less; ILLENC records its word. -/
def State.kill (s : State) (h : Here) (status group : Nat) (detail : BitVec 96) : State :=
  let r : LogRec := ⟨group, 1, status, h.core, h.slot, h.band.p, detail, s.peekWord h h.band.p, h.crew.task.id⟩
  ((s.endBand h).setCerr h.ctxId (status - 1)).logRec h.ctxId r

/-- HWERR of sub-causes 4 to 6: SUB, UNIT, and bits [55:0] of the IA or of the index (15_traps.md R353). -/
def hwUnit (sub unit index : Nat) : BitVec 96 := BitVec.ofNat 96 (sub + unit % 16 * 2 ^ 4 + index % 2 ^ 56 * 2 ^ 8)

/-- A band that consumed poisoned data, or whose registers failed, is killed: its record carries the layout of HWERR
POISON (15_traps.md R353, R368, R369; DEDUCED, assumption log entry 29). -/
def State.killPoison (s : State) (h : Here) (unit index : Nat) : State := s.kill h 4 11 (hwUnit 6 unit index)

/-- The UNIT and index of a scratchpad byte of a crew: the number of its 64-bit unit (15_traps.md R353, R369; DESIGN
CHOICE, assumption log entry 29). -/
def Crew.scrUnit (w : Crew) (o : Nat) : Nat := (w.place + o) / 8

/-- Kills every band of a crew and writes one record, of KIND 2, which names the lowest band that is not wholly EXITED
(R382, DEDUCED, assumption log entry 48); `quiet` writes none (20_host.md R410). -/
def State.killCrew (s : State) (c n status group : Nat) (detail : BitVec 96) (quiet : Bool) : State :=
  match s.crew? c n with
  | none => s
  | some w =>
    let live := w.slots.filterMap fun k =>
      match s.hereAt c k with | some h => if h.band.crew = n && !h.band.allExited then some h else none | none => none
    let r : LogRec := match live with
      | h :: _ => ⟨group, 2, status, c, h.slot, h.band.p, detail, s.peekWord h h.band.p, w.task.id⟩
      | [] => ⟨group, 2, status, c, w.slots.headD 0, 0, detail, 0, w.task.id⟩
    let s1 := w.slots.foldl (fun s k =>
      match s.hereAt c k with
      | none => s
      | some h => if h.band.crew = n && !h.band.killed then s.endBand h else s) s
    if quiet then s1 else (s1.setCerr w.task.ctx (status - 1)).logRec w.task.ctx r

/-! ### Taking a trap (15_traps.md R357 to R363) -/

/-- Bytes in a frame for a band whose header declares `regs` registers (R359). -/
def frameSize (regs : Nat) : Nat := 0x680 + 128 * regs

/-- Whether TFRM names a frame within the allotment (R358). -/
def Here.frameOk (h : Here) : Bool :=
  h.band.tfrm != BitVec.allOnes 64 && h.crew.holds h.band.tfrm.toNat (frameSize h.crew.regs)

/-- The LSTATE code of a lane state (R359). -/
def LaneSt.code : LaneSt → Nat
  | .running => 0 | .wanting => 1 | .blocked => 2 | .exited => 3
def LaneSt.ofCode (n : Nat) : LaneSt := if n = 0 then .running else if n = 1 then .wanting else if n = 2 then .blocked else .exited

/-- COND of a lane as the frame holds it: 0 unless the lane is BLOCKED (R359). -/
def Lane.cond (x : Lane) : Nat :=
  if x.st = .blocked then x.obj.toNat + x.gen.toNat * 2 ^ 20 + x.pd.toNat * 2 ^ 24 else 0
/-- Want of a lane as the frame holds it. -/
def Lane.wantOut (x : Lane) : Nat := if x.st = .wanting ∨ x.st = .blocked then x.want.toNat else 0xFFFF
/-- TOP of a lane as the frame holds it: entry Depth − k in bits [16(4−k)+15 : 16(4−k)]. -/
def Lane.topOut (x : Lane) : Nat :=
  (List.range 4).foldl (fun a k =>
    if k < min x.depth.toNat 4 then a + (x.top.getD k 0).toNat * 2 ^ (16 * (3 - k)) else a) 0
/-- The predicates of a lane, predicate n in bit n. -/
def Band.predBits (b : Band) (l : Nat) : Nat :=
  (List.range 128).foldl (fun a n => if (b.pred n).getLsbD l then a + 2 ^ n else a) 0

/-- The bytes of the trap frame (R359). -/
def frameBytes (b : Band) (regs : Nat) (word cause : DWord) (detail : BitVec 96) (lanes : LaneMask) : List Byte :=
  toBytes 8 b.p.toNat ++ toBytes 8 word.toNat ++ toBytes 8 cause.toNat ++ toBytes 12 detail.toNat
  ++ toBytes 4 b.scnt.toNat ++ toBytes 8 lanes.toNat
  ++ (laneIds.flatMap fun l => toBytes 2 (b.lane l).wantOut)
  ++ toBytes 8 b.flags.toNat
  ++ toBytes 8 (laneIds.foldl (fun a l => a + (b.lane l).st.code * 4 ^ l) 0)
  ++ ((List.range 64).flatMap fun n => toBytes 8 (b.sreg n).toNat)
  ++ (laneIds.flatMap fun l => toBytes 16 (b.predBits l))
  ++ ((List.range regs).flatMap fun n => laneIds.flatMap fun l => toBytes 4 (b.v32 l n).toNat)
  ++ (laneIds.flatMap fun l => toBytes 4 (b.lane l).cond)
  ++ (laneIds.flatMap fun l => toBytes 2 (b.lane l).depth.toNat)
  ++ (laneIds.flatMap fun l => toBytes 8 (b.lane l).topOut)
  ++ toBytes 64 (if b.yld then 1 else 0)

/-- Trap permits a core has free: 4 less those held (R357). -/
def Core.permitFree (x : Core) : Bool := decide ((x.bands.filter fun e => e.2.permit).length < 4)

/-- The handler label TVEC names for a group, when it is a handler: an entry with ATTR 2 in the band's module (R355,
R358). -/
def Here.handlerLabel (h : Here) (group : Nat) : Option (BitVec 16) :=
  let x := if group = 2 then h.band.tvec.extractLsb' 16 16 else h.band.tvec.extractLsb' 0 16
  match h.label x with
  | some e => if e.attr = 2 then some x else none
  | none => none

/-- The count a back-off runs in: core cycles, or in deterministic mode the instructions other bands of the core retire
(R357). -/
def State.backClock (s : State) (h : Here) : Nat := if h.ctx.detm then (s.coreAt h.core).retires else s.cycle

/-- No permit is free: the band waits its back-off, which doubles up to 4,096 (R357). -/
def State.backOff (s : State) (h : Here) : State :=
  h.put s { h.band with waitTo := some (s.backClock h + h.band.backoff), backoff := min (2 * h.band.backoff) 4096 }

/-- Steps 2 to 6 of R358: the permit, the frame of band `b`, CAUSE and DETAIL, TL, and the handler lanes WANTING the
handler label. The skip to the label is the band's next move (04_sweep.md R82); P goes below every word, so that this skip
leaves SCNT unchanged. -/
def State.enter (s : State) (h : Here) (b : Band) (group : Nat) (detail : BitVec 96) (lanes : LaneMask)
    (label : BitVec 16) : State :=
  let cause := BitVec.ofNat 64 group
  let s1 := s.scrWrite h.core h.crew h.band.tfrm.toNat
    (frameBytes b h.crew.regs (s.peekWord h b.p) cause detail lanes)
  h.put s1 { (b.mapMask lanes fun _ x => { x with st := .wanting, want := label }) with
    p := -8, cause := cause, detail := detail, tl := true, handler := lanes, late := 0, trapAt := s.nextId,
    permit := true, backoff := 64, waitTo := none, park := none }

/-- Taking a trap (R357, R358, R361, R363): a double fault at TL = 1; UNHANDLED without a handler or a frame; a back-off
without a permit; else entry. `b` is the band as the frame records it: the band of `h` for a precise event, the band
after its word for a trap-after event. -/
def State.trap (s : State) (h : Here) (b : Band) (group : Nat) (detail : BitVec 96) (lanes : LaneMask) : State :=
  if h.band.tl then s.kill { h with band := b } 3 group detail
  else match h.handlerLabel group with
    | none => s.kill { h with band := b } 2 group detail
    | some label =>
      if !h.frameOk then s.kill { h with band := b } 2 group detail
      else if !(s.coreAt h.core).permitFree then s.backOff h
      else s.enter h b group detail lanes label

/-- A precise fault of the word at P: it has no effect, and P in the frame is the word. -/
def Here.fault (h : Here) (s : State) (group : Nat) (detail : BitVec 96) (lanes : LaneMask) : State :=
  s.trap h h.band group detail lanes

/-! ### DETAIL (15_traps.md R351, R352) -/

/-- CTRL: code, LANE, LABEL. -/
def ctrlDetail (code lane : Nat) (label : BitVec 16) : BitVec 96 :=
  BitVec.ofNat 96 (code + lane * 2 ^ 8 + label.toNat * 2 ^ 16)
/-- MEM, issue layout: SUB, lane, STACK, FETCH, address. -/
def memDetail (sub lane : Nat) (stack fetch : Bool) (addr : Nat) : BitVec 96 :=
  BitVec.ofNat 96 (sub + lane * 2 ^ 8 + (if stack then 2 ^ 13 else 0) + (if fetch then 2 ^ 15 else 0) + addr % 2 ^ 64 * 2 ^ 16)
/-- MEM, memory-side layout: SUB, REASON, LANES, page, DIST. -/
def sideDetail (sub reason : Nat) (lanes : LaneMask) (ia dist : Nat) : BitVec 96 :=
  BitVec.ofNat 96 (sub + reason * 2 ^ 4 + lanes.toNat * 2 ^ 8 + ia / 2 ^ 16 % 2 ^ 40 * 2 ^ 40 + min dist 0xFFFF * 2 ^ 80)
/-- ILLEGAL: SUB and the SYSREG number. -/
def illegalDetail (sub reg : Nat) : BitVec 96 := BitVec.ofNat 96 (sub + reg * 2 ^ 16)
/-- ENGINE, MATRIX and CLAUSE records: FCODE, FAUX, function, object (R353); of an ENGINE record, in bits [95:64], the low 32
bits of the address that faulted (09_engines.md R227; DEDUCED, assumption log entry 77). -/
def unitDetail (code aux fn : Nat) (obj : DWord) (addr : Nat) : BitVec 96 :=
  BitVec.ofNat 96 (code % 256 + aux % 2 ^ 16 * 2 ^ 8 + fn % 128 * 2 ^ 24
    + (if obj = BitVec.allOnes 64 then 0xFFFFFFFF else obj.toNat % 2 ^ 32) * 2 ^ 32 + addr % 2 ^ 32 * 2 ^ 64)
/-- HWERR of sub-causes 1 to 3: SUB, lane, offset divided by 8. -/
def hwDetail (sub lane : Nat) (off : BitVec 32) : BitVec 96 := BitVec.ofNat 96 (sub + lane * 2 ^ 8 + off.toNat * 2 ^ 32)

/-- WATCHDOG: the core cycles since the crew last retired an instruction, saturating (R351). -/
def State.watchDetail (s : State) (w : Crew) : BitVec 96 := BitVec.ofNat 96 (min (s.cycle - w.since) (2 ^ 32 - 1))

/-! ### Returning from a trap (15_traps.md R386) -/

/-- A field of the frame: `n` bytes at offset `o`. -/
def fieldAt (d : List Byte) (o n : Nat) : Nat := ofBytes (sliceOf d o n)

/-- A lane as the frame records it. -/
def frameLane (d : List Byte) (regs l : Nat) : Lane :=
  let x := 0x480 + 128 * regs
  let st := LaneSt.ofCode (fieldAt d 0x078 8 / 4 ^ l % 4)
  let cond := fieldAt d (x + 4 * l) 4
  let depth := fieldAt d (x + 0x080 + 2 * l) 2
  let top := fieldAt d (x + 0x0C0 + 8 * l) 8
  ⟨st, BitVec.ofNat 16 (fieldAt d (0x030 + 2 * l) 2), BitVec.ofNat 20 cond, BitVec.ofNat 4 (cond / 2 ^ 20),
    BitVec.ofNat 7 (cond / 2 ^ 24), BitVec.ofNat 16 depth,
    (List.range (min depth 4)).map fun k => BitVec.ofNat 16 (top / 2 ^ (16 * (3 - k)))⟩

/-- The checks of R386 on a lane: Depth, the label, and a BLOCKED lane's object (09_engines.md R244). -/
def Here.laneOk (h : Here) (x : Lane) : Bool :=
  decide (x.depth.toNat ≤ h.band.cstk.toNat / 2)
  && (if x.st = .wanting ∨ x.st = .blocked then
        (match h.label x.want with | some e => e.attr != 2 | none => false) else true)
  && (if x.st = .blocked then x.obj.toNat % 16 == 0 && h.crew.holds x.obj.toNat 16 else true)

/-- The checks of R386 on a frame. -/
def Here.frameGood (h : Here) (d : List Byte) : Bool :=
  let p := fieldAt d 0 8
  p % 8 == 0 && decide (p ≤ h.codeSize) && laneIds.all fun l => h.laneOk (frameLane d h.crew.regs l)

/-- The band that a frame restores. -/
def Band.restore (b : Band) (d : List Byte) (regs : Nat) : Band :=
  let preds := laneIds.map fun l => fieldAt d (0x280 + 16 * l) 16
  { b with
    p := BitVec.ofNat 64 (fieldAt d 0 8), scnt := BitVec.ofNat 32 (fieldAt d 0x024 4),
    yld := fieldAt d (0x480 + 128 * regs + 0x1C0) 8 % 2 == 1,
    flags := BitVec.ofNat 9 (fieldAt d 0x070 8) ||| b.late,
    s := (List.range 64).map fun n => (n, BitVec.ofNat 64 (fieldAt d (0x080 + 8 * n) 8)),
    pr := (List.range 127).map fun n => (n + 1, maskOf fun l => (preds.getD l 0).testBit (n + 1)),
    v := (List.range regs).map fun n => (n, laneIds.map fun l => BitVec.ofNat 32 (fieldAt d (0x480 + 128 * n + 4 * l) 4)),
    lanes := laneIds.map fun l => frameLane d regs l,
    tl := false, handler := 0, late := 0, permit := false }

/-- A BLOCKED lane whose condition is met at a restore becomes WANTING, its status predicate written (R386). -/
def State.recheck (s : State) (c : Nat) (w : Crew) (b : Band) : Band :=
  laneIds.foldl (fun b l =>
    if (b.lane l).st = .blocked then
      let x := s.objRead c w (b.lane l).obj.toNat
      if (b.lane l).gen.toNat != x.gen || x.phase == 3 then b.wake l (decide (2 ≤ x.phase)) else b
    else b) b

/-! ### Lane instructions of the vector pipe -/

/-- How a CHECKED crew's lane instruction is checked (15_traps.md R370 to R372): cloned or sampled by width; sampled by
width only, as the control words; sampled whatever its width, as the lane-exchange instructions. -/
inductive Check where
  | clone | control | exchange
  deriving DecidableEq, Repr

/-- The CHECKED count and the replay queue after a checked instruction of `m` (15_traps.md R372). -/
def State.sample (s : State) (h : Here) (m : LaneMask) (chk : Check) : State :=
  if !h.crew.checked || (chk != .exchange && decide (laneCount m ≤ 16)) then s
  else
    let n := h.band.sampled + 1
    let s1 := s.modBand h.core h.slot fun b => { b with sampled := n }
    if n % 2 ^ h.ctx.chkn.toNat = 0 && decide ((s.coreAt h.core).samples.length < 8) then
      s1.modCore h.core fun x => { x with
        samples := x.samples ++ [(h.slot, ⟨BitVec.ofNat 32 (h.band.p.toNat / 8)⟩)] }
    else s1

/-- The lowest lane of Running whose clone mismatches twice (15_traps.md R351, R371): the upsets name them. -/
def State.cloneMiss (s : State) (h : Here) (m : LaneMask) (chk : Check) : Option Nat :=
  if h.crew.checked && chk == .clone && decide (laneCount m ≤ 16) then
    (lanesOf m).find? fun l => s.clones.contains (h.core, h.slot, l)
  else none

/-- HWERR of sub-cause `sub` for lane `l`, precise at the word (15_traps.md R347). -/
def Here.hwErr (h : Here) (s : State) (sub l : Nat) (m : LaneMask) : State :=
  h.fault s 11 (hwDetail sub l (BitVec.ofNat 32 (h.band.p.toNat / 8))) m

/-- HWERR CHKMIS: the mismatch is spent unless the band waits for a permit, after which its word meets it again
(15_traps.md R357, R371). -/
def State.cloneTrap (s : State) (h : Here) (l : Nat) (m : LaneMask) : State :=
  let t := h.hwErr s 1 l m
  match t.band? h.core h.slot with
  | some b => if b.waitTo.isSome then t else { t with clones := t.clones.erase (h.core, h.slot, l) }
  | none => t

/-- A lane instruction of the vector pipe: guarded per lane, checked under R371 and R372, retired with the band that
`f` gives. -/
def State.laneOp (s : State) (g : Guard) (chk : Check) (f : Here → LaneMask → Band) :
    Host.Outcome State Fault Refusal :=
  s.onBand fun h =>
    match s.cloneMiss h (h.band.guarded g) chk with
    | some l => s.cloneTrap h l (h.band.guarded g)
    | none => (h.retire s (f h (h.band.guarded g))).sample h (h.band.guarded g) chk

/-- The lowest primary lane whose shadow differs at a compared instruction of a PAIRED crew (15_traps.md R373): in
Running without its shadow or the other way round, or `f` differs between the two. -/
def Here.pairMiss {α : Type} [DecidableEq α] (h : Here) (m : LaneMask) (f : Nat → α) : Option Nat :=
  if h.crew.paired then
    (List.range 16).find? fun l =>
      m.getLsbD l != m.getLsbD (l + 16) || (m.getLsbD l && decide (f l ≠ f (l + 16)))
  else none

/-- A band-level instruction: executed when its guard holds in Leader (02_formats.md R28), otherwise issued without
effect. -/
def State.bandOp (s : State) (g : Guard) (f : Here → State) : Host.Outcome State Fault Refusal :=
  s.onBand fun h => if h.band.leads g then f h else h.retire s h.band

/-- Flags that an earlier instruction raises when it completes: kept in Late while a handler runs (15_traps.md R386). -/
def Band.raiseLate (b : Band) (id : Nat) (f : BitVec 9) : Band :=
  if b.tl && decide (id < b.trapAt) then { b.raise f with late := b.late ||| f } else b.raise f

end Sys2Proof.Machine
end

