-- ==== Sys2Proof/Machine/Log.lean ====
section
/-! DEFINITION. The operand log of a band: the order in which its elements take effect, what a fault holds back, and what
is outstanding (08_memory.md R188 to R191, R194, R195, R201, R218). -/

namespace Sys2Proof.Machine

/-! ### Elements -/

def ElemSt.isDone : ElemSt → Bool
  | .done _ => true
  | _ => false
def ElemSt.isFaulted : ElemSt → Bool
  | .faulted _ _ => true
  | _ => false
/-- Whether a fault stands in the element: pending, or taken and waiting for RTE. -/
def ElemSt.isHurt : ElemSt → Bool
  | .faulted _ _ | .taken => true
  | _ => false
def ElemSt.isSent : ElemSt → Bool
  | .sent _ _ => true
  | _ => false

/-- Whether two byte ranges meet. -/
def rangesMeet (a n b k : Nat) : Bool := decide (a < b + k) && decide (b < a + n)

/-- The IAs and sizes of an element's pieces: PRIV lies in words of 4 bytes, one per row (R176). -/
def Here.privPieces (h : Here) (l b n : Nat) : List (Nat × Nat) :=
  if n ≤ 4 then [(h.privIa l b, n)] else (List.range (n / 4)).map fun i => (h.privIa l (b + 4 * i), 4)

/-- The lines of an element in IA space. -/
def Here.linesOf (h : Here) (e : Elem) (n : Nat) : List Nat :=
  match e.loc with
  | .ia a => [a / 128]
  | .priv b => (h.privPieces e.lane b n).map (·.1 / 128)
  | _ => []

/-! ### Order (R189, R190, R194, R195, R201) -/

/-- Whether element `d` of `p` stands before element `e` of `o` in the band's order of effect: issue order, and what RTE
reissued behind what the handler issued (R189). -/
def precedes (p : MemOp) (d : Elem) (o : MemOp) (e : Elem) : Bool :=
  decide (d.seq < e.seq) || (d.seq == e.seq && (decide (p.id < o.id) || (p.id == o.id && decide (d.lane < e.lane))))

/-- Whether a later element meets an earlier incomplete one: one 128-byte line, or the same SCR, CLU or CHIP bytes
(R190); and on a remote stripe, until the earlier request has been sent (R201). -/
def State.behind (s : State) (h : Here) (e : Elem) (n : Nat) (d : Elem) (k : Nat) : Bool :=
  match e.loc, d.loc with
  | .scr m a, .scr m2 b => m == m2 && rangesMeet a n b k
  | .chip a, .chip b => rangesMeet a n b k
  | .ia a, .ia b => a / 128 == b / 128 || (a / 256 == b / 256 && !s.localIa a && !d.st.isSent)
  | _, _ => (h.linesOf e n).any fun x => (h.linesOf d k).contains x

/-- Whether element `e` of `o` waits for element `d` of `p`: it comes first and is not done, and they meet, or `p` is an
acquire (R195). Requests of one operation that are on their way to another device keep their order (DEDUCED, assumption log
entry 47). -/
def State.waits (s : State) (h : Here) (o : MemOp) (e : Elem) (p : MemOp) (d : Elem) : Bool :=
  !d.st.isDone && precedes p d o e
    && (if p.id = o.id then !d.st.isSent && s.behind h e o.size d p.size else p.acq || s.behind h e o.size d p.size)

/-- The incomplete elements of a log. -/
def incomplete (log : List MemOp) : List (MemOp × Elem) :=
  log.flatMap fun o => (o.elems.filter fun e => !e.st.isDone).map (o, ·)

/-- Inserts an element into a list in order of effect. -/
def inOrder (x : MemOp × Elem) : List (MemOp × Elem) → List (MemOp × Elem)
  | [] => [x]
  | y :: t => if precedes y.1 y.2 x.1 x.2 then y :: inOrder x t else x :: y :: t

/-- Whether an operation of the handler goes before one from before the trap that RTE will issue again behind it (R189, R391). -/
def Here.overtakes (h : Here) (o p : MemOp) : Bool :=
  h.band.tl && !h.band.killed && decide (p.id < h.band.trapAt) && decide (h.band.trapAt ≤ o.id)

/-- The elements that cannot be performed before RTE reissues them: those in which a fault stands, and those that wait for
one of them (R189, R190), but for what the handler issued, which does not. -/
def State.heldBack (s : State) (h : Here) : List (MemOp × Elem) :=
  if h.band.log.any fun o => o.elems.any fun e => e.st.isHurt then
    ((incomplete h.band.log).foldl (fun a x => inOrder x a) []).foldl (fun a x =>
      if x.2.st.isHurt || a.any fun y => s.waits h x.1 x.2 y.1 y.2 && !h.overtakes x.1 y.1
      then a ++ [x] else a) []
  else []

/-- Whether a list of elements names element `e` of `o`. -/
def names (l : List (MemOp × Elem)) (o : MemOp) (e : Elem) : Bool := l.any fun x => x.1.id == o.id && x.2.lane == e.lane

/-! ### What is outstanding (R218) -/

/-- The elements that the band's own waits look at: the incomplete ones, at TL = 1 without those that a fault holds back
until RTE, for which no wait of the handler could end (DEDUCED, assumption log entry 9). -/
def State.live (s : State) (h : Here) : List (MemOp × Elem) :=
  if h.band.tl then
    let held := s.heldBack h
    (incomplete h.band.log).filter fun x => !names held x.1 x.2
  else incomplete h.band.log

/-- The operations that have such an element. -/
def State.liveOps (s : State) (h : Here) : List MemOp :=
  let l := s.live h
  h.band.log.filter fun o => l.any fun x => x.1.id == o.id

def OpKind.isLd : OpKind → Bool
  | .load | .loadS | .loadT | .atom | .cas | .atomS => true
  | _ => false
/-- Outstanding operations of the LD class. -/
def State.ldCount (s : State) (h : Here) : Nat := ((s.liveOps h).filter fun o => o.kind.isLd).length
/-- Outstanding operations of the ST class. -/
def State.stCount (s : State) (h : Here) : Nat := ((s.liveOps h).filter fun o => !o.kind.isLd).length
/-- Outstanding ENG commands of the band. -/
def State.engCount (s : State) (h : Here) : Nat :=
  ((s.coreAt h.core).eng.filter fun e => e.slot == h.slot && e.crew == h.band.crew).length
/-- Outstanding matrix instructions of the band. -/
def State.mxCount (s : State) (h : Here) : Nat :=
  ((s.coreAt h.core).mx.queue.filter fun e => e.slot == h.slot && e.crew == h.band.crew).length
/-- A CLFNC that the array has accepted: it is complete, and stands in the queue only to keep CLINFs behind it (12_clause.md
R296). -/
def ClCmd.isFence (c : ClCmd) : Bool := c.op == 0xC8 && c.accepted
/-- Outstanding clause instructions of the band. -/
def State.clCount (s : State) (h : Here) : Nat :=
  ((s.clusterAt (clusterOf h.core)).clause.queue.filter fun e =>
    e.core == h.core && e.slot == h.slot && e.crew == h.band.crew && !e.isFence).length
/-- Whether every memory operation of the band that a wait looks at has been performed. -/
def State.drained (s : State) (h : Here) : Bool := (s.live h).isEmpty
/-- Whether an outstanding operation of the band has remote writes not yet acknowledged (R201). -/
def State.remoteWrites (s : State) (h : Here) : Bool :=
  (s.live h).any fun x => x.1.kind != .load && x.1.kind != .loadS && x.1.kind != .loadT &&
    match x.2.loc with
    | .ia a => !s.localIa a
    | _ => false

/-- Whether the memory operations that a band issued before command number `id` are performed (09_engines.md R229,
11_matrix.md R254, 12_clause.md R283): for a command of the handler, but those that a fault holds back until RTE. -/
def State.pastOps (s : State) (h : Here) (id : Nat) : Bool :=
  (if h.band.tl && decide (h.band.trapAt ≤ id) then s.live h else incomplete h.band.log).all fun x => decide (id < x.1.id)

/-- The same for the band of a crew in a slot, when it is still there. -/
def State.bandPast (s : State) (c slot crew id : Nat) : Bool :=
  match s.hereAt c slot with
  | some h => h.band.crew != crew || s.pastOps h id
  | none => true

/-- Whether an earlier access of the band to SCR bytes is outstanding: what reads or writes them at issue waits for it
(R190). -/
def State.scrBusy (s : State) (h : Here) (o n : Nat) : Bool :=
  (s.live h).any fun x => match x.2.loc with | .scr m a => m == h.crew.member && rangesMeet a x.1.size o n | _ => false

/-- Whether a PRIV access of the band is outstanding: the stack accesses wait behind it (R190; DEDUCED, assumption log
entry 9). -/
def State.privBusy (s : State) (h : Here) : Bool :=
  (s.live h).any fun x => match x.2.loc with | .priv _ => true | _ => false

/-! ### What may go -/

/-- Whether SCR accesses of the crew's bands that the core issued before operation `id` have taken effect: in deterministic
mode they do so in the order of issue (17_lock.md R395). -/
def State.scrTurn (s : State) (h : Here) (id : Nat) : Bool :=
  h.crew.slots.all fun k => match s.hereAt h.core k with
    | none => true
    | some g => g.band.crew != h.band.crew ||
      (let held := s.heldBack g
       (incomplete g.band.log).all fun x => decide (id ≤ x.1.id) || names held x.1 x.2
         || match x.2.loc with | .scr _ _ => false | _ => true)

/-- Whether nothing keeps an element back: nothing before it that it waits for; the lower lanes of its own operation, which
go first (R194) but for those that have faulted, are held or are on their way to another device. What a fault holds back
does not keep back what the handler issues (R391: the handler's own store goes before the replayed one). With `fail`, the
faulted elements of its own operation do not count: what an access to their page meets does not depend on them (DEDUCED,
assumption log entry 47). -/
def State.free (s : State) (h : Here) (id l : Nat) (fail : Bool) : Bool :=
  match h.band.log.find? fun o => o.id == id with
  | none => false
  | some o =>
    match o.elems.find? fun e => e.lane == l with
    | none => false
    | some e =>
      let held := s.heldBack h
      ((incomplete h.band.log).all fun x =>
        if x.1.id = id then
          !decide (x.2.lane < l) || (x.2.st.isSent || (fail && x.2.st.isFaulted)
            || ((x.2.st.isHurt || names held x.1 x.2) && !s.waits h o e x.1 x.2))
        else !s.waits h o e x.1 x.2 || (h.overtakes o x.1 && names held x.1 x.2))
      && (!h.ctx.detm || (match e.loc with | .scr _ _ => s.scrTurn h id | _ => true))

/-- Whether an element may be performed. -/
def State.mayGo (s : State) (h : Here) (id l : Nat) : Bool := s.free h id l false

/-! ### Completion -/

/-- The data of an element. -/
def Elem.dataOf (e : Elem) : List Byte := match e.st with | .done d => d | _ => []

/-- Writes the destination of a finished operation: in all its lanes at once (R189, R207, R208). In a PAIRED crew the
destination of an atomic in a shadow lane takes its primary's value (15_traps.md R373). -/
def Band.deliver (b : Band) (paired : Bool) (o : MemOp) : Band :=
  let shadow := paired && (o.kind == .atom || o.kind == .cas)
  let src := fun (l : Nat) => if shadow then l % 16 else l
  let has := fun (l : Nat) => o.elems.any fun e => e.lane == src l
  let val := fun (l : Nat) => match o.elems.find? fun e => e.lane == src l with | some e => e.dataOf | none => []
  match o.kind with
  | .loadS | .atomS => b.setS o.dst (BitVec.ofNat 64 (ofBytes ((o.elems.map Elem.dataOf).headD [])))
  | .load | .loadT | .atom | .cas =>
    if o.size ≤ 4 then b.setV o.dst (maskOf has) fun l => BitVec.ofNat 32 (ofBytes (val l))
    else (List.range (o.size / 4)).foldl (fun b i =>
      b.setV (o.dst + i) (maskOf has) fun l => BitVec.ofNat 32 (ofBytes (sliceOf (val l) (4 * i) 4))) b
  | _ => b

/-- Whether every element of an operation is done. -/
def MemOp.done (o : MemOp) : Bool := o.elems.all fun e => e.st.isDone

/-- The operand log at RTE (R189, R386): what a fault held back stands behind what the handler issued, under the number
`seq`; faults that were taken are issued again, and faults that came since trap entry stay pending (R191). -/
def Band.reissue (b : Band) (held : List (MemOp × Elem)) (seq : Nat) : Band :=
  let again := fun (o : MemOp) (e : Elem) =>
    if names held o e then { e with seq := seq, st := if e.st = .taken then .pending else e.st } else e
  { b with log := b.log.map fun o => { o with elems := o.elems.map (again o) } }

/-- Operations issued before the trap that completed during the handler: their destinations are written again over what
the frame restores (DEDUCED, assumption log entry 9), and they leave the log. -/
def Band.redeliver (b : Band) (paired : Bool) : Band :=
  (b.log.filter (·.kept)).foldl (fun b o => b.deliver paired o) { b with log := b.log.filter fun o => !o.kept }

/-- RTE at TL = 1 (15_traps.md R386): a double fault when the frame cannot be read or fails a check, else the band it
restores. What is issued again may be serviced again (R366). -/
def State.returnFrom (s : State) (h : Here) : State :=
  if !h.frameOk then s.kill h 3 h.band.cause.toNat h.band.detail
  else
    let d := s.scrRead h.core h.crew h.band.tfrm.toNat (frameSize h.crew.regs)
    if !h.frameGood d then s.kill h 3 h.band.cause.toNat h.band.detail
    else
      let b := s.recheck h.core h.crew (h.band.restore d h.crew.regs)
      let (seq, s1) := s.takeId
      (h.put { s1 with served := s1.served.filter (·.2) }
        { (b.reissue (s.heldBack h) seq).redeliver h.crew.paired with icnt := h.band.icnt + 1 }).retired h

end Sys2Proof.Machine
end

