-- ==== Sys2Proof/Machine/Control.lean ====
section
/-! DEFINITION. Control: the label-sweep sequencer and the instructions 0x00 to 0x0B (04_sweep.md). -/

namespace Sys2Proof.Machine

/-! ### Control faults (R97) -/

/-- The code of a target label: 1 NOLABEL, 2 TRAPLBL, 0 none. -/
def Here.labelCode (h : Here) (x : BitVec 16) : Nat :=
  match h.label x with
  | none => 1
  | some e => if e.attr = 2 then 2 else 0

/-- What a lane meets: the lowest code, 0 for none, and the label DETAIL names. -/
structure CtrlHit where
  code  : Nat
  label : BitVec 16
  deriving DecidableEq, Repr

/-- The lower of two hits: a hit of code 0 is none; of two with one code, the lower label id (no rule says which LABEL
names when a target and a return label meet one code: DESIGN CHOICE, assumption log entry 64). -/
def CtrlHit.min (a b : CtrlHit) : CtrlHit :=
  if a.code = 0 then b else if b.code = 0 then a
  else if b.code < a.code ∨ (b.code = a.code ∧ b.label < a.label) then b else a

/-- A label as a target. -/
def Here.hitLabel (h : Here) (x : BitVec 16) : CtrlHit := ⟨h.labelCode x, x⟩

/-- The fault that lanes meeting `f` raise: the lowest code any lane meets, and the lowest lane that meets it. -/
def ctrlWorst (m : LaneMask) (f : Nat → CtrlHit) : Option (Nat × CtrlHit) :=
  (lanesOf m).foldl (fun a l =>
    if (f l).code = 0 then a
    else match a with
      | none => some (l, f l)
      | some (_, x) => if (f l).code < x.code then some (l, f l) else a) none

/-- A core caches the entry of a label that it has read (03_assembly.md R74): 1,024 entries, the least recently used
replaced; an id without an entry never fills the cache. -/
def State.cacheLabel (s : State) (c x m : Nat) (lid : BitVec 16) : State :=
  match (s.ctx? x).bind fun v => v.modules.find m with
  | some v =>
    if lid.toNat < v.labels.length then
      s.modCore c fun e => { e with
        labels := ((x, m, lid.toNat) :: e.labels.filter fun k => k != (x, m, lid.toNat)).take 1024 }
    else s
  | none => s
/-- The same for the labels that lanes of a band name. -/
def State.cacheLanes (s : State) (h : Here) (m : LaneMask) (t : Nat → BitVec 16) : State :=
  (lanesOf m).foldl (fun s l => s.cacheLabel h.core h.ctxId h.crew.task.mod (t l)) s

/-- A control word that moves the lanes of Running: nothing when Running is empty; PAIRMIS, then the control faults, are
raised before any lane moves; `tgt` is what PAIRED compares, whose entries the word reads when `reads` (03_assembly.md
R74), `go` the effect. -/
def State.moveOp (s : State) (g : Guard) (reads : Bool) (tgt : Here → Nat → BitVec 16) (hit : Here → Nat → CtrlHit)
    (go : State → Here → LaneMask → State) : Host.Outcome State Fault Refusal :=
  s.onBand fun h =>
    let m := h.band.guarded g
    if m = 0 then h.retire s h.band
    else match h.pairMiss m (tgt h) with
      | some l => h.hwErr s 3 l m
      | none =>
        let s1 := if reads then s.cacheLanes h m (tgt h) else s
        match ctrlWorst m (hit h) with
        | some (l, x) => h.fault s1 3 (ctrlDetail x.code l x.label) m
        | none => go s1 h m

/-- Lanes of a mask become WANTING `t l`. -/
def Band.wantAll (b : Band) (m : LaneMask) (t : Nat → BitVec 16) : Band :=
  b.mapMask m fun l x => { x with st := .wanting, want := t l }

/-! ### NOP, LBL, GO, GOI (R101 to R104) -/

/-- NOP (R101): no effect; any guard. -/
def execNop (f : FC) (s : State) : Host.Outcome State Fault Refusal :=
  s.laneOp f.g .control fun h _ => h.band

/-- The lanes WANTING a label join the lanes RUNNING (R80). -/
def Band.merge (b : Band) (lid : BitVec 16) : Band :=
  b.mapLanes fun l x => if x.st = .wanting ∧ x.want = lid ∧ b.active l then { x with st := .running } else x

/-- LBL, fallen into (R80, R102): the lanes WANTING its label join; it takes no issue slot and is not counted (R90,
15_traps.md R356). -/
def execLbl (f : FC) (s : State) : Host.Outcome State Fault Refusal :=
  s.onBand fun h => h.put s { h.band.merge f.lid with p := h.band.p + 8 }

/-- GO (R103). -/
def execGo (f : FC) (s : State) : Host.Outcome State Fault Refusal :=
  s.moveOp f.g false (fun _ _ => f.lid) (fun h _ => h.hitLabel f.lid) fun s h m =>
    (h.retire s (h.band.wantAll m fun _ => f.lid)).sample h m .control

/-- The label id a lane's register holds (R104). -/
def Here.laneLabel (h : Here) (va : BitVec 7) (l : Nat) : BitVec 16 := (h.band.v32 l va.toNat).extractLsb' 0 16

/-- GOI (R104). -/
def execGoi (f : FC) (s : State) : Host.Outcome State Fault Refusal :=
  s.moveOp f.g true (fun h l => h.laneLabel f.va l) (fun h l => h.hitLabel (h.laneLabel f.va l)) fun s h m =>
    (h.retire s (h.band.wantAll m fun l => h.laneLabel f.va l)).sample h m .control

/-! ### Calls and return stacks (R91 to R93, R105, R106) -/

/-- A spill of entry `e` of a lane's call area; the error carries the MEM sub-cause. -/
def State.spill (s : State) (h : Here) (l e : Nat) (x : BitVec 16) : Res Bool :=
  if h.ctx.pvsize.toNat < 2 * e + 2 then .bad 3
  else match s.iaWrite (some h.core) (some h.slot) (h.privIa l (2 * e)) (toBytes 2 x.toNat) 0 with
    | .ok s1 _ => .ok s1 false
    | .bad b => .bad b
    | .hold => .hold

/-- A fill of entry `e`: the label, and whether it is poisoned. -/
def State.fill (s : State) (h : Here) (l e : Nat) : Res (BitVec 16 × Bool) :=
  if h.ctx.pvsize.toNat < 2 * e + 2 then .bad 3
  else match s.iaRead (some h.core) (h.privIa l (2 * e)) 2 0 0 with
    | .ok s1 (d, p) => .ok s1 (BitVec.ofNat 16 (ofBytes d), p)
    | .bad b => .bad b
    | .hold => .hold

/-- How the stack accesses of a CALL or RET ended: done, with the band they left; a fault of a lane; poison; not yet. -/
inductive Stacked where
  | ok (s : State) (b : Band)
  | bad (lane entry sub : Nat)
  | poisoned (ia : Nat)
  | hold

/-- Push of R92 in each lane of a list. -/
def State.pushAll (s : State) (h : Here) (b : Band) (x : BitVec 16) : List Nat → Stacked
  | [] => .ok s b
  | l :: t =>
    let n := (b.lane l).depth.toNat
    let b1 := b.mapMask (1#32 <<< l) fun _ y => { y with depth := y.depth + 1, top := (x :: y.top).take 4 }
    if n < 4 then State.pushAll s h b1 x t
    else match s.spill h l (n - 4) ((b.lane l).top.getD 3 0) with
      | .ok s1 _ => State.pushAll s1 h b1 x t
      | .bad e => .bad l (2 * (n - 4)) e
      | .hold => .hold

/-- Pop of R92 in each lane of a list. -/
def State.popAll (s : State) (h : Here) (b : Band) : List Nat → Stacked
  | [] => .ok s b
  | l :: t =>
    let n := (b.lane l).depth.toNat - 1
    let x := (b.lane l).top.headD 0
    let pop := fun (more : List (BitVec 16)) =>
      b.mapMask (1#32 <<< l) fun _ y => { y with
        st := .wanting, want := x, depth := y.depth - 1, top := y.top.drop 1 ++ more }
    if n < 4 then State.popAll s h (pop []) t
    else match s.fill h l (n - 4) with
      | .ok _ (_, true) => .poisoned (h.privIa l (2 * (n - 4)))
      | .ok s1 (y, false) => State.popAll s1 h (pop [y]) t
      | .bad e => .bad l (2 * (n - 4)) e
      | .hold => .hold

/-- A stack access that meets NOPAGE at a leaf without DSVC is also logged for the host, in the layout of its trap
(15_traps.md R366; DEDUCED, assumption log entry 65). -/
def State.stackLog (s : State) (h : Here) (l e sub : Nat) : State :=
  if sub = 5 && !s.serviced (h.privIa l e) then s.logEvent h 4 (memDetail sub l true false e) h.band.p else s

/-- Ends a CALL or RET: a faulting spill or fill stops the band before any lane moves (R92); poison kills it
(15_traps.md R368); a refused access leaves the word unissued. The word is sampled as a control word (15_traps.md
R370). -/
def Here.stacked (h : Here) (s : State) (m : LaneMask) : Stacked → State
  | .ok s1 b => (h.retire s1 b).sample h m .control
  | .bad l e sub => h.fault (s.stackLog h l e sub) 4 (memDetail sub l true false e) m
  | .poisoned ia => s.killPoison h (s.iaUnit h.core ia) ia
  | .hold => s

/-- What a lane of CALL and CALLI meets (R105). -/
def Here.hitCall (h : Here) (t ret : BitVec 16) (l : Nat) : CtrlHit :=
  let a := h.hitLabel t
  let b := h.hitLabel ret
  let full : CtrlHit := ⟨if h.band.cstk.toNat / 2 < (h.band.lane l).depth.toNat + 1 then 5 else 0, t⟩
  (a.min b).min full

/-- The moves of CALL and CALLI: push, then WANT the target (R105). -/
def Here.callMove (h : Here) (s : State) (m : LaneMask) (ret : BitVec 16) (t : Nat → BitVec 16) : State :=
  if s.privBusy h && (lanesOf m).any fun l => decide (4 ≤ (h.band.lane l).depth.toNat) then s
  else h.stacked s m (s.pushAll h (h.band.wantAll m t) ret (lanesOf m))

/-- CALL (R105). -/
def execCall (f : FC) (s : State) : Host.Outcome State Fault Refusal :=
  s.moveOp f.g false (fun _ _ => f.lid) (fun h l => h.hitCall f.lid f.lid2 l) fun s h m =>
    h.callMove s m f.lid2 fun _ => f.lid

/-- CALLI (R105). -/
def execCalli (f : FC) (s : State) : Host.Outcome State Fault Refusal :=
  s.moveOp f.g true (fun h l => h.laneLabel f.va l) (fun h l => h.hitCall (h.laneLabel f.va l) f.lid2 l) fun s h m =>
    h.callMove s m f.lid2 fun l => h.laneLabel f.va l

/-- What a lane of RET meets (R106). -/
def Here.hitRet (h : Here) (l : Nat) : CtrlHit :=
  if (h.band.lane l).depth = 0 then ⟨6, 0xFFFF⟩ else h.hitLabel ((h.band.lane l).top.headD 0)

/-- RET (R106). -/
def execRet (f : FC) (s : State) : Host.Outcome State Fault Refusal :=
  s.moveOp f.g false (fun h l => (h.band.lane l).top.headD 0) (fun h l => h.hitRet l) fun s h m =>
    if s.privBusy h && (lanesOf m).any fun l => decide (5 ≤ (h.band.lane l).depth.toNat) then s
    else h.stacked s m (s.popAll h h.band (lanesOf m))

/-! ### EXIT, YIELD, LBLID, SWCNT, CENS (R107 to R110) -/

/-- Whether a band at TL = 1 has no handler lane left (15_traps.md R360). -/
def Band.handlerGone (b : Band) : Bool := b.tl && (lanesOf b.handler).all fun l => (b.lane l).st == .exited

/-- EXIT (R107); at TL = 1 the last handler lane's exit ends the band as BKILL with code 0 would (15_traps.md R360). -/
def execExit (f : FC) (s : State) : Host.Outcome State Fault Refusal :=
  s.onBand fun h =>
    let m := h.band.guarded f.g
    let b := h.band.mapMask m fun _ x => { x with st := .exited, depth := 0, top := [] }
    if b.handlerGone then s.kill h 7 0 0
    else (h.retire s b).sample h m .control

/-- A band-level control word that executes: it retires, and is sampled (15_traps.md R370). -/
def Here.control (h : Here) (s : State) (b : Band) : State := (h.retire s b).sample h h.band.running .control

/-- YIELD (R108): sets YLD when its guard holds in Leader; its moment is what R108's bound counts from. -/
def execYieldBand (f : FC) (s : State) : Host.Outcome State Fault Refusal :=
  s.bandOp f.g fun h => (h.control s h.band).modBand h.core h.slot fun b =>
    { b with yld := true, yldCycle := s.cycle, yldMark := (s.coreAt h.core).retires }

/-- LBLID (R109): a label id as data, in a vector register (TY2 0) or a scalar register (TY2 1). -/
def execLblid (f : FI) (s : State) : Host.Outcome State Fault Refusal :=
  if f.ty2 = 0 then
    s.laneOp f.g .control fun h m => h.band.setV f.vd.toNat m fun _ => (f.imm.extractLsb' 0 16).setWidth 32
  else
    s.bandOp f.g fun h => h.control s (h.band.setS f.vd.toNat ((f.imm.extractLsb' 0 16).setWidth 64))

/-- SWCNT (R110). -/
def execSwcnt (f : FS) (s : State) : Host.Outcome State Fault Refusal :=
  s.bandOp f.g fun h => h.control s (h.band.setS f.sd.toNat (h.band.scnt.setWidth 64))

/-- The wanted labels of the census with their offsets (R76). -/
def Here.census (h : Here) : List (BitVec 16 × Nat) :=
  (((lanesOf h.band.wanting).map fun l => (h.band.lane l).want).eraseDups).filterMap fun x =>
    (h.label x).map fun e => (x, e.offset)

/-- The entry of least offset; of two labels with one offset, that of the lower lane (DESIGN CHOICE, assumption log entry
75). -/
def leastLabel : List (BitVec 16 × Nat) → Option (BitVec 16 × Nat)
  | [] => none
  | a :: t => match leastLabel t with
    | none => some a
    | some b => if b.2 < a.2 then some b else some a

/-- The label R82 chooses from P, with its offset, and whether choosing it wraps. -/
def Here.nextLabel (h : Here) : Option ((BitVec 16 × Nat) × Bool) :=
  match leastLabel (h.census.filter fun e => decide (h.band.p.toInt < (e.2 : Int))) with
  | some e => some (e, false)
  | none => (leastLabel h.census).map (·, true)

/-- CENS (R110): WMASK, NLBL, NBLK and NEXT. In a handler all four count the handler lanes, as the census does (R98);
that WMASK and NBLK do is DEDUCED (assumption log entry 75). -/
def execCens (f : FS) (s : State) : Host.Outcome State Fault Refusal :=
  s.bandOp f.g fun h =>
    let next : BitVec 16 := match h.nextLabel with | some (e, _) => e.1 | none => 0xFFFF
    let nlbl := (((lanesOf h.band.wanting).map fun l => (h.band.lane l).want).eraseDups).length
    h.control s (h.band.setS f.sd.toNat (BitVec.ofNat 64
      (h.band.wanting.toNat + nlbl * 2 ^ 32 + laneCount h.band.blocked * 2 ^ 40 + next.toNat * 2 ^ 48)))

/-! ### SKIP (R82, R83) and the label cache (03_assembly.md R74) -/

/-- A fetch fault that is not serviced: a precise MEM trap with FETCH = 1 at offset `p`, on the lanes that would have
executed the word (15_traps.md R365). -/
def State.fetchTrap (s : State) (h : Here) (b : Band) (p sub : Nat) (lanes : LaneMask) : State :=
  s.trap h b 4 (memDetail sub (lowest lanes) false true p) lanes

/-- The lanes WANTING a label. -/
def Band.wantingOf (b : Band) (lid : BitVec 16) : LaneMask :=
  maskOf fun l => (b.lane l).st == .wanting && (b.lane l).want == lid && b.active l

/-- The band waits while the page of a fetch is serviced; for a page of host memory the memory side asks the host for it
(15_traps.md R365, 20_host.md R403). -/
def State.park (s : State) (h : Here) (ia : Nat) : State :=
  (if s.hostPage ia then s.send (.pageRequest h.ctx.fn ia) else s).setBand h.core h.slot
    { h.band with park := some (localPart ia / 65536) }

/-- A fetch at offset `p` that was not served: the band parks while the page is serviced, but at TL = 1, where every fetch
fault is a double fault, traps (15_traps.md R365); a line that another core holds pinned is waited for (08_memory.md
R198). -/
def State.fetchHeld (s : State) (h : Here) (b : Band) (p : Nat) (lanes : LaneMask) : State :=
  match h.codeIa p with
  | some ia =>
    if !s.parks ia then s
    else if h.band.tl then s.fetchTrap h { b with park := none } p 5 lanes
    else s.park h ia
  | none => s

/-- SKIP: with no lane RUNNING, the sequencer goes to the next wanted label, counts a wrap, and checks the word it lands
on: an LBL of the label lets its lanes in, and is then checked as any word (R83, 02_formats.md R42); any other word is
BADLBL. A sleeping band and one whose lanes are all EXITED stay. -/
def execSkip (s : State) : Host.Outcome State Fault Refusal :=
  s.onBand fun h =>
    if h.band.running ≠ 0 then s
    else match h.nextLabel with
      | none => s
      | some ((lid, off), wrap) =>
        let b := { h.band with p := BitVec.ofNat 64 off, scnt := if wrap then h.band.scnt + 1 else h.band.scnt }
        let lanes := h.band.wantingOf lid
        let s1 := s.cacheLabel h.core h.ctxId h.crew.task.mod lid
        match s1.fetchWord h off with
        | .hold => s.fetchHeld h b off lanes
        | .bad sub => s1.fetchTrap h b off sub lanes
        | .ok s2 (_, true) => let ia := (h.codeIa off).getD 0
          s2.killPoison { h with band := b } (s2.iaUnit h.core ia) ia
        | .ok s2 (w, false) =>
          if w.extractLsb' 0 8 = 1 ∧ w.extractLsb' 16 16 = lid then
            match decode w with
            | .ok _ => h.put s2 { b.merge lid with p := b.p + 8 }
            | .error _ => s2.kill { h with band := b } 1 0 0
          else s2.trap h b 3 (ctrlDetail 3 (lowest lanes) lid) lanes

/-- LABEL_CACHE_FILL: a miss has read its entry; an id that has no entry never fills the cache (03_assembly.md R74). -/
def execLabelCacheFill (core ctx handle lid : Nat) (s : State) : Host.Outcome State Fault Refusal :=
  .next (if lid < 2 ^ 16 then s.cacheLabel core ctx handle (BitVec.ofNat 16 lid) else s)

end Sys2Proof.Machine
end

