-- ==== Sys2Proof/Machine/Operands.lean ====
section
/-! DEFINITION. Operand forms of the lane and scalar instructions: elements by TY (05_integer.md R114), operand B by BK
(02_formats.md R34), operand B of the scalar instructions (R137), and the write of lane results (R116). -/

namespace Sys2Proof.Machine

/-! ### Elements (R114) -/

/-- Width of an element of an integer TY. -/
def tyWidth (ty : Nat) : Nat := if ty ≤ 1 then 32 else if ty ≤ 3 then 16 else if ty ≤ 5 then 8 else 64
/-- Elements of an integer TY. -/
def tyCount (ty : Nat) : Nat := if ty ≤ 1 then 1 else if ty ≤ 3 then 2 else if ty ≤ 5 then 4 else 1
/-- Whether an integer TY reads its elements signed. -/
def tySigned (ty : Nat) : Bool := ty % 2 == 0
/-- Whether operands of a TY are register pairs. -/
def tyPair (ty : Nat) : Bool := ty == 6 || ty == 7

/-- Element `e` of width `w` of a value, unsigned. -/
def elemOf (w e : Nat) (x : DWord) : Nat := x.toNat / 2 ^ (w * e) % 2 ^ w
/-- A `w`-bit value read signed. -/
def signedOf (w n : Nat) : Int := if n % 2 ^ w < 2 ^ (w - 1) then (n % 2 ^ w : Nat) else ((n % 2 ^ w : Nat) : Int) - 2 ^ w
/-- Element `e` read as the TY kind reads it. -/
def elemVal (ty e : Nat) (x : DWord) : Int :=
  if tySigned ty then signedOf (tyWidth ty) (elemOf (tyWidth ty) e x) else (elemOf (tyWidth ty) e x : Nat)
/-- A value from elements of width `w`, element 0 first. -/
def ofElems (w : Nat) : List Nat → Nat
  | [] => 0
  | a :: t => a % 2 ^ w + 2 ^ w * ofElems w t

/-! ### Operands of F-V -/

/-- A source register of an instruction at TY: the pair for I64 and N64, else the 32-bit register. -/
def Band.srcV (b : Band) (ty l n : Nat) : DWord := if tyPair ty then b.v64 l n else (b.v32 l n).setWidth 64

/-- An immediate of 7 bits, sign-extended to the element width and placed in every element (R34). -/
def immElems (w : Nat) (x : BitVec 7) : DWord :=
  if w = 64 then x.signExtend 64
  else BitVec.ofNat 64 (ofElems w (List.replicate (32 / w) (x.signExtend w).toNat))

/-- Operand B of an integer instruction at TY (R34): a vector register, a scalar, or an immediate. -/
def Band.srcB (b : Band) (f : FV) (ty l : Nat) : DWord :=
  if f.bk = 0 then b.srcV ty l f.vb.toNat
  else if f.bk = 1 then
    (if tyPair ty then b.sreg f.vb.toNat else ((b.sreg f.vb.toNat).extractLsb' 0 32).setWidth 64)
  else immElems (tyWidth ty) f.vb

/-- Operand B as one 32-bit value under every TY (05_integer.md R120, R125, R128, R131). -/
def Band.srcB32 (b : Band) (f : FV) (l : Nat) : Word :=
  if f.bk = 0 then b.v32 l f.vb.toNat
  else if f.bk = 1 then (b.sreg f.vb.toNat).extractLsb' 0 32
  else f.vb.signExtend 32

/-! ### Results -/

/-- Writes a value of TY to register `n` of the lanes of a mask. -/
def Band.putTy (b : Band) (ty n : Nat) (m : LaneMask) (r : Nat → DWord) : Band :=
  if tyPair ty then b.setV64 n m r else b.setV n m fun l => (r l).extractLsb' 0 32

/-- The flags any lane of a mask raises (07_numbers.md R154). -/
def flagsOver (m : LaneMask) (f : Nat → BitVec 9) : BitVec 9 := (lanesOf m).foldl (fun a l => a ||| f l) 0

/-- Writes lane results and raises their flags. -/
def Band.putRes (b : Band) (ty n : Nat) (m : LaneMask) (r : Nat → DWord × BitVec 9) : Band :=
  (b.putTy ty n m fun l => (r l).1).raise (flagsOver m fun l => (r l).2)

/-- Applies a function to every element: the value of the results, and the flags any of them raised. -/
def perElem (ty : Nat) (f : Nat → Nat × BitVec 9) : DWord × BitVec 9 :=
  let r := (List.range (tyCount ty)).map f
  (BitVec.ofNat 64 (ofElems (tyWidth ty) (r.map (·.1))), r.foldl (fun a x => a ||| x.2) 0)

/-! ### Operand B of F-S (R137) -/

/-- S[SB], or the sign-extended immediate. -/
def Band.srcS (b : Band) (f : FS) : DWord := if f.im then f.imm.signExtend 64 else b.sreg f.sb.toNat

end Sys2Proof.Machine
end

