-- ==== Sys2Proof/Machine/Flags.lean ====
section
/-! DEFINITION. The sticky flags (07_numbers.md R153), the final rounding of integer results (05_integer.md R115), and
rounding to float kinds (07_numbers.md R149, R150). -/

namespace Sys2Proof.Machine

/-! ### FLAGS (R153) -/

def flNX : BitVec 9 := 1
def flUF : BitVec 9 := 2
def flOF : BitVec 9 := 4
def flDZ : BitVec 9 := 8
def flIV : BitVec 9 := 16
def flIOV : BitVec 9 := 32
def flAX : BitVec 9 := 64
def flAO : BitVec 9 := 128
def flTQ : BitVec 9 := 256

/-- A flag when a condition holds. -/
def flagIf (c : Bool) (f : BitVec 9) : BitVec 9 := if c then f else 0

/-! ### Integer results (05_integer.md R115) -/

/-- The least value of a kind of width `w`. -/
def kindMin (w : Nat) (signed : Bool) : Int := if signed then -(2 ^ (w - 1)) else 0
/-- The greatest value of a kind of width `w`. -/
def kindMax (w : Nat) (signed : Bool) : Int := if signed then 2 ^ (w - 1) - 1 else 2 ^ w - 1
/-- The low `w` bits of an integer. -/
def lowBits (w : Nat) (x : Int) : Nat := (x % 2 ^ w).toNat
/-- Sat: the value clamped to the kind, raising IOV when it clamps. -/
def satTo (w : Nat) (signed : Bool) (x : Int) : Int × BitVec 9 :=
  if x < kindMin w signed then (kindMin w signed, flIOV)
  else if kindMax w signed < x then (kindMax w signed, flIOV)
  else (x, 0)
/-- Fin of R115. -/
def fin (sat : Bool) (w : Nat) (signed : Bool) (x : Int) : Nat × BitVec 9 :=
  if sat then (lowBits w (satTo w signed x).1, (satTo w signed x).2) else (lowBits w x, 0)

end Sys2Proof.Machine
end

