-- ==== Sys2Proof/Machine/Formats.lean ====
section
/-! DEFINITION. Number formats (07_numbers.md R143 to R152): the values codes stand for, as exact numbers, and
RoundToFormat, which every reader and writer of a format shares. -/

namespace Sys2Proof.Machine

/-! ### Kinds -/

/-- A floating-point kind (R145): exponent and mantissa bits, bias, whether the top exponent holds Inf and NaN, the code
of the largest finite value, and the canonical NaN when the kind has one. -/
structure Fmt where
  eb   : Nat
  mb   : Nat
  bias : Nat
  ieee : Bool
  top  : Nat
  nan  : Option Nat
  deriving DecidableEq, Repr

def fmtE4M3 : Fmt := ⟨4, 3, 7, false, 0x7E, some 0x7F⟩
def fmtE5M2 : Fmt := ⟨5, 2, 15, true, 0x7B, some 0x7E⟩
def fmtE2M3 : Fmt := ⟨2, 3, 1, false, 0x1F, none⟩
def fmtE3M2 : Fmt := ⟨3, 2, 3, false, 0x1F, none⟩
def fmtE2M1 : Fmt := ⟨2, 1, 1, false, 0x7, none⟩
def fmtBF16 : Fmt := ⟨8, 7, 127, true, 0x7F7F, some 0x7FC0⟩
def fmtF16 : Fmt := ⟨5, 10, 15, true, 0x7BFF, some 0x7E00⟩
def fmtF32 : Fmt := ⟨8, 23, 127, true, 0x7F7FFFFF, some 0x7FC00000⟩

/-- What a slot's KIND names (R147): an integer kind of a width and signedness, the ternary kind, a float kind, or
nothing. -/
inductive NumKind where
  | int (w : Nat) (signed : Bool)
  | ternary
  | flt (f : Fmt)
  | unbound
  deriving DecidableEq, Repr

/-- The kind of a KIND code with its WIDTH (R147). -/
def kindOf (kind width : Nat) : NumKind :=
  if kind = 1 then .int 16 true else if kind = 2 then .int 8 true else if kind = 3 then .int 4 true
  else if kind = 4 then .int 2 true else if kind = 5 then .ternary else if kind = 6 then .flt fmtE4M3
  else if kind = 7 then .flt fmtE5M2 else if kind = 8 then .flt fmtE2M3 else if kind = 9 then .flt fmtE3M2
  else if kind = 0xA then .flt fmtE2M1 else if kind = 0xB then .flt fmtBF16 else if kind = 0xC then .flt fmtF16
  else if kind = 0xD then .flt fmtF32 else if kind = 0xE then .int (width + 1) false else .unbound

/-! ### Format slots (R147, R148) -/

def slotKindCode (d : Word) : Nat := (d.extractLsb' 0 4).toNat
def slotKind (d : Word) : NumKind := kindOf (slotKindCode d) (d.extractLsb' 4 4).toNat
/-- Elements per scale; 0 without scales. -/
def slotBlk (d : Word) : Nat :=
  let b := (d.extractLsb' 8 2).toNat
  if b = 0 then 0 else 8 * 2 ^ b
def slotScl (d : Word) : Bool := d.getLsbD 10
def slotSat (d : Word) : Bool := d.getLsbD 11
def slotRm (d : Word) : Nat := (d.extractLsb' 12 2).toNat
/-- The descriptor of slot `n` of a band. -/
def Band.slotDesc (b : Band) (n : Nat) : Word := b.fs.getD n 0
/-- The rules of R148. -/
def slotValid (d : Word) : Bool :=
  d == 0 ||
  (decide (1 ≤ slotKindCode d) && decide (slotKindCode d ≤ 0xE)
    && (slotKindCode d == 0xE || d.extractLsb' 4 4 == 0)
    && (decide (slotKindCode d < 0xB) || slotKindCode d == 0xE || d.extractLsb' 8 2 == 0)
    && (!slotScl d || d.extractLsb' 8 2 != 0)
    && d.extractLsb' 14 18 == 0)
/-- Bits one element takes in memory or in a register (R143, R144, R145, R170). -/
def slotBits (d : Word) : Nat :=
  match slotKind d with
  | .int w signed => if signed then w else if w ≤ 8 then 8 else 16
  | .ternary => 8
  | .flt f => if f.eb + f.mb + 1 = 6 then 8 else f.eb + f.mb + 1
  | .unbound => 0

/-! ### Values -/

/-- An exact value: NaN, an infinity, or (−1)^neg × num / den × 2^e. -/
inductive FNum where
  | nan (signalling : Bool)
  | inf (neg : Bool)
  | fin (neg : Bool) (num den : Nat) (e : Int)
  deriving DecidableEq, Repr

/-- Times a power of two. -/
def FNum.scale (k : Int) : FNum → FNum
  | .fin n a d e => .fin n a d (e + k)
  | x => x
def FNum.isNan : FNum → Bool
  | .nan _ => true
  | _ => false
def FNum.isSnan : FNum → Bool
  | .nan s => s
  | _ => false
def FNum.isZero : FNum → Bool
  | .fin _ a _ _ => a == 0
  | _ => false
def FNum.neg? : FNum → Bool
  | .nan _ => false
  | .inf n => n
  | .fin n _ _ _ => n
/-- An integer times a power of two, as a value. -/
def FNum.ofInt (x : Int) (e : Int) : FNum := .fin (decide (x < 0)) x.natAbs 1 e
/-- The numerator with its sign; only for values of denominator 1. -/
def FNum.signed (neg : Bool) (a : Nat) : Int := if neg then -(a : Int) else a

/-- The value of a float code (R145); `ftz` reads a subnormal as a zero of its sign (R162). -/
def Fmt.decode (f : Fmt) (ftz : Bool) (code : Nat) : FNum :=
  let c := code % 2 ^ (f.eb + f.mb + 1)
  let neg := c / 2 ^ (f.eb + f.mb) == 1
  let ex := c / 2 ^ f.mb % 2 ^ f.eb
  let m := c % 2 ^ f.mb
  if f.ieee && ex == 2 ^ f.eb - 1 then
    if m = 0 then .inf neg else .nan (m / 2 ^ (f.mb - 1) == 0)
  else if !f.ieee && f.nan == some (c % 2 ^ (f.eb + f.mb)) then .nan false
  else if ex = 0 then .fin neg (if ftz then 0 else m) 1 (1 - (f.bias : Int) - f.mb)
  else .fin neg (2 ^ f.mb + m) 1 ((ex : Int) - f.bias - f.mb)

/-- The value of a code of a kind; an invalid T byte is 0 (R171). -/
def NumKind.value (k : NumKind) (code : Nat) : FNum :=
  match k with
  | .int w signed => .ofInt (if signed then signedOf w code else (code % 2 ^ w : Nat)) 0
  | .ternary => if code % 256 = 0xFF then .ofInt (-1) 0 else if code % 256 = 1 then .ofInt 1 0 else .ofInt 0 0
  | .flt f => f.decode false code
  | .unbound => .nan false

/-! ### Rounding (R149) -/

/-- num / den × 2^(e − q), as a numerator and a denominator. -/
def atQuantum (num den : Nat) (e q : Int) : Nat × Nat :=
  if q ≤ e then (num * 2 ^ (e - q).toNat, den) else (num, den * 2 ^ (q - e).toNat)

/-- A magnitude n / d rounded to an integer by a mode (0 RNE, 1 RZ, 2 RD, 3 RU), and whether it was inexact. -/
def roundMag (rm : Nat) (neg : Bool) (n d : Nat) : Nat × Bool :=
  let q := n / d
  let r := n % d
  if r = 0 then (q, false)
  else
    let up := if rm = 0 then decide (d < 2 * r) || (2 * r == d && q % 2 == 1)
      else if rm = 1 then false else if rm = 2 then neg else !neg
    (if up then q + 1 else q, true)

/-- The exponent of the leading bit of num / den × 2^e, for num ≠ 0. -/
def leadExp (num den : Nat) (e : Int) : Int :=
  let l : Int := (Nat.log2 num : Int) - Nat.log2 den
  let x := atQuantum num den 0 l
  (if x.2 ≤ x.1 then l else l - 1) + e

/-- A finite value rounded to an integer by a mode, and whether it was inexact. -/
def roundInt (rm : Nat) (neg : Bool) (num den : Nat) (e : Int) : Int × Bool :=
  let x := atQuantum num den e 0
  let r := roundMag rm neg x.1 x.2
  (FNum.signed neg r.1, r.2)

/-- The sign bit of a code. -/
def Fmt.signBit (f : Fmt) (neg : Bool) : Nat := if neg then 2 ^ (f.eb + f.mb) else 0
/-- The code of Inf, for the kinds that have it. -/
def Fmt.infCode (f : Fmt) : Nat := (2 ^ f.eb - 1) * 2 ^ f.mb
/-- The canonical NaN (R150, R151), or 0 in a kind without one. -/
def Fmt.nanCode (f : Fmt) : Nat := f.nan.getD 0

/-- What an overflow leaves, without its sign (R149, R150). -/
def Fmt.overflowCode (f : Fmt) (rm : Nat) (sat neg : Bool) : Nat :=
  if f.ieee then
    if sat || rm == 1 || (rm == 2 && !neg) || (rm == 3 && neg) then f.top else f.infCode
  else if sat || f.nan.isNone then f.top
  else f.nanCode

/-- Tininess after rounding (R149): the value rounded to the kind's precision with any exponent lies below the smallest
normal. -/
def Fmt.tiny (f : Fmt) (rm : Nat) (neg : Bool) (num den : Nat) (e : Int) : Bool :=
  let l := leadExp num den e
  if 1 - (f.bias : Int) ≤ l then false
  else if l < -(f.bias : Int) then true
  else
    let x := atQuantum num den e (l - f.mb)
    (roundMag rm neg x.1 x.2).1 != 2 ^ (f.mb + 1)

/-- A nonzero finite value rounded into a float kind. -/
def Fmt.roundFin (f : Fmt) (rm : Nat) (sat ftz neg : Bool) (num den : Nat) (e : Int) : Nat × BitVec 9 :=
  let least : Int := 1 - (f.bias : Int) - f.mb
  let q := max (leadExp num den e - f.mb) least
  let x := atQuantum num den e q
  let r := roundMag rm neg x.1 x.2
  let code := (q - least).toNat * 2 ^ f.mb + r.1
  let s := f.signBit neg
  if f.top < code then (s + f.overflowCode rm sat neg, flOF ||| flNX)
  else
    let fl := flagIf r.2 flNX ||| flagIf (r.2 && f.tiny rm neg num den e) flUF
    if ftz && code != 0 && decide (code < 2 ^ f.mb) then (s, fl ||| flUF ||| flNX) else (s + code, fl)

/-- RoundToFormat into a float kind (R149 to R152, R162). -/
def Fmt.round (f : Fmt) (rm : Nat) (sat ftz : Bool) : FNum → Nat × BitVec 9
  | .nan s => (f.nanCode, flagIf (s || f.nan.isNone) flIV)
  | .inf neg =>
    if f.ieee then (f.signBit neg + f.infCode, 0)
    else if sat || f.nan.isNone then (f.signBit neg + f.top, flIV)
    else (f.nanCode, flIV)
  | .fin neg num den e => if num = 0 then (f.signBit neg, 0) else f.roundFin rm sat ftz neg num den e

/-- RoundToFormat into an integer kind of R150: the value, with its flags. -/
def roundToInt (w : Nat) (sat : Bool) (lo hi : Int) (rm : Nat) : FNum → Nat × BitVec 9
  | .nan _ => (0, flIV)
  | .inf neg => (lowBits w (if neg then lo else hi), flIV)
  | .fin neg num den e =>
    let r := roundInt rm neg num den e
    let fl := flagIf r.2 flNX
    if r.1 < lo || hi < r.1 then
      if sat then (lowBits w (if r.1 < lo then lo else hi), fl ||| flIOV)
      else (lowBits w r.1, fl)
    else (lowBits w r.1, fl)

/-- RoundToFormat (R150) into a kind. -/
def NumKind.round (k : NumKind) (rm : Nat) (sat : Bool) (x : FNum) : Nat × BitVec 9 :=
  match k with
  | .int w signed => roundToInt w sat (kindMin w signed) (kindMax w signed) rm x
  | .ternary => roundToInt 8 true (-1) 1 rm x
  | .flt f => f.round rm sat false x
  | .unbound => (0, 0)

/-! ### T5 bytes (R144) -/

/-- Digit `i` of a T5 byte as a trit. -/
def tritOf (byte i : Nat) : Int :=
  let d := byte / 3 ^ i % 3
  if d = 2 then -1 else d
/-- The five trits of a T5 byte, and whether the byte is invalid, which reads as zero trits. -/
def t5Trits (byte : Nat) : List Int × Bool :=
  if 243 ≤ byte then ([0, 0, 0, 0, 0], true) else ((List.range 5).map (tritOf byte), false)
/-- The T5 byte of up to five trits. -/
def t5Byte : List Int → Nat
  | [] => 0
  | t :: r => (if 0 < t then 1 else if t < 0 then 2 else 0) + 3 * t5Byte r

end Sys2Proof.Machine
end

