-- ==== Sys2Proof/Machine/Float.lean ====
section
/-! DEFINITION. The float lane instructions 0x30 to 0x39 (07_numbers.md R160 to R168). -/

namespace Sys2Proof.Machine

/-! ### Elements of the float kinds (R162) -/

/-- The format of a float TY. -/
def tyFmt (ty : Nat) : Fmt := if ty = 8 then fmtF32 else if ty = 9 then fmtBF16 else fmtF16
/-- Element width of any TY. -/
def anyWidth (ty : Nat) : Nat := if ty = 8 then 32 else if ty = 9 ∨ ty = 10 then 16 else tyWidth ty
/-- Elements of any TY. -/
def anyCount (ty : Nat) : Nat := if ty = 8 then 1 else if ty = 9 ∨ ty = 10 then 2 else tyCount ty

/-- RM[1:0]. -/
def rmOf (f : FV) : Nat := f.rm.toNat % 4
/-- RM.FTZ. -/
def ftzOf (f : FV) : Bool := f.rm.getLsbD 3

/-- Operand B of a float instruction (R34): an immediate is converted to each element's format. -/
def Band.srcF (b : Band) (f : FV) (l : Nat) : DWord :=
  if f.bk = 2 then
    let x := ((tyFmt f.ty.toNat).round 0 false false (.ofInt f.vb.toInt 0)).1
    BitVec.ofNat 64 (ofElems (anyWidth f.ty.toNat) (List.replicate (anyCount f.ty.toNat) x))
  else (b.srcB32 f l).setWidth 64

/-- Element `e` of a float operand. -/
def fElem (f : FV) (e : Nat) (x : DWord) : FNum :=
  (tyFmt f.ty.toNat).decode (ftzOf f) (elemOf (anyWidth f.ty.toNat) e x)

/-- Applies a function to every element of a float kind. -/
def perFloat (ty : Nat) (g : Nat → Nat × BitVec 9) : DWord × BitVec 9 :=
  let r := (List.range (anyCount ty)).map g
  (BitVec.ofNat 64 (ofElems (anyWidth ty) (r.map (·.1))), r.foldl (fun a x => a ||| x.2) 0)

/-- IV when any operand is a signalling NaN (R151). -/
def snanFlag (l : List FNum) : BitVec 9 := flagIf (l.any FNum.isSnan) flIV

/-- A float instruction: the exact result of each element, rounded once (R162). -/
def Band.fltOp (b : Band) (f : FV) (m : LaneMask) (op : FNum → FNum → FNum → FNum × BitVec 9) : Band :=
  let ty := f.ty.toNat
  b.putRes 0 f.vd.toNat m fun l => perFloat ty fun e =>
    let r := op (fElem f e (b.srcV ty l f.va.toNat)) (fElem f e (b.srcF f l)) (fElem f e (b.srcV ty l f.vc.toNat))
    let q := (tyFmt ty).round (rmOf f) false (ftzOf f) r.1
    (q.1, r.2 ||| q.2)

/-! ### Exact results (R163, R151, R152) -/

/-- a + b. -/
def addNum (rm : Nat) (a b : FNum) : FNum × BitVec 9 :=
  match a, b with
  | .fin na xa da ea, .fin nb xb db eb =>
    let q := min ea eb
    let t := FNum.signed na (xa * db * 2 ^ (ea - q).toNat) + FNum.signed nb (xb * da * 2 ^ (eb - q).toNat)
    if t = 0 then (.fin (if na == nb then na else rm == 2) 0 1 0, 0)
    else (.fin (decide (t < 0)) t.natAbs (da * db) q, 0)
  | .inf na, .inf nb => if na == nb then (.inf na, 0) else (.nan false, flIV)
  | .inf na, .fin _ _ _ _ => (.inf na, 0)
  | .fin _ _ _ _, .inf nb => (.inf nb, 0)
  | a, b => (.nan false, snanFlag [a, b])

/-- a × b. -/
def mulNum (a b : FNum) : FNum × BitVec 9 :=
  match a, b with
  | .fin na xa da ea, .fin nb xb db eb => (.fin (na != nb) (xa * xb) (da * db) (ea + eb), 0)
  | .inf na, .inf nb => (.inf (na != nb), 0)
  | .inf na, .fin nb xb _ _ => if xb = 0 then (.nan false, flIV) else (.inf (na != nb), 0)
  | .fin na xa _ _, .inf nb => if xa = 0 then (.nan false, flIV) else (.inf (na != nb), 0)
  | a, b => (.nan false, snanFlag [a, b])

/-- a × b + c, unrounded: 0 × Inf is invalid whatever c holds. -/
def fmaNum (rm : Nat) (a b c : FNum) : FNum × BitVec 9 :=
  let p := mulNum a b
  let r := addNum rm p.1 c
  (r.1, p.2 ||| r.2)

/-- a / b. -/
def divNum (a b : FNum) : FNum × BitVec 9 :=
  match a, b with
  | .fin na xa da ea, .fin nb xb db eb =>
    if xb = 0 then (if xa = 0 then (.nan false, flIV) else (.inf (na != nb), flDZ))
    else (.fin (na != nb) (xa * db) (da * xb) (ea - eb), 0)
  | .inf _, .inf _ => (.nan false, flIV)
  | .inf na, .fin nb _ _ _ => (.inf (na != nb), 0)
  | .fin na _ _ _, .inf nb => (.fin (na != nb) 0 1 0, 0)
  | a, b => (.nan false, snanFlag [a, b])

/-- FADD (R163). -/
def execFadd (f : FV) (s : State) : Host.Outcome State Fault Refusal :=
  s.laneOp f.g .clone fun h m => h.band.fltOp f m fun a b _ => addNum (rmOf f) a b
/-- FMUL (R163). -/
def execFmul (f : FV) (s : State) : Host.Outcome State Fault Refusal :=
  s.laneOp f.g .clone fun h m => h.band.fltOp f m fun a b _ => mulNum a b
/-- FFMA (R163). -/
def execFfma (f : FV) (s : State) : Host.Outcome State Fault Refusal :=
  s.laneOp f.g .clone fun h m => h.band.fltOp f m fun a b c => fmaNum (rmOf f) a b c
/-- FDIV (R163). -/
def execFdiv (f : FV) (s : State) : Host.Outcome State Fault Refusal :=
  s.laneOp f.g .clone fun h m => h.band.fltOp f m fun a b _ => divNum a b

/-! ### Comparison (R164, R165) -/

/-- a < b of two values that are no NaN; the zeros are equal. -/
def numLt (a b : FNum) : Bool :=
  match a, b with
  | .fin na xa da ea, .fin nb xb db eb =>
    let q := min ea eb
    decide (FNum.signed na (xa * db * 2 ^ (ea - q).toNat) < FNum.signed nb (xb * da * 2 ^ (eb - q).toNat))
  | .inf na, .inf nb => na && !nb
  | .inf na, .fin _ _ _ _ => na
  | .fin _ _ _ _, .inf nb => !nb
  | _, _ => false

/-- minimumNumber and maximumNumber (R164): a NaN yields the other operand, −0 is less than +0. -/
def pickNum (most : Bool) (a b : FNum) : FNum × BitVec 9 :=
  let fl := snanFlag [a, b]
  if a.isNan && b.isNan then (.nan false, fl)
  else if a.isNan then (b, fl)
  else if b.isNan then (a, fl)
  else
    let less := numLt a b || (!numLt b a && a.neg? && !b.neg?)
    (if less != most then a else b, fl)

/-- FMIN (R164). -/
def execFmin (f : FV) (s : State) : Host.Outcome State Fault Refusal :=
  s.laneOp f.g .clone fun h m => h.band.fltOp f m fun a b _ => pickNum false a b
/-- FMAX (R164). -/
def execFmax (f : FV) (s : State) : Host.Outcome State Fault Refusal :=
  s.laneOp f.g .clone fun h m => h.band.fltOp f m fun a b _ => pickNum true a b

/-- The comparisons of FCMP with their flag (R165): 0 EQ, 1 NE, 2 LT, 3 LE, 4 GT, 5 GE, 6 UN, 7 OR. -/
def cmpNum (c : Nat) (a b : FNum) : Bool × BitVec 9 :=
  if a.isNan || b.isNan then
    (c == 1 || c == 6, if 2 ≤ c ∧ c ≤ 5 then flIV else snanFlag [a, b])
  else
    let lt := numLt a b
    let gt := numLt b a
    (if c = 0 then !lt && !gt else if c = 1 then lt || gt else if c = 2 then lt else if c = 3 then !gt
      else if c = 4 then gt else if c = 5 then !lt else c == 7, 0)

/-- FCMP (R165): the predicate is the AND of the element results. -/
def execFcmp (f : FV) (s : State) : Host.Outcome State Fault Refusal :=
  let ty := f.ty.toNat
  s.laneOp f.g .clone fun h m =>
    let r := fun l => (List.range (anyCount ty)).map fun e =>
      cmpNum f.sub.toNat (fElem f e (h.band.srcV ty l f.va.toNat)) (fElem f e (h.band.srcF f l))
    (h.band.setPred f.vd.toNat m (maskOf fun l => (r l).all (·.1))).raise
      (flagsOver m fun l => (r l).foldl (fun a x => a ||| x.2) 0)

/-! ### FRND and FCLASS (R166, R167) -/

/-- The integral value by a mode; it never raises NX. -/
def rndNum (rm : Nat) : FNum → FNum × BitVec 9
  | .fin neg num den e => (.fin neg (roundInt rm neg num den e).1.natAbs 1 0, 0)
  | .inf n => (.inf n, 0)
  | .nan s => (.nan false, flagIf s flIV)

/-- FRND (R166). -/
def execFrnd (f : FV) (s : State) : Host.Outcome State Fault Refusal :=
  s.laneOp f.g .clone fun h m => h.band.fltOp f m fun a _ _ => rndNum (rmOf f) a

/-- The class of a code (R167). -/
def classBit (f : Fmt) (code : Nat) : Nat :=
  match f.decode false code with
  | .nan s => if s then 8 else 9
  | .inf n => if n then 0 else 7
  | .fin n a _ _ =>
    if a = 0 then (if n then 3 else 4)
    else if a < 2 ^ f.mb then (if n then 2 else 5)
    else if n then 1 else 6

/-- FCLASS (R167): no flag. -/
def execFclass (f : FV) (s : State) : Host.Outcome State Fault Refusal :=
  let ty := f.ty.toNat
  s.laneOp f.g .clone fun h m => h.band.setV f.vd.toNat m fun l =>
    BitVec.ofNat 32 (ofElems (anyWidth ty) ((List.range (anyCount ty)).map fun e =>
      2 ^ classBit (tyFmt ty) (elemOf (anyWidth ty) e (h.band.srcV ty l f.va.toNat))))

/-! ### FSFU (R168)

The functions are computed to about 90 bits by fixed-point sums; the free value `Config.sfu` is taken wherever it meets
the bound of R168 around that number, and the number itself, rounded, otherwise (DESIGN CHOICE, assumption log entry 20). -/

/-- Fraction bits of the fixed-point numbers. -/
def fxBits : Nat := 128
/-- 1 in fixed point. -/
def fxOne : Int := 2 ^ fxBits
/-- Product of two fixed-point numbers. -/
def fxMul (a b : Int) : Int := a * b / fxOne
/-- ln 2 in fixed point, by the series Σ 1 / (k 2^k), from term `k` up. -/
def ln2Sum : Nat → Int
  | 0 => 0
  | k + 1 => fxOne / ((k + 1 : Nat) * 2 ^ (k + 1)) + ln2Sum k
/-- ln 2. -/
def fxLn2 : Int := ln2Sum 128
/-- arctan (1 / n) in fixed point, to `k` terms. -/
def atanInv (n : Nat) : Nat → Int
  | 0 => 0
  | k + 1 => (if k % 2 = 0 then 1 else -1) * (fxOne / ((2 * k + 1 : Nat) * (n : Int) ^ (2 * k + 1))) + atanInv n k
/-- π = 16 arctan (1/5) − 4 arctan (1/239). -/
def fxPi : Int := 16 * atanInv 5 30 - 4 * atanInv 239 10
/-- Σ t^k / k! from term `k`, the term's value in hand. -/
def expSum (t : Int) : Nat → Nat → Int → Int
  | 0, _, _ => 0
  | n + 1, k, x => x + expSum t n (k + 1) (fxMul x t / (k + 1 : Nat))
/-- e^t for |t| ≤ 1 in fixed point. -/
def fxExp (t : Int) : Int := expSum t 36 0 fxOne
/-- The alternating sum of sine and cosine: each term times −t² / ((k+1)(k+2)). -/
def trigSum (t2 : Int) : Nat → Nat → Int → Int
  | 0, _, _ => 0
  | n + 1, k, x => x + trigSum t2 n (k + 2) (-(fxMul x t2) / ((k + 1) * (k + 2) : Nat))
/-- Bits of log2 of a number in [1, 2): squares, one bit at a time. -/
def logBits : Nat → Int → Int → Int
  | 0, _, acc => acc
  | n + 1, y, acc =>
    let z := fxMul y y
    if 2 * fxOne ≤ z then logBits n (z / 2) (2 * acc + 1) else logBits n z (2 * acc)

/-- A finite value in fixed point, rounded down. -/
def toFx (neg : Bool) (num den : Nat) (e : Int) : Int :=
  let x := atQuantum num den e (-(fxBits : Int))
  FNum.signed neg (x.1 / x.2)

/-- Square root, by bits from `n` down. -/
def sqrtBits (x : Nat) : Nat → Nat → Nat
  | 0, r => r
  | n + 1, r => if (r + 2 ^ n) * (r + 2 ^ n) ≤ x then sqrtBits x n (r + 2 ^ n) else sqrtBits x n r
/-- The square root of num × 2^e as a value exact enough to round: an inexact root carries a last half bit. -/
def sqrtNum (num : Nat) (e : Int) : FNum :=
  let e2 := if e % 2 = 0 then e else e - 1
  let n := (if e % 2 = 0 then num else 2 * num) * 2 ^ 200
  let r := sqrtBits n 128 0
  if r * r = n then .fin false r 1 (e2 / 2 - 100) else .fin false (2 * r + 1) 1 (e2 / 2 - 101)

/-- Whether a finite value `y` lies within 2^b of `v`. -/
def withinOf (y v : FNum) (b : Int) : Bool :=
  match (addNum 0 y (match v with | .fin n a d e => .fin (!n) a d e | x => x)).1 with
  | .fin _ num den e =>
    let x := atQuantum num den e b
    decide (x.1 ≤ x.2)
  | _ => false

/-- One ulp of F32 at a value, as an exponent. -/
def ulpExp : FNum → Int
  | .fin _ num den e => if num = 0 then -149 else max (leadExp num den e - 23) (-149)
  | _ => -149

/-- What R168 asks of a function at one input: the result it fixes, with its flags; or a value and the exponent of the
distance the result may have from it; or a result in [−1, 1]; or, for an input the table leaves out, any value. -/
inductive SfuGoal where
  | exact (x : FNum) (fl : BitVec 9)
  | near (v : FNum) (b : Int)
  | unit
  | any
  deriving DecidableEq, Repr

/-- EX2 of a finite value. -/
def ex2Goal (neg : Bool) (num den : Nat) (e : Int) : SfuGoal :=
  let x := toFx neg num den e
  if 128 * fxOne ≤ x then .exact (.inf false) flOF
  else if x % fxOne = 0 && (roundInt 1 neg num den e).2 == false && decide (-126 * fxOne ≤ x) then
    .exact (.fin false 1 1 (x / fxOne)) 0
  else if x < -200 * fxOne then .near (.fin false 0 1 0) (-149)
  else
    let v : FNum := .fin false (fxExp (fxMul (x % fxOne) fxLn2)).toNat 1 (x / fxOne - fxBits)
    .near v (if x < -126 * fxOne then -149 else ulpExp v + 1)

/-- LG2 of a positive finite value. -/
def lg2Goal (num den : Nat) (e : Int) : SfuGoal :=
  let l := leadExp num den e
  let m := toFx false num den (e - l)
  if m = fxOne && l == 0 then .exact (.fin false 0 1 0) 0
  else
    let f := logBits 60 m 0
    let v : FNum := .ofInt (l * 2 ^ 60 + f) (-60)
    let half := l == -1 || l == 0 || (l == 1 && m == fxOne)
    .near v (if half then -22 else ulpExp v + 1)

/-- SIN and COS of a finite value. -/
def trigGoal (cos neg : Bool) (num den : Nat) (e : Int) : SfuGoal :=
  let t := toFx neg num den e
  if 1024 * fxOne < t || t < -1024 * fxOne then .unit
  else
    let r := (t + fxPi) % (2 * fxPi) - fxPi
    let v := if cos then trigSum (fxMul r r) 40 0 fxOne else trigSum (fxMul r r) 40 1 r
    .near (.ofInt v (-(fxBits : Int))) (-21)

/-- TANH of a finite value: (e^2t − 1) / (e^2t + 1), by e^2t = 2^n e^r. -/
def tanhGoal (neg : Bool) (num den : Nat) (e : Int) : SfuGoal :=
  let t := toFx false num den e
  if 40 * fxOne < t then .near (.ofInt (if neg then -1 else 1) 0) (-21)
  else
    let n := (2 * t) / fxLn2
    let x := fxExp (2 * t - n * fxLn2) * 2 ^ n.toNat
    .near (.fin neg (x - fxOne).toNat (x + fxOne).toNat 0) (-21)

/-- The goal of function `fn` at a value (R168). -/
def sfuGoal (fn : Nat) (x : FNum) : SfuGoal :=
  match x with
  | .nan s => .exact (.nan false) (flagIf s flIV)
  | .inf n =>
    if fn = 0 then .exact (.fin n 0 1 0) 0
    else if fn = 1 then (if n then .exact (.nan false) flIV else .exact (.fin false 0 1 0) 0)
    else if fn = 2 then (if n then .exact (.nan false) flIV else .exact (.inf false) 0)
    else if fn = 3 then (if n then .exact (.fin false 0 1 0) 0 else .exact (.inf false) flOF)
    else if fn = 4 then (if n then .exact (.nan false) flIV else .any)
    else if fn = 7 then .exact (.ofInt (if n then -1 else 1) 0) 0
    else .exact (.nan false) flIV
  | .fin n a d e =>
    if a = 0 then
      if fn ≤ 1 then .exact (.inf n) flDZ
      else if fn = 2 then .exact x 0
      else if fn = 3 then .exact (.ofInt 1 0) 0
      else if fn = 4 then .exact (.inf true) flDZ
      else if fn = 5 ∨ fn = 7 then .exact x 0
      else .near (.ofInt 1 0) (-21)
    else if fn = 0 then
      if !numLt (.fin false 1 1 (-128)) (.fin false a d e) then .exact (.inf n) flOF
      else .near (.fin n d a (-e)) (ulpExp (.fin n d a (-e)))
    else if fn = 1 then
      if n then .exact (.nan false) flIV
      else match sqrtNum a e with
        | .fin _ r _ q => .near (.fin false 1 r (-q)) (ulpExp (.fin false 1 r (-q)))
        | _ => .any
    else if fn = 2 then (if n then .exact (.nan false) flIV else .exact (sqrtNum a e) 0)
    else if fn = 3 then ex2Goal n a d e
    else if fn = 4 then (if n then .exact (.nan false) flIV else lg2Goal a d e)
    else if fn = 7 then tanhGoal n a d e
    else trigGoal (fn == 6) n a d e

/-- The result of a function: fixed by the input bits, within the bounds, with the flags of the table (R168). With FTZ a
subnormal result is a zero of its sign, without a flag. -/
def sfuResult (fn : Nat) (ftz : Bool) (x : Word) : Nat × BitVec 9 :=
  let x0 := if ftz && x.extractLsb' 23 8 == 0 then x &&& 0x80000000#32 else x
  let free := (Config.sfu fn x0).toNat
  let y := fmtF32.decode false free
  let canon := fun (c : Nat) => (fmtF32.round 0 false ftz (fmtF32.decode false c)).1
  match sfuGoal fn (fmtF32.decode ftz x.toNat) with
  | .exact v fl => ((fmtF32.round 0 false ftz v).1, fl)
  | .near v b => if withinOf y v b then (canon free, 0) else ((fmtF32.round 0 false ftz v).1, 0)
  | .unit => if withinOf y (.fin false 0 1 0) 0 then (canon free, 0) else (0, 0)
  | .any => (canon free, 0)

/-- FSFU (R168). -/
def execFsfu (f : FV) (s : State) : Host.Outcome State Fault Refusal :=
  s.laneOp f.g .clone fun h m => h.band.putRes 0 f.vd.toNat m fun l =>
    let r := sfuResult f.sub.toNat (ftzOf f) (h.band.v32 l f.va.toNat)
    (BitVec.ofNat 64 r.1, r.2)

end Sys2Proof.Machine
end

