-- ==== Sys2Proof/Machine/Integer.lean ====
section
/-! DEFINITION. The integer lane instructions 0x10 to 0x2F (05_integer.md R118 to R130). -/

namespace Sys2Proof.Machine

/-- RM.SAT. -/
def satBit (f : FV) : Bool := f.rm.getLsbD 2

/-- An instruction that gives each element Fin of an exact integer of its operands a, b and c (R118). -/
def Band.intOp (b : Band) (f : FV) (m : LaneMask) (op : Int → Int → Int → Int) : Band :=
  let ty := f.ty.toNat
  b.putRes ty f.vd.toNat m fun l => perElem ty fun e =>
    fin (satBit f) (tyWidth ty) (tySigned ty)
      (op (elemVal ty e (b.srcV ty l f.va.toNat)) (elemVal ty e (b.srcB f ty l)) (elemVal ty e (b.srcV ty l f.vc.toNat)))

/-! ### Arithmetic (R118 to R122) -/

/-- IADD (R118). -/
def execIadd (f : FV) (s : State) : Host.Outcome State Fault Refusal :=
  s.laneOp f.g .clone fun h m => h.band.intOp f m fun a b _ => a + b
/-- ISUB (R118). -/
def execIsub (f : FV) (s : State) : Host.Outcome State Fault Refusal :=
  s.laneOp f.g .clone fun h m => h.band.intOp f m fun a b _ => a - b
/-- IMUL (R118). -/
def execImul (f : FV) (s : State) : Host.Outcome State Fault Refusal :=
  s.laneOp f.g .clone fun h m => h.band.intOp f m fun a b _ => a * b
/-- IMAD (R118): the exact sum, one Fin. -/
def execImad (f : FV) (s : State) : Host.Outcome State Fault Refusal :=
  s.laneOp f.g .clone fun h m => h.band.intOp f m fun a b c => a * b + c
/-- IMIN (R118). -/
def execImin (f : FV) (s : State) : Host.Outcome State Fault Refusal :=
  s.laneOp f.g .clone fun h m => h.band.intOp f m fun a b _ => min a b
/-- IMAX (R118). -/
def execImax (f : FV) (s : State) : Host.Outcome State Fault Refusal :=
  s.laneOp f.g .clone fun h m => h.band.intOp f m fun a b _ => max a b
/-- IABS (R118). -/
def execIabs (f : FV) (s : State) : Host.Outcome State Fault Refusal :=
  s.laneOp f.g .clone fun h m => h.band.intOp f m fun a _ _ => if a < 0 then -a else a
/-- INEG (R118). -/
def execIneg (f : FV) (s : State) : Host.Outcome State Fault Refusal :=
  s.laneOp f.g .clone fun h m => h.band.intOp f m fun a _ _ => -a

/-- IMULH (R119): the high half of each exact product. -/
def execImulh (f : FV) (s : State) : Host.Outcome State Fault Refusal :=
  s.laneOp f.g .clone fun h m => h.band.intOp f m fun a b _ => (a * b) / 2 ^ tyWidth f.ty.toNat

/-- IMADW (R120): A and B are 32-bit values; the 64-bit sum wraps. -/
def execImadw (f : FV) (s : State) : Host.Outcome State Fault Refusal :=
  s.laneOp f.g .clone fun h m => h.band.setV64 f.vd.toNat m fun l =>
    BitVec.ofInt 64 ((h.band.v64 l f.vc.toNat).toNat
      + elemVal f.ty.toNat 0 ((h.band.v32 l f.va.toNat).setWidth 64)
        * elemVal f.ty.toNat 0 ((h.band.srcB32 f l).setWidth 64))

/-- ISAD (R121): the sum of absolute differences, into a 32-bit accumulator. -/
def execIsad (f : FV) (s : State) : Host.Outcome State Fault Refusal :=
  let ty := f.ty.toNat
  s.laneOp f.g .clone fun h m => h.band.setV f.vd.toNat m fun l =>
    BitVec.ofNat 32 ((h.band.v32 l f.vc.toNat).toNat + ((List.range (tyCount ty)).map fun e =>
      (elemVal ty e (h.band.srcV ty l f.va.toNat) - elemVal ty e (h.band.srcB f ty l)).natAbs).sum)

/-- IADDC (R122): VC supplies carry-in and receives carry-out, or signed overflow at TY 0. -/
def execIaddc (f : FV) (s : State) : Host.Outcome State Fault Refusal :=
  s.laneOp f.g .clone fun h m =>
    let a := fun l => h.band.v32 l f.va.toNat
    let b := fun l => h.band.srcB32 f l
    let c := fun l => if (h.band.pred f.vc.toNat).getLsbD l then 1 else 0
    let out := fun l =>
      if f.ty = 1 then decide (2 ^ 32 ≤ (a l).toNat + (b l).toNat + c l)
      else decide ((a l).toInt + (b l).toInt + (c l : Nat) < -(2 ^ 31))
        || decide (2 ^ 31 - 1 < (a l).toInt + (b l).toInt + (c l : Nat))
    (h.band.setV f.vd.toNat m fun l => BitVec.ofNat 32 ((a l).toNat + (b l).toNat + c l)).setPred f.vc.toNat m
      (maskOf out)

/-! ### Compare, select and moves (R123 to R125) -/

/-- The comparisons of R39 on exact integers. -/
def cmpInt (c : Nat) (a b : Int) : Bool :=
  if c = 0 then a == b else if c = 1 then a != b else if c = 2 then decide (a < b) else if c = 3 then decide (a ≤ b)
  else if c = 4 then decide (b < a) else decide (b ≤ a)

/-- ICMP (R123): the predicate is the AND of the element results. -/
def execIcmp (f : FV) (s : State) : Host.Outcome State Fault Refusal :=
  let ty := f.ty.toNat
  s.laneOp f.g .clone fun h m => h.band.setPred f.vd.toNat m (maskOf fun l =>
    (List.range (tyCount ty)).all fun e =>
      cmpInt f.sub.toNat (elemVal ty e (h.band.srcV ty l f.va.toNat)) (elemVal ty e (h.band.srcB f ty l)))

/-- MOV (R124). -/
def execMov (f : FV) (s : State) : Host.Outcome State Fault Refusal :=
  s.laneOp f.g .clone fun h m => h.band.putTy f.ty.toNat f.vd.toNat m fun l => h.band.srcB f f.ty.toNat l
/-- ISEL (R124). -/
def execIsel (f : FV) (s : State) : Host.Outcome State Fault Refusal :=
  let ty := f.ty.toNat
  s.laneOp f.g .clone fun h m => h.band.putTy ty f.vd.toNat m fun l =>
    if (h.band.pred f.vc.toNat).getLsbD l then h.band.srcV ty l f.va.toNat else h.band.srcB f ty l
/-- MOVI (R124): TY2 0 plain, 1 sign-extended to a pair, 2 zero-extended to a pair. -/
def execMovi (f : FI) (s : State) : Host.Outcome State Fault Refusal :=
  s.laneOp f.g .clone fun h m =>
    if f.ty2 = 0 then h.band.setV f.vd.toNat m fun _ => f.imm
    else h.band.setV64 f.vd.toNat m fun _ => if f.ty2 = 1 then f.imm.signExtend 64 else f.imm.setWidth 64
/-- IADDI (R124): TY2 0 wraps, 1 saturates as I32, 2 reads VA unsigned and saturates as N32. -/
def execIaddi (f : FI) (s : State) : Host.Outcome State Fault Refusal :=
  s.laneOp f.g .clone fun h m => h.band.putRes 0 f.vd.toNat m fun l =>
    let a := h.band.v32 l f.va.toNat
    let x : Int := (if f.ty2 = 2 then (a.toNat : Int) else a.toInt) + f.imm.toInt
    let r := fin (f.ty2 != 0) 32 (f.ty2 != 2) x
    (BitVec.ofNat 64 r.1, r.2)
/-- LEA (R125): base pair plus the index times 2^SUB, modulo 2^64. -/
def execLea (f : FV) (s : State) : Host.Outcome State Fault Refusal :=
  s.laneOp f.g .clone fun h m => h.band.setV64 f.vd.toNat m fun l =>
    BitVec.ofInt 64 ((h.band.v64 l f.va.toNat).toNat
      + elemVal f.ty.toNat 0 ((h.band.srcB32 f l).setWidth 64) * 2 ^ f.sub.toNat)

/-! ### Logic, shifts and bit fields (R126 to R130) -/

/-- A bitwise instruction on 32 bits or a pair. -/
def Band.bitOp (b : Band) (f : FV) (m : LaneMask) (op : DWord → DWord → DWord) : Band :=
  b.putTy f.ty.toNat f.vd.toNat m fun l => op (b.srcV f.ty.toNat l f.va.toNat) (b.srcB f f.ty.toNat l)
/-- AND (R126). -/
def execVand (f : FV) (s : State) : Host.Outcome State Fault Refusal :=
  s.laneOp f.g .clone fun h m => h.band.bitOp f m (· &&& ·)
/-- OR (R126). -/
def execVor (f : FV) (s : State) : Host.Outcome State Fault Refusal :=
  s.laneOp f.g .clone fun h m => h.band.bitOp f m (· ||| ·)
/-- XOR (R126). -/
def execVxor (f : FV) (s : State) : Host.Outcome State Fault Refusal :=
  s.laneOp f.g .clone fun h m => h.band.bitOp f m (· ^^^ ·)
/-- NOT (R126). -/
def execVnot (f : FV) (s : State) : Host.Outcome State Fault Refusal :=
  s.laneOp f.g .clone fun h m => h.band.bitOp f m fun a _ => ~~~a

/-- A shift: the count is element e of B read unsigned (R127). -/
def Band.shiftOp (b : Band) (f : FV) (m : LaneMask) (op : Nat → Nat → Nat × BitVec 9) : Band :=
  let ty := f.ty.toNat
  b.putRes ty f.vd.toNat m fun l => perElem ty fun e =>
    op (elemOf (tyWidth ty) e (b.srcV ty l f.va.toNat)) (elemOf (tyWidth ty) e (b.srcB f ty l))

/-- SHL (R127): a count of the width or more gives 0, or clamps any nonzero value under SAT. -/
def execShl (f : FV) (s : State) : Host.Outcome State Fault Refusal :=
  let ty := f.ty.toNat
  let w := tyWidth ty
  s.laneOp f.g .clone fun h m => h.band.shiftOp f m fun a n =>
    if (satBit f) then
      let v : Int := if tySigned ty then signedOf w a else (a : Nat)
      fin true w (tySigned ty) (v * 2 ^ min n w)
    else ((if w ≤ n then 0 else a * 2 ^ n % 2 ^ w), 0)
/-- SHR (R127). -/
def execShr (f : FV) (s : State) : Host.Outcome State Fault Refusal :=
  s.laneOp f.g .clone fun h m => h.band.shiftOp f m fun a n =>
    (if tyWidth f.ty.toNat ≤ n then 0 else a / 2 ^ n, 0)
/-- SAR (R127). -/
def execSar (f : FV) (s : State) : Host.Outcome State Fault Refusal :=
  let w := tyWidth f.ty.toNat
  s.laneOp f.g .clone fun h m => h.band.shiftOp f m fun a n =>
    (lowBits w (signedOf w a / 2 ^ min n w), 0)
/-- ROT (R127). -/
def execRot (f : FV) (s : State) : Host.Outcome State Fault Refusal :=
  let w := tyWidth f.ty.toNat
  s.laneOp f.g .clone fun h m => h.band.shiftOp f m fun a n =>
    (a * 2 ^ (n % w) % 2 ^ w + a / 2 ^ (w - n % w), 0)

/-- The position and length of BFE and BFI (R128). -/
def Band.bfField (b : Band) (f : FV) (l : Nat) : Nat × Nat :=
  let w := tyWidth f.ty.toNat
  let pos := min ((b.srcB32 f l).toNat % 256) w
  (pos, min ((b.v32 l f.vc.toNat).toNat % 256) (w - pos))
/-- BFE (R128). -/
def execBfe (f : FV) (s : State) : Host.Outcome State Fault Refusal :=
  let ty := f.ty.toNat
  s.laneOp f.g .clone fun h m => h.band.putTy ty f.vd.toNat m fun l =>
    let (pos, len) := h.band.bfField f l
    let x := elemOf (tyWidth ty) 0 (h.band.srcV ty l f.va.toNat) / 2 ^ pos % 2 ^ len
    if len = 0 then 0
    else if tySigned ty then BitVec.ofInt 64 (signedOf len x) else BitVec.ofNat 64 x
/-- BFI (R128). -/
def execBfi (f : FV) (s : State) : Host.Outcome State Fault Refusal :=
  let ty := f.ty.toNat
  s.laneOp f.g .clone fun h m => h.band.putTy ty f.vd.toNat m fun l =>
    let (pos, len) := h.band.bfField f l
    let d := (h.band.srcV ty l f.vd.toNat).toNat
    let x := (h.band.srcV ty l f.va.toNat).toNat % 2 ^ len
    BitVec.ofNat 64 (d % 2 ^ pos + x * 2 ^ pos + d / 2 ^ (pos + len) * 2 ^ (pos + len))

/-- The number of set bits below `n`. -/
def bitsSet (x : Nat) : Nat → Nat
  | 0 => 0
  | n + 1 => (if x.testBit n then 1 else 0) + bitsSet x n
/-- The number of leading zero bits of the low `n` bits. -/
def leadZeros (x : Nat) : Nat → Nat
  | 0 => 0
  | n + 1 => if x.testBit n then 0 else 1 + leadZeros x n
/-- The low `n` bits in reverse order. -/
def revBits (x : Nat) : Nat → Nat
  | 0 => 0
  | n + 1 => revBits (x / 2) n + x % 2 * 2 ^ n
/-- POPC (R129). -/
def execPopc (f : FV) (s : State) : Host.Outcome State Fault Refusal :=
  let ty := f.ty.toNat
  s.laneOp f.g .clone fun h m => h.band.putTy ty f.vd.toNat m fun l =>
    BitVec.ofNat 64 (bitsSet (h.band.srcV ty l f.va.toNat).toNat (tyWidth ty))
/-- CLZ (R129). -/
def execClz (f : FV) (s : State) : Host.Outcome State Fault Refusal :=
  let ty := f.ty.toNat
  s.laneOp f.g .clone fun h m => h.band.putTy ty f.vd.toNat m fun l =>
    BitVec.ofNat 64 (leadZeros (h.band.srcV ty l f.va.toNat).toNat (tyWidth ty))
/-- BREV (R129). -/
def execBrev (f : FV) (s : State) : Host.Outcome State Fault Refusal :=
  let ty := f.ty.toNat
  s.laneOp f.g .clone fun h m => h.band.putTy ty f.vd.toNat m fun l =>
    BitVec.ofNat 64 (revBits (h.band.srcV ty l f.va.toNat).toNat (tyWidth ty))

/-- The byte a selector nibble chooses (R130). -/
def prmByte (a nib : Nat) : Nat :=
  if nib.testBit 2 then 0
  else
    let x := a / 2 ^ (8 * (nib % 4)) % 256
    if nib.testBit 3 then (if x.testBit 7 then 0xFF else 0) else x
/-- PRMB (R130). -/
def execPrmb (f : FV) (s : State) : Host.Outcome State Fault Refusal :=
  s.laneOp f.g .clone fun h m => h.band.setV f.vd.toNat m fun l =>
    let a := (h.band.v32 l f.va.toNat).toNat
    let b := (h.band.srcB32 f l).toNat
    BitVec.ofNat 32 (ofElems 8 ((List.range 4).map fun i => prmByte a (b / 2 ^ (4 * i) % 16)))

end Sys2Proof.Machine
end

