-- ==== Sys2Proof/Machine/Exchange.lean ====
section
/-! DEFINITION. Lane exchange, 0x50 to 0x54, and PCNT (05_integer.md R131 to R136, R140). In a PAIRED crew each half of
the band is a band of 16 lanes (R136). -/

namespace Sys2Proof.Machine

/-- The lanes of a mask in the half of lane `l`, or all of them. -/
def halfLanes (paired : Bool) (m : LaneMask) (l : Nat) : List Nat :=
  (lanesOf m).filter fun k => !paired || k / 16 == l / 16

/-! ### SHFL (R131) -/

/-- The source lane of lane `l` for a selector `x`. -/
def shflSource (paired : Bool) (mode l leader : Nat) (x : Word) : Nat :=
  let n := if paired then 16 else 32
  let base := if paired then l / 16 * 16 else 0
  let i := l - base
  let t : Int :=
    if mode = 0 then (x.toNat % n : Nat)
    else if mode = 1 then (i : Int) - x.toInt
    else if mode = 2 then (i : Int) + x.toInt
    else if mode = 3 then ((i ^^^ (x.toNat % n) : Nat) : Int)
    else ((leader - base : Nat) : Int)
  if t < 0 ∨ (n : Int) ≤ t then l else base + t.toNat

/-- SHFL (R131). -/
def execShfl (f : FV) (s : State) : Host.Outcome State Fault Refusal :=
  let ty := f.ty.toNat
  s.laneOp f.g .exchange fun h m => h.band.putTy ty f.vd.toNat m fun l =>
    h.band.srcV ty (shflSource h.crew.paired f.sub.toNat l ((halfLanes h.crew.paired h.band.running l).headD l) (h.band.srcB32 f l))
      f.va.toNat

/-! ### SCAN and RDC (R132, R133) -/

/-- A bitwise combination at width `w`, read back as the kind reads it. -/
def bitComb (w : Nat) (signed : Bool) (g : Nat → Nat → Nat) (a b : Int) : Int :=
  let r := g (lowBits w a) (lowBits w b)
  if signed then signedOf w r else (r : Nat)
/-- The operations of the Scan table on exact integers. -/
def scanInt (op w : Nat) (signed : Bool) (a b : Int) : Int :=
  if op = 0 then a + b else if op = 1 then min a b else if op = 2 then max a b
  else if op = 3 then bitComb w signed (· &&& ·) a b else if op = 4 then bitComb w signed (· ||| ·) a b
  else bitComb w signed (· ^^^ ·) a b
/-- The identities of R132 for the integer kinds. -/
def scanId (op w : Nat) (signed : Bool) : Int :=
  if op = 1 then kindMax w signed else if op = 2 then kindMin w signed
  else if op = 3 then (if signed then -1 else 2 ^ w - 1) else 0
/-- Combines a list in order; the identity when it is empty. -/
def foldFirst {α : Type} (g : α → α → α) (e : α) : List α → α
  | [] => e
  | a :: t => t.foldl g a

/-- One element position of an integer SCAN over the values of the lanes combined. -/
def scanElem (ty op : Nat) (wide sat : Bool) (vals : List Int) : Nat × BitVec 9 :=
  let w := tyWidth ty
  fin sat (if wide then 32 else w) (tySigned ty)
    (foldFirst (scanInt op w (tySigned ty)) (scanId op w (tySigned ty)) vals)

/-- F32 partial results: each sum rounded as FADD rounds it; MIN and MAX as FMIN and FMAX. -/
def scanFlt (op rm : Nat) (vals : List FNum) : Nat × BitVec 9 :=
  match vals with
  | [] => (((fmtF32.round 0 false false
      (if op = 0 then .fin false 0 1 0 else .inf (op == 2))).1), 0)
  | v :: t =>
    let start := fmtF32.round rm false false v
    t.foldl (fun (a : Nat × BitVec 9) x =>
      let r := if op = 0 then addNum rm (fmtF32.decode false a.1) x else pickNum (op == 2) (fmtF32.decode false a.1) x
      let q := fmtF32.round rm false false r.1
      (q.1, a.2 ||| r.2 ||| q.2)) start

/-- The value a lane takes from the lanes `ls`, in order. -/
def Band.scanOf (b : Band) (f : FV) (ls : List Nat) : DWord × BitVec 9 :=
  let ty := f.ty.toNat
  let op := f.sub.toNat % 8
  let wide := f.sub.toNat / 16 % 2 == 1
  if ty = 8 then
    let r := scanFlt op (rmOf f) (ls.map fun k => fmtF32.decode false (b.v32 k f.va.toNat).toNat)
    (BitVec.ofNat 64 r.1, r.2)
  else
    let r := (List.range (tyCount ty)).map fun e =>
      scanElem ty op wide (satBit f) (ls.map fun k => elemVal ty e (b.srcV ty k f.va.toNat))
    (BitVec.ofNat 64 (ofElems (if wide then 32 else tyWidth ty) (r.map (·.1))), r.foldl (fun a x => a ||| x.2) 0)

/-- The kind that a SCAN or RDC writes: a pair when WIDE. -/
def scanTy (f : FV) : Nat := if f.sub.toNat / 16 % 2 = 1 then 6 else f.ty.toNat

/-- SCAN (R132): the lanes up to the lane itself, or before it under EXCL. -/
def execScan (f : FV) (s : State) : Host.Outcome State Fault Refusal :=
  let excl := f.sub.toNat / 8 % 2 == 1
  s.laneOp f.g .exchange fun h m => h.band.putRes (scanTy f) f.vd.toNat m fun l =>
    h.band.scanOf f ((halfLanes h.crew.paired m l).filter fun k => if excl then decide (k < l) else decide (k ≤ l))

/-- RDC (R132): the value of the last lane, for every lane. -/
def execRdc (f : FV) (s : State) : Host.Outcome State Fault Refusal :=
  s.laneOp f.g .exchange fun h m => h.band.putRes (scanTy f) f.vd.toNat m fun l =>
    h.band.scanOf f (halfLanes h.crew.paired m l)

/-! ### CMPCT, VOTE, PCNT (R134, R135, R140) -/

/-- The place of a lane in a list. -/
def placeOf (l : Nat) : List Nat → Nat
  | [] => 0
  | a :: t => if a = l then 0 else 1 + placeOf l t

/-- CMPCT (R134): the lanes beyond the last one packed keep their values. -/
def execCmpct (f : FV) (s : State) : Host.Outcome State Fault Refusal :=
  let ty := f.ty.toNat
  s.laneOp f.g .exchange fun h m => h.band.putTy ty f.vd.toNat m fun l =>
    let run := halfLanes h.crew.paired m l
    let chosen := run.filter fun k => (h.band.pred f.vc.toNat).getLsbD k
    match chosen[placeOf l run]? with
    | some k => h.band.srcV ty k f.va.toNat
    | none => h.band.srcV ty l f.vd.toNat

/-- VOTE (R135): ALL, ANY, UNI write a predicate; BALLOT a mask, with a half's bits in [15:0] (R136). -/
def execVote (f : FV) (s : State) : Host.Outcome State Fault Refusal :=
  s.laneOp f.g .exchange fun h m =>
    let p := h.band.pred f.va.toNat
    let run := fun l => halfLanes h.crew.paired m l
    if f.sub = 3 then
      h.band.setV f.vd.toNat m fun l =>
        let bits := maskOf fun k => (run l).contains k && p.getLsbD k
        if h.crew.paired && decide (16 ≤ l) then bits >>> 16 else bits
    else
      h.band.setPred f.vd.toNat m (maskOf fun l =>
        if f.sub = 0 then (run l).all fun k => p.getLsbD k
        else if f.sub = 1 then (run l).any fun k => p.getLsbD k
        else (run l).all fun k => p.getLsbD k == p.getLsbD ((run l).headD 0))

/-- PCNT (R140). -/
def execPcnt (f : FV) (s : State) : Host.Outcome State Fault Refusal :=
  s.laneOp f.g .clone fun h m => h.band.setV f.vd.toNat m fun l =>
    BitVec.ofNat 32 ((halfLanes h.crew.paired m l).filter fun k => (h.band.pred f.va.toNat).getLsbD k).length

end Sys2Proof.Machine
end

