-- ==== Sys2Proof/Machine/Net.lean ====
section
/-! DEFINITION. Requests to other devices: planes, sequence numbers, the member table (14_fabric.md R327 to R342). -/

namespace Sys2Proof.Machine

/-- H6 of R328: the exclusive OR of the eight 6-bit chunks of IA[55:8]. -/
def h6 (ia : Nat) : Nat := (List.range 8).foldl (fun a i => a ^^^ (ia / 2 ^ (8 + 6 * i) % 64)) 0

/-- The map that new requests follow: the committed PMAP, or the one of a rehash under way (R335 step 4). -/
def Fabric.mapNow (f : Fabric) : List Nat := match f.rehash with | some r => r.map | none => f.pmap
/-- The plane of a request (R328). -/
def Fabric.plane (f : Fabric) (ia : Nat) : Nat := f.mapNow.getD (h6 ia) 0

/-- Whether an entry moves to a plane that returns in the rehash under way (R337). -/
def Fabric.moves (f : Fabric) (e : Nat) : Bool :=
  match f.rehash with
  | some r => (r.mask &&& f.dead).getLsbD (r.map.getD e 0)
  | none => false
/-- Whether a request is still outstanding on the plane from which its entry moves back. -/
def Fabric.drains (f : Fabric) (r : Req) : Bool := f.moves (h6 r.ia) && !r.stalled && r.plane != f.plane r.ia
/-- Whether a new request must wait: its entry moves back and requests on the entries that move are still outstanding on
their old plane (R337). -/
def Fabric.stalls (f : Fabric) (ia : Nat) : Bool := f.moves (h6 ia) && f.reqs.any f.drains

/-- The planes that carry traffic: live under the committed map, not being retired, and with a link of this device that
is up (R329, R335). -/
def Fabric.working (f : Fabric) : BitVec 8 :=
  f.live &&& f.up &&& ~~~(match f.rehash with | some r => r.mask | none => 0)

/-- Whether requests to a member fault at once: it is not live in the table, or no plane is left (R340). -/
def Fabric.down (f : Fabric) (dst : Nat) : Bool :=
  !(match f.members.find dst with | some m => m.live | none => false) || f.working == 0

/-- The EPOCH of a member in the table. -/
def Fabric.epochOf (f : Fabric) (dst : Nat) : BitVec 16 :=
  match f.members.find dst with | some m => m.epoch | none => 0

/-- How many requests to a destination are unacknowledged. -/
def Fabric.openTo (f : Fabric) (dst : Nat) : Nat := (f.reqs.filter fun r => r.dst == dst).length

/-- The device an IA names. -/
def deviceOf (ia : Nat) : Nat := ia / 2 ^ 48 % 256

/-- What a request does: its kind, IA, size, data, compare value, atomic operation, whether it is uncached, whether
its data are poisoned, the scope of its acquire, and a collective's message. -/
structure Ask where
  kind : ReqKind
  ia   : Nat
  size : Nat
  data : List Byte
  cmp  : List Byte
  aop  : Nat
  uncached : Bool
  poison : Bool
  acq : Nat
  coll : Option CollMsg
  deriving DecidableEq, Repr

/-- The sequence numbers to a destination that are taken: those of outstanding requests, and those that elements of the
bands, resident or saved, keep reserved after a timeout (R342). -/
def State.takenQ (s : State) (dst : Nat) : List (BitVec 16) :=
  let held := fun (l : List Band) => l.flatMap fun b => b.log.flatMap fun o => o.elems.filterMap fun e =>
    match e.loc with | .ia a => if deviceOf a = dst then e.q else none | _ => none
  (s.fab.reqs.filter fun r => r.dst == dst).map (·.q)
    ++ (s.cores.flatMap fun c => held c.2.bands.vals) ++ s.ctxs.flatMap fun x => x.2.saved.flatMap fun v => held v.bands
/-- The next number of a series that is not taken. -/
def nextFree : Nat → BitVec 16 → List (BitVec 16) → BitVec 16
  | 0, q, _ => q
  | n + 1, q, l => if l.contains q then nextFree n (q + 1) l else q

/-- Sends a request, under a reserved number when it has one (R342); none when 4,096 are unacknowledged already (R332).
The request's epoch is the one recorded at first issue (R327). -/
def State.ask (s : State) (a : Ask) (epoch : BitVec 16) (q? : Option (BitVec 16)) (o : Owner) :
    Option (State × BitVec 16) :=
  let dst := deviceOf a.ia
  if 4096 ≤ s.fab.openTo dst then none
  else
    let used := s.takenQ dst
    let q := q?.getD (nextFree used.length (s.fab.nextQ.get 0 dst) used)
    let r : Req := ⟨dst, q, epoch, s.fab.plane a.ia, a.kind, a.ia, a.size, a.data, a.cmp, a.aop, a.uncached, a.poison, a.acq, o, s.cycle,
      s.fab.stalls a.ia, false, a.coll⟩
    let s1 := s.modFab fun f => { f with
      reqs := f.reqs ++ [r], nextQ := if q?.isSome then f.nextQ else f.nextQ.put dst (q + 1) }
    some (if r.stalled then s1 else s1.send (.request r), q)

end Sys2Proof.Machine
end

