-- ==== Sys2Proof/Machine/MemInstr.lean ====
section
/-! DEFINITION. The memory instructions 0x80 to 0x93 (08_memory.md R205 to R218): what is checked at issue, the operand
log, and how logged operations are performed, fault and complete (R188 to R202). -/

namespace Sys2Proof.Machine

/-! ### Addresses and issue checks (R175, R181, R206) -/

/-- Bytes of an access width (R33). -/
def widthBytes (w : BitVec 3) : Nat := 2 ^ w.toNat

/-- The address of R206: AM, SP, VA, SB and a byte offset. -/
def Here.addr (h : Here) (am : BitVec 2) (sp : BitVec 3) (va : BitVec 7) (sb : BitVec 6) (off : Int) (l : Nat) : DWord :=
  let v := (h.band.v32 l va.toNat).setWidth 64
  let base :=
    if am = 0 then (if sp = 4 then h.band.v64 l va.toNat else v)
    else if am = 1 then h.band.sreg sb.toNat
    else h.band.sreg sb.toNat + v
  base + BitVec.ofInt 64 off

/-- The location an address names, with the window's policy, or the MEM sub-cause of the issue fault (R187): ALIGN, then
the window or the range. -/
def State.locate (s : State) (h : Here) (sp : BitVec 3) (u : Nat) (need : Need) (a : DWord) : Except Nat (Loc × Nat) :=
  let n := a.toNat
  if n % u ≠ 0 then .error 4
  else if sp = 0 then (if n + u ≤ h.ctx.pvsize.toNat then .ok (.priv n, 0) else .error 3)
  else if sp = 1 then (if h.crew.holds n u then .ok (.scr h.crew.member n, 0) else .error 3)
  else if sp = 2 then
    let m := n / 2 ^ 19
    let o := n % 2 ^ 19
    if 2 ^ 23 ≤ n then .error 3
    else match s.member? h.crew m with
      | some (_, w) => if w.holds o u then .ok (.scr m o, 0) else .error 3
      | none => .error 3
  else if sp = 3 then
    (if h.ctx.chiplo.toNat ≤ n ∧ n + u ≤ h.ctx.chiphi.toNat ∧ n + u ≤ 0x3F00000 then .ok (.chip n, 0) else .error 3)
  else match h.ctx.win a need with
    | .ok (ia, w) => .ok (.ia ia, h.ctx.vcp w)
    | .error e => .error e

/-- What one lane's access carries: address, store data or atomic operand, and the compare value. -/
structure Access where
  addr : DWord
  data : List Byte
  cmp  : List Byte
  deriving DecidableEq, Repr

/-- What an access instruction asks for. -/
structure MemAsk where
  kind  : OpKind
  sp    : BitVec 3
  size  : Nat
  need  : Need
  scope : Nat
  acq   : Bool
  rel   : Bool
  cp    : Nat
  dst   : Nat
  aop   : Nat
  deriving DecidableEq, Repr

/-- The EPOCH recorded for an element at issue (14_fabric.md R341). -/
def State.epochFor (s : State) : Loc → BitVec 16
  | .ia a => if s.localIa a then 0 else s.fab.epochOf (deviceOf a)
  | _ => 0

/-- The elements of an operation, or the lowest faulting lane with its sub-cause. -/
def State.elements (s : State) (h : Here) (k : MemAsk) (x : Nat → Access) : List Nat → Except (Nat × Nat) (List Elem)
  | [] => .ok []
  | l :: t =>
    match s.locate h k.sp k.size k.need (x l).addr with
    | .error e => .error (l, e)
    | .ok (loc, wcp) =>
      match State.elements s h k x t with
      | .error e => .error e
      | .ok r => .ok (⟨l, loc, (x l).data, (x l).cmp, policy k.cp wcp, s.epochFor loc, none, 0, [], .pending⟩ :: r)

/-- The data that an element moves, as a kind of energy event (20_host.md R414). -/
def State.moveKind (s : State) : Loc → Nat
  | .scr _ _ | .chip _ => 1
  | .priv _ => 2
  | .ia a => if !s.localIa a then 3 else match s.walk (localPart a) with | .leaf l => (if l.mt = 1 then 4 else 2) | .bad _ _ => 2
/-- The energy of the data that an operation moves (20_host.md R414). -/
def State.spendMoves (s : State) (h : Here) (o : MemOp) : State :=
  o.elems.foldl (fun s e => s.spend h.core h.band.crew (s.moveKind e.loc) o.size) s

/-- Issues an access of the lanes `ls` (`m` is the mask a fault names): waits while its class is full or, for a release,
while earlier operations are outstanding (R195, R218); faults precisely for the lowest lane that faults (R187); else the
operation is logged (R188). A release first performs the band's earlier writes at its scope. -/
def State.issueMem (s : State) (h : Here) (m : LaneMask) (ls : List Nat) (k : MemAsk) (x : Nat → Access) : State :=
  if (if k.kind.isLd then s.ldCount h else s.stCount h) ≥ 63 || (k.rel && !s.drained h) then s
  else match s.elements h k x ls with
    | .error (l, e) => h.fault s 4 (memDetail e l false false (x l).addr.toNat) m
    | .ok els =>
      let s1 := if k.rel then s.release h.core h.slot k.scope else s
      let (id, s2) := s1.takeId
      let op : MemOp := ⟨id, k.kind, k.size, k.scope, k.acq, k.rel, k.dst, k.aop, h.band.p, false, els.map fun e => { e with seq := id }⟩
      (h.retire s2 { h.band with log := h.band.log ++ [op] }).spendMoves h op

/-- A lane access: nothing when Running is empty; `cmp` marks the forms that a PAIRED crew compares, of which only
primary lanes access memory (15_traps.md R373). -/
def State.laneMem (s : State) (g : Guard) (k : MemAsk) (cmp : Bool) (x : Here → Nat → Access) :
    Host.Outcome State Fault Refusal :=
  s.onBand fun h =>
    let m := h.band.guarded g
    if m = 0 then h.retire s h.band
    else match (if cmp then h.pairMiss m (x h) else none) with
      | some l => h.hwErr s 3 l m
      | none =>
        s.issueMem h m ((lanesOf m).filter fun l => !(cmp && h.crew.paired) || decide (l < 16)) k (x h)

/-- A band-level access, by Leader (R208, R214). -/
def State.bandMem (s : State) (g : Guard) (k : MemAsk) (x : Here → Access) : Host.Outcome State Fault Refusal :=
  s.bandOp g fun h => s.issueMem h h.band.running [h.band.leader] k fun _ => x h

/-- The low `u` bytes of a lane's register group (R207). -/
def Band.groupBytes (b : Band) (n u l : Nat) : List Byte :=
  if u ≤ 4 then toBytes u (b.v32 l n).toNat
  else (List.range (u / 4)).flatMap fun i => toBytes 4 (b.v32 l (n + i)).toNat

/-- The byte offset of F-M: OFF13 in units of the width. -/
def offBytes (f : FM) : Int := f.off.toInt * (widthBytes f.w : Nat)

/-- What an F-M access asks. -/
def fmAsk (f : FM) (kind : OpKind) (need : Need) : MemAsk :=
  ⟨kind, f.sp, widthBytes f.w, need, f.sc.toNat, f.ord.getLsbD 0, f.ord.getLsbD 1, f.cp.toNat, f.vt.toNat, 0⟩
/-- What an atomic asks. -/
def faAsk (f : FA) (kind : OpKind) : MemAsk :=
  ⟨kind, f.sp, widthBytes f.w, .rw, f.sc.toNat, f.ord.getLsbD 0, f.ord.getLsbD 1, f.cp.toNat, f.vt.toNat, f.aop.toNat⟩

/-! ### Loads, stores and atomics at issue (R207, R208, R211 to R214) -/

/-- LD (R207). -/
def execLd (f : FM) (s : State) : Host.Outcome State Fault Refusal :=
  s.laneMem f.g (fmAsk f .load .r) false fun h l => ⟨h.addr f.am f.sp f.va f.sb (offBytes f) l, [], []⟩
/-- ST (R207). -/
def execSt (f : FM) (s : State) : Host.Outcome State Fault Refusal :=
  s.laneMem f.g (fmAsk f .store .w) true fun h l =>
    ⟨h.addr f.am f.sp f.va f.sb (offBytes f) l, h.band.groupBytes f.vt.toNat (widthBytes f.w) l, []⟩
/-- LDS (R208). -/
def execLds (f : FM) (s : State) : Host.Outcome State Fault Refusal :=
  s.bandMem f.g (fmAsk f .loadS .r) fun h => ⟨h.addr f.am f.sp f.va f.sb (offBytes f) 0, [], []⟩
/-- STS (R208). -/
def execSts (f : FM) (s : State) : Host.Outcome State Fault Refusal :=
  s.bandMem f.g (fmAsk f .storeS .w) fun h =>
    ⟨h.addr f.am f.sp f.va f.sb (offBytes f) 0, toBytes (widthBytes f.w) (h.band.sreg f.vt.toNat).toNat, []⟩
/-- LDTR (R211): in AM 1 the rows of 32 elements lie back to back. -/
def execLdtr (f : FM) (s : State) : Host.Outcome State Fault Refusal :=
  s.laneMem f.g (fmAsk f .loadT .r) false fun h l =>
    ⟨h.addr f.am f.sp f.va f.sb
      (offBytes f + if f.am = 1 then ((32 * l * widthBytes f.w : Nat) : Int) else 0) l, [], []⟩
/-- ATOM (R212). -/
def execAtom (f : FA) (s : State) : Host.Outcome State Fault Refusal :=
  s.laneMem f.g (faAsk f .atom) true fun h l =>
    ⟨h.addr f.am f.sp f.va f.sb 0 l, h.band.groupBytes f.vx.toNat (widthBytes f.w) l, []⟩
/-- ACAS (R213): VX is compared, VT is stored. -/
def execAcas (f : FA) (s : State) : Host.Outcome State Fault Refusal :=
  s.laneMem f.g (faAsk f .cas) true fun h l =>
    ⟨h.addr f.am f.sp f.va f.sb 0 l, h.band.groupBytes f.vt.toNat (widthBytes f.w) l,
      h.band.groupBytes f.vx.toNat (widthBytes f.w) l⟩
/-- ATOMS (R214). -/
def execAtoms (f : FA) (s : State) : Host.Outcome State Fault Refusal :=
  s.bandMem f.g (faAsk f .atomS) fun h =>
    ⟨h.addr f.am f.sp f.va f.sb 0 0, toBytes (widthBytes f.w) (h.band.sreg (f.vx.toNat % 64)).toNat, []⟩
/-- RED (R212). -/
def execRed (f : FA) (s : State) : Host.Outcome State Fault Refusal :=
  s.laneMem f.g (faAsk f .red) true fun h l =>
    ⟨h.addr f.am f.sp f.va f.sb 0 l, h.band.groupBytes f.vx.toNat (widthBytes f.w) l, []⟩

/-- CCTL (R210): the only issue fault is NOWIN; VT[2:0] is the operation. -/
def execCctl (f : FM) (s : State) : Host.Outcome State Fault Refusal :=
  s.laneMem f.g { fmAsk f .cctl .none with aop := f.vt.toNat % 8, dst := 0 } false fun h l =>
    ⟨h.addr f.am f.sp f.va f.sb (offBytes f) l, [], []⟩

/-! ### PREF (R209) -/

/-- Prefetches one line: whatever would fault is dropped, and so is a line pinned elsewhere. -/
def State.prefetch (s : State) (h : Here) (f : FM) (l : Nat) : State :=
  let go := fun (s : State) (ia cp : Nat) =>
    if !s.localIa ia || cp = 3 then s
    else match s.reach (some h.core) (ia / 128) 0 with
      | none => s
      | some s1 =>
        if cp ≤ 1 then (match s1.l1Get h.core (ia / 128) .r (cp == 1) with | .ok s2 _ => s2 | _ => s)
        else (match s1.l2Get (ia / 128) .r with | .ok s2 _ => s2 | _ => s)
  match s.locate h f.sp 1 .r (h.addr f.am f.sp f.va f.sb (offBytes f) l) with
  | .ok (.ia a, wcp) => go s a (policy f.cp.toNat wcp)
  | .ok (.priv b, _) => go s (h.privIa l b) f.cp.toNat
  | _ => s

/-- PREF (R209): it never faults, counts in no class and orders nothing. -/
def execPref (f : FM) (s : State) : Host.Outcome State Fault Refusal :=
  s.onBand fun h => h.retire ((lanesOf (h.band.guarded f.g)).foldl (fun s l => s.prefetch h f l) s) h.band

/-! ### Fences and waits (R216 to R218) -/

/-- FENCE (R216): the band waits until its earlier operations are performed; a release fence then performs them at the
scope, an acquire fence makes later reads see what the scope sees. -/
def execFence (f : FY) (s : State) : Host.Outcome State Fault Refusal :=
  let scope := f.sub.toNat % 8
  let kind := f.sub.toNat / 8
  s.bandOp f.g fun h =>
    if !s.drained h then s
    else
      let s1 := if kind = 1 then s else s.release h.core h.slot scope
      if kind = 2 then h.retire s1 h.band
      else h.retire (s1.acquireAt h.core scope) { h.band with acqAt := s1.nextId }

/-- FENCEX (R217, R201). -/
def execFencex (f : FY) (s : State) : Host.Outcome State Fault Refusal :=
  s.bandOp f.g fun h => if s.remoteWrites h then s else h.retire s h.band

/-- Whether every class count is at or below its field (R218). -/
def State.waitMet (s : State) (h : Here) (imm : BitVec 24) : Bool :=
  decide (s.ldCount h ≤ (imm.extractLsb' 0 6).toNat) && decide (s.stCount h ≤ (imm.extractLsb' 6 6).toNat)
  && decide (s.engCount h ≤ (imm.extractLsb' 12 4).toNat) && decide (s.mxCount h ≤ (imm.extractLsb' 16 4).toNat)
  && decide (s.clCount h ≤ (imm.extractLsb' 20 4).toNat)

/-- WAITC (R218). -/
def execWaitc (f : FY) (s : State) : Host.Outcome State Fault Refusal :=
  s.bandOp f.g fun h => if s.waitMet h f.imm then h.retire s h.band else s

/-! ### Atomic operations (R212) -/

/-- F32 or BF16 sums: RNE, subnormals honoured, canonical NaN, no flag. -/
def addCodes (f : Fmt) (a b : Nat) : Nat :=
  (f.round 0 false false (addNum 0 (f.decode false a) (f.decode false b)).1).1

/-- Op(AOP, old, x) on `8u`-bit values. -/
def atomOp (aop u old x : Nat) : Nat :=
  let w := 8 * u
  if aop = 0 then (old + x) % 2 ^ w
  else if aop = 1 then lowBits w (min (signedOf w old) (signedOf w x))
  else if aop = 2 then lowBits w (max (signedOf w old) (signedOf w x))
  else if aop = 3 then min old x
  else if aop = 4 then max old x
  else if aop = 5 then old &&& x
  else if aop = 6 then old ||| x
  else if aop = 7 then old ^^^ x
  else if aop = 8 then x
  else if aop = 9 then (if x ≤ old then 0 else old + 1)
  else if aop = 10 then (if old = 0 ∨ x < old then x else old - 1)
  else if aop = 11 then addCodes fmtF32 old x
  else addCodes fmtBF16 (old % 2 ^ 16) (x % 2 ^ 16) + 2 ^ 16 * addCodes fmtBF16 (old / 2 ^ 16) (x / 2 ^ 16)

/-- The bytes an atomic writes over `old`. -/
def newBytes (cas : Bool) (aop : Nat) (data cmp old : List Byte) : List Byte :=
  if cas then (if old == cmp then data else old)
  else toBytes old.length (atomOp aop old.length (ofBytes old) (ofBytes data))

/-! ### Performing an element -/

/-- How an element went: performed, with the data it read and whether they are poisoned; its request sent; a memory-side
fault with its reason; or not yet. -/
inductive Went where
  | done (s : State) (data : List Byte) (poisoned : Bool)
  | sent (s : State) (dst : Nat) (q : BitVec 16)
  | bad (sub reason : Nat)
  | hold

/-- An operation on a memory of the device that has one copy, the scratchpads and CHIP: the bytes it writes, those it
reads, and whether they are poisoned. -/
def Memory.act (m : Memory) (o : MemOp) (e : Elem) (a : Nat) : Option (List Byte) × List Byte × Bool :=
  let old := m.read a o.size
  let bad := m.poisoned 8 a o.size
  match o.kind with
  | .load | .loadS | .loadT => (none, old, bad)
  | .store | .storeS => (some e.data, [], false)
  | .cctl => (none, [], false)
  | .atom | .cas | .atomS | .red =>
    if bad then (none, old, true) else (some (newBytes (o.kind == .cas) o.aop e.data e.cmp old), old, false)

/-- Reads the pieces of an element. -/
def State.readPieces (s : State) (c cp acq : Nat) : List (Nat × Nat) → Res (List Byte × Bool)
  | [] => .ok s ([], false)
  | (ia, n) :: t =>
    match s.iaRead (some c) ia n cp acq with
    | .ok s1 (d, p) =>
      match State.readPieces s1 c cp acq t with
      | .ok s2 (d2, p2) => .ok s2 (d ++ d2, p || p2)
      | .bad b => .bad b
      | .hold => .hold
    | .bad b => .bad b
    | .hold => .hold

/-- Writes the pieces of an element; a release or atomic scope `pub` makes the write seen by its whole scope at once
(R194). -/
def State.writePieces (s : State) (c slot cp pub : Nat) : List (Nat × Nat) → List Byte → Res Unit
  | [], _ => .ok s ()
  | (ia, n) :: t, d =>
    match s.iaWrite (some c) (some slot) ia (d.take n) cp with
    | .ok s1 _ => State.writePieces (if 2 ≤ pub then s1.publish c pub (ia / 128) else s1) c slot cp pub t (d.drop n)
    | .bad b => .bad b
    | .hold => .hold

/-- The result of local pieces. -/
def Went.ofRes : Res (List Byte × Bool) → Went
  | .ok s (d, p) => .done s d p
  | .bad b => .bad b 0
  | .hold => .hold

/-- An element on local IAs. -/
def State.goLocal (s : State) (h : Here) (o : MemOp) (e : Elem) (ps : List (Nat × Nat)) : Went :=
  let acq := if o.acq then o.scope else 0
  match o.kind with
  | .load | .loadS | .loadT => Went.ofRes (s.readPieces h.core e.cp acq ps)
  | .store | .storeS =>
    let pub := if o.rel then o.scope else 0
    match s.writePieces h.core h.slot (if 2 ≤ pub && e.cp ≤ 1 then 2 else e.cp) pub ps e.data with
    | .ok s1 _ => .done (if pub = 1 then s1.pinFor h.core h.slot else s1.outTo pub) [] false
    | .bad b => .bad b 0
    | .hold => .hold
  | .cctl => .done (ps.foldl (fun s p => s.maintain h.core (p.1 / 128) o.aop) s) [] false
  | .atom | .cas | .atomS | .red =>
    match ps with
    | [(ia, n)] =>
      match s.iaAtomic h.core h.slot ia n e.cp o.scope acq (newBytes (o.kind == .cas) o.aop e.data e.cmp) with
      | .ok s1 (d, p) => .done (if o.rel && o.scope = 1 then s1.pinFor h.core h.slot else s1) d p
      | .bad b => .bad b 0
      | .hold => .hold
    | _ => .hold

/-- The request of an element on a remote IA. -/
def MemOp.askOf (o : MemOp) (e : Elem) (a : Nat) : Ask :=
  ⟨match o.kind with
    | .load | .loadS | .loadT => .read
    | .store | .storeS | .cctl => .write
    | .cas => .cas
    | .atom | .atomS | .red => .atomic, a, o.size, e.data, e.cmp, o.aop, e.cp == 3, false, if o.acq then o.scope else 0, none⟩

/-- The acquire of an element performed outside the core's lines, in SCR, CLU, CHIP or at another device: its core drops
what its L1 holds, as an acquire on a line does (R195). -/
def State.acquire (s : State) (c : Nat) (o : MemOp) : State :=
  if o.acq then s.acquireAt c o.scope else s

/-- Performs one element as far as it goes. -/
def State.perform (s : State) (h : Here) (o : MemOp) (e : Elem) : Went :=
  match e.loc with
  | .chip a =>
    let r := s.chip.act o e a
    .done ((match r.1 with | some d => { s with chip := s.chip.write 8 a d } | none => s).acquire h.core o) r.2.1 r.2.2
  | .scr m a =>
    match s.member? h.crew m with
    | none => .hold
    | some (c, w) =>
      let r := (s.coreAt c).scr.act o e (w.place + a)
      .done ((match r.1 with | some d => s.scrWrite c w a d | none => s).acquire h.core o) r.2.1 r.2.2
  | .priv b => s.goLocal h o e (h.privPieces e.lane b o.size)
  | .ia a =>
    if s.localIa a then s.goLocal h o e [(a, o.size)]
    else if o.kind == .cctl then .done s [] false
    else if s.fab.down (deviceOf a) then .bad 9 0
    else match s.ask (o.askOf e a) e.ep e.q (.band h.core h.slot o.id e.lane) with
      | none => .hold
      | some (s1, q) => .sent s1 (deviceOf a) q

/-! ### Completion -/

/-- Replaces an element's status in a band's log. -/
def Band.setElem (b : Band) (id l : Nat) (st : ElemSt) : Band :=
  { b with log := b.log.map fun o => if o.id = id then { o with elems := o.elems.map fun e =>
      if e.lane = l then { e with st := st, q := match st, e.st with
        | .faulted 10 _, .sent _ q => some q
        | .faulted _ _, .sent _ _ => none
        | _, _ => e.q } else e } else o }
/-- Records a 64-bit part of an element that has been performed (R194). -/
def Band.gotPart (b : Band) (id l k : Nat) (d : List Byte) : Band :=
  { b with log := b.log.map fun o => if o.id = id then { o with elems := o.elems.map fun e =>
      if e.lane = l then { e with got := e.got ++ [(k, d)] } else e } else o }

/-- An operation all of whose elements are done leaves the log, and its destination is written; one that a handler has
overtaken writes its destination now, for the handler's words, and again at RTE (R112; DEDUCED, assumption log entry 9). -/
def State.finishOp (s : State) (c k id : Nat) : State :=
  match s.hereAt c k with
  | none => s
  | some h =>
    match h.band.log.find? fun o => o.id == id with
    | none => s
    | some o =>
      if !o.done || o.kept then s
      else if h.band.killed then h.put s { h.band with log := h.band.log.filter fun p => p.id != id }
      else if h.band.tl && decide (id < h.band.trapAt) && o.kind.isLd then
        h.put s { h.band.deliver h.crew.paired o with
          log := h.band.log.map fun p => if p.id = id then { p with kept := true } else p }
      else h.put s ({ h.band with log := h.band.log.filter fun p => p.id != id }.deliver h.crew.paired o)

/-- The UNIT and the IA or index of the data of an element (15_traps.md R353; DEDUCED, assumption log entry 29). -/
def State.siteOf (s : State) (h : Here) (e : Elem) : Nat × Nat :=
  match e.loc with
  | .scr m a => (4, (s.member? h.crew m).elim 0 fun x => x.2.scrUnit a)
  | .chip a => (6, a / 8)
  | .priv b => (s.iaUnit h.core (h.privIa e.lane b), h.privIa e.lane b)
  | .ia a => (s.iaUnit h.core a, a)

/-- Records what one element's access gave; poison that it delivers to the band, as every access but a RED and a store
does, kills the band (15_traps.md R368). An acquire is marked in the band (R195). -/
def State.took (s : State) (c k id l : Nat) (d : List Byte) (poisoned : Bool) : State :=
  let op := (s.band? c k).bind fun b => b.log.find? fun o => o.id == id
  let acq := match op with | some o => o.acq | none => false
  let s1 := s.modBand c k fun b => { b.setElem id l (.done d) with acqAt := if acq then s.nextId else b.acqAt }
  match s1.hereAt c k, op with
  | some h, some o =>
    if poisoned && o.kind.isLd && !h.band.killed then
      let at_ := (o.elems.find? fun e => e.lane == l).elim (0, 0) (s1.siteOf h)
      s1.killPoison h at_.1 at_.2
    else s1
  | _, _ => s1

/-- Whether an element is moved as independent 64-bit parts: a load or store of 128 or 256 bits in the device's own
memories (R194). A request to another device carries it whole (DEDUCED, assumption log entry 73). -/
def State.wide (s : State) (o : MemOp) (e : Elem) : Bool :=
  decide (16 ≤ o.size) && o.kind != .cctl && match e.loc with | .ia a => s.localIa a | _ => true
/-- The byte offsets of the parts still to be moved. -/
def Elem.parts (e : Elem) (n : Nat) : List Nat :=
  ((List.range (n / 8)).map (8 * ·)).filter fun k => !e.got.any fun g => g.1 == k
/-- The part at byte `k` as an access of its own. -/
def Elem.partAt (e : Elem) (k : Nat) : Elem :=
  { e with
    loc := match e.loc with | .scr m a => .scr m (a + k) | .chip a => .chip (a + k) | .priv b => .priv (b + k) | .ia a => .ia (a + k)
    data := sliceOf e.data k 8 }
/-- The data of an element whose last part has come. -/
def partsData (n : Nat) (got : List (Nat × List Byte)) : List Byte :=
  (List.range (n / 8)).flatMap fun i => match got.find? fun g => g.1 == 8 * i with | some g => g.2 | none => []

/-- Performs the next part of a wide element; the parts go in any order (R194). -/
def State.stepPart (s : State) (h : Here) (o : MemOp) (e : Elem) : State :=
  let rest := e.parts o.size
  let (r, s0) := if 1 < rest.length then s.draw else (0, s)
  let k := rest.getD (r % rest.length) 0
  match s0.perform h { o with size := 8 } (e.partAt k) with
  | .done s1 d p =>
    let got := e.got ++ [(k, d)]
    if p || rest.length ≤ 1 then
      s1.took h.core h.slot o.id e.lane (if o.kind.isLd then partsData o.size got else []) p
    else s1.modBand h.core h.slot fun b => b.gotPart o.id e.lane k d
  | _ => s

/-- Performs one pending element that may go, or the next part of it. -/
def State.stepElem (s : State) (c k id l : Nat) : State :=
  match s.hereAt c k with
  | none => s
  | some h =>
    match h.band.log.find? fun o => o.id == id with
    | none => s
    | some o =>
      match o.elems.find? fun e => e.lane == l with
      | none => s
      | some e =>
        if e.st = .pending && s.mayGo h id l then
          if s.wide o e then s.stepPart h o e
          else match s.perform h o e with
          | .done s1 d p => s1.took c k id l d p
          | .sent s1 dst q => s1.modBand c k fun b => b.setElem id l (.sent dst q)
          | .bad _ _ => s
          | .hold => s
        else s

/-- MEM_OP_COMPLETE: the memory side performs the given lanes of a logged operation, ascending (R188 to R195); the
operation completes when its last element does. -/
def execMemOpComplete (core slot op : Nat) (lanes : LaneMask) (s : State) : Host.Outcome State Fault Refusal :=
  .next (((lanesOf lanes).foldl (fun s l => s.stepElem core slot op l) s).finishOp core slot op)

/-- The IA of an element, for the page that DETAIL names. -/
def Here.elemIa (h : Here) (e : Elem) : Nat :=
  match e.loc with
  | .ia a => a
  | .priv b => h.privIa e.lane b
  | _ => 0

/-- A fault response for one element: discarded for a killed band (02_formats.md R43); a double fault when the handler's
own access faults (R191, 15_traps.md R363); else kept until the stop point. -/
def State.faulted (s : State) (c k id l sub reason : Nat) : State :=
  match s.hereAt c k with
  | none => s
  | some h =>
    if h.band.killed then (s.modBand c k fun b => b.setElem id l (.done [])).finishOp c k id
    else
      let s1 := s.modBand c k fun b => b.setElem id l (.faulted sub reason)
      if h.band.tl && decide (h.band.trapAt ≤ id) then
        match s1.hereAt c k, (h.band.log.find? fun o => o.id == id).bind fun o => o.elems.find? fun e => e.lane == l with
        | some h1, some e => s1.kill h1 3 4 (sideDetail sub reason (1#32 <<< l) (h.elemIa e) 0)
        | _, _ => s1
      else s1

/-- A fault response for one lane, when its access does fault at the memory side. NOPAGE with DSVC = 0 is also logged
for the host (15_traps.md R366). -/
def State.respond (s : State) (c k id l : Nat) : State :=
  match s.hereAt c k with
  | none => s
  | some h =>
    match h.band.log.find? fun o => o.id == id with
    | none => s
    | some o =>
      match o.elems.find? fun e => e.lane == l with
      | none => s
      | some e =>
        if e.st = .pending && s.free h id l true then
          match s.perform h o e with
          | .bad sub reason => s.faulted c k id l sub reason
          | _ => s
        else s

/-- The elements of an operation that have just met NOPAGE at a leaf that firmware does not service (15_traps.md R366). -/
def State.unserviced (s t : State) (c k id : Nat) : List Elem :=
  match s.hereAt c k, t.hereAt c k with
  | some h, some g =>
    match h.band.log.find? (fun o => o.id == id), g.band.log.find? fun o => o.id == id with
    | some o, some q =>
      (o.elems.filter fun e => e.st == .pending && !s.serviced (h.elemIa e)
        && q.elems.any fun d => d.lane == e.lane && match d.st with | .faulted 5 _ => true | _ => false)
    | _, _ => []
  | _, _ => []

/-- MEM_FAULT_RESPONSE: the memory side answers the given lanes with the faults their accesses meet (R187, R188); NOPAGE
of a page without DSVC is also logged for the host, one record for the response (15_traps.md R366). -/
def execMemFaultResponse (core slot op : Nat) (lanes : LaneMask) (s : State) : Host.Outcome State Fault Refusal :=
  let t := (lanesOf lanes).foldl (fun s l => s.respond core slot op l) s
  match t.hereAt core slot, s.unserviced t core slot op with
  | some h, e :: l =>
    .next (t.logEvent h 4 (sideDetail 5 0 (maskOf fun i => (e :: l).any fun x => x.lane == i) (h.elemIa e) 0)
      ((h.band.log.find? fun o => o.id == op).elim h.band.p (·.p)))
  | _, _ => .next t

/-! ### Pins and the collector (R198, 01_machine.md R14) -/

/-- PIN_EXPIRY: the pins of a line whose latest release lies 65,536 cycles back end; a line without pins is written
back (R198). -/
def execPinExpiry (core line : Nat) (s : State) : Host.Outcome State Fault Refusal :=
  match s.l1Line core line with
  | none => .next s
  | some e =>
    let live := e.pins.filter fun p => decide (s.cycle < p.cycle + 65536)
    if live.length = e.pins.length then .next s
    else if live.isEmpty then .next (s.l1Unpin core line)
    else .next (s.setL1 core line { e with pins := live })

/-- COLLECTOR_WINDOW: the request collector's merge window of 32 cycles opens, or closes when it is over; it changes
timing only (01_machine.md R14). -/
def execCollectorWindow (core : Nat) (s : State) : Host.Outcome State Fault Refusal :=
  match (s.coreAt core).window with
  | none => .next (s.modCore core fun x => { x with window := some s.cycle })
  | some t => if t + 32 ≤ s.cycle then .next (s.modCore core fun x => { x with window := none }) else .next s

end Sys2Proof.Machine
end

