-- ==== Sys2Proof/Machine/Engine.lean ====
section
/-! DEFINITION. The copy engine: ENG and its commands (09_engines.md R220 to R243). -/

namespace Sys2Proof.Machine

/-! ### Command blocks (R233, R234) -/

/-- A field of `n` bytes of a command block. -/
def EngCmd.u (c : EngCmd) (o n : Nat) : Nat := ofBytes (sliceOf c.block o n)
/-- A signed 64-bit field. -/
def EngCmd.i64 (c : EngCmd) (o : Nat) : Int := (BitVec.ofNat 64 (c.u o 8)).toInt
def EngCmd.ctl (c : EngCmd) : Nat := c.u 0 8
/-- SSP and DSP; CKPT copies from GLB to GLB (R243). -/
def EngCmd.ssp (c : EngCmd) : Nat := if c.fn = 0x20 then 4 else c.ctl % 8
def EngCmd.dsp (c : EngCmd) : Nat := if c.fn = 0x20 then 4 else c.ctl / 8 % 8
def EngCmd.strict (c : EngCmd) : Bool := c.ctl.testBit 6
def EngCmd.swz (c : EngCmd) : Bool := c.ctl.testBit 7
def EngCmd.scp (c : EngCmd) : Nat := c.ctl / 2 ^ 8 % 4
def EngCmd.dcp (c : EngCmd) : Nat := c.ctl / 2 ^ 10 % 4
def EngCmd.esz (c : EngCmd) : Nat := 2 ^ (c.ctl / 2 ^ 12 % 4)
def EngCmd.flt (c : EngCmd) : Bool := c.ctl.testBit 14
def EngCmd.src (c : EngCmd) : Nat := c.u 8 8
def EngCmd.dst (c : EngCmd) : Nat := c.u 0x10 8
/-- LEN: 64 bits for CPY.LIN, CPY.FILL and CKPT, else 32. -/
def EngCmd.len (c : EngCmd) : Nat := if c.fn = 0 ∨ c.fn = 5 ∨ c.fn = 0x20 then c.u 0x18 8 else c.u 0x18 4
def EngCmd.rowb (c : EngCmd) : Nat := c.u 0x18 4
/-- NROWS of CPY.2D, CNT of the index functions, NGRP of CPY.MROW. -/
def EngCmd.cnt (c : EngCmd) : Nat := c.u 0x1C 4
def EngCmd.sstr (c : EngCmd) : Int := if c.fn = 1 then c.i64 0x20 else c.i64 0x28
def EngCmd.dstr (c : EngCmd) : Int := if c.fn = 1 then c.i64 0x28 else c.i64 0x30
/-- Whether the function takes row indices or a group mask, and so a status area. -/
def EngCmd.listed (c : EngCmd) : Bool := decide (2 ≤ c.fn) && decide (c.fn ≤ 4)
/-- Whether the function is a collective. -/
def EngCmd.isColl (c : EngCmd) : Bool := decide (0x10 ≤ c.fn) && decide (c.fn ≤ 0x13)

/-- The CTL bits a copy function uses (R233). -/
def ctlMask (fn : Nat) : Nat :=
  if fn = 0 then 0xF3F else if fn = 1 then 0xFBF else if fn = 2 then 0xFFF else if fn = 3 then 0xF7F
  else if fn = 4 then 0xFBF else if fn = 5 then 0x3C38 else if fn = 6 then 0x7F3F else 0x3F3F
/-- Whether byte `i` of a copy block, from 0x18 up, belongs to a field of the function (R234). -/
def blockUses (fn i : Nat) : Bool :=
  if fn = 1 then decide (i < 0x30) else if fn = 2 ∨ fn = 3 then decide (i < 0x38)
  else if fn = 4 then decide (i < 0x24) || (decide (0x28 ≤ i) && decide (i < 0x38))
  else decide (i < 0x20)

/-- The rules of R233 and R234 on a block's own fields. -/
def EngCmd.blockOk (c : EngCmd) : Bool :=
  let rows := decide (1 ≤ c.fn) && decide (c.fn ≤ 4)
  decide (c.ctl &&& ctlMask c.fn = c.ctl)
  && ((List.range 0x28).all fun i => blockUses c.fn (0x18 + i) || c.block.getD (0x18 + i) 0 == 0)
  && (c.fn == 5 || (decide (1 ≤ c.ssp) && decide (c.ssp ≤ 4)))
  && decide (1 ≤ c.dsp) && decide (c.dsp ≤ 4)
  && (!rows || (decide (4 ≤ c.rowb) && decide (c.rowb ≤ 65536) && c.rowb % 4 == 0 && c.sstr % 4 == 0 && c.dstr % 4 == 0
      && c.src % 4 == 0 && c.dst % 4 == 0))
  && (!(c.swz && rows) || (c.rowb % 128 == 0 && decide (c.dsp ≤ 2) && c.dst % 128 == 0 && c.dstr % 128 == 0))
  && (!(c.fn == 4) || (decide (1 ≤ c.cnt) && decide (c.cnt ≤ 65536)))
  && (!(c.fn == 5) || (c.dst % c.esz == 0 && c.len % c.esz == 0))
  && (!(c.fn == 6 || c.fn == 7) || (c.len % c.esz == 0 && c.src % 4 == 0 && c.dst % 4 == 0))

/-- SCR offset of the index list or of the mask. -/
def EngCmd.listAt (c : EngCmd) : Nat := if c.fn = 4 then c.u 0x20 4 else c.u 0x24 4
/-- Bytes of the index list or of the mask. -/
def EngCmd.listBytes (c : EngCmd) : Nat := if c.fn = 4 then (c.cnt + 7) / 8 else 4 * c.cnt

/-- The rules on the list and the status area, against the crew's allotment. -/
def EngCmd.listOk (c : EngCmd) (w : Crew) : Bool :=
  !c.listed ||
  ((c.fn == 4 || c.listAt % 4 == 0) && w.holds c.listAt c.listBytes
    && (c.stat == BitVec.allOnes 64 || w.holds c.stat.toNat ((c.cnt + 7) / 8)))

/-- The row indices, or the set groups of the mask, as they stand (R237, R239). -/
def State.readList (s : State) (k : Nat) (w : Crew) (c : EngCmd) : List Nat :=
  let d := s.scrRead k w c.listAt c.listBytes
  if c.fn = 4 then (List.range c.cnt).filter fun g => (d.getD (g / 8) 0).toNat.testBit (g % 8)
  else (List.range c.cnt).map fun i => ofBytes (sliceOf d (4 * i) 4)

/-- Whether the list can be read at all. -/
def EngCmd.listInside (c : EngCmd) (w : Crew) : Bool := !c.listed || w.holds c.listAt c.listBytes

/-- The bytes a command counts (R234, R241, R243), with its list. -/
def EngCmd.total (c : EngCmd) (idx : List Nat) : Nat :=
  if c.fn = 1 ∨ c.fn = 2 ∨ c.fn = 3 then c.rowb * c.cnt
  else if c.fn = 4 then 16 * c.rowb * idx.length
  else c.len

/-! ### Addresses and pieces -/

/-- FCODE of a MEM sub-cause (R227). -/
def fcodeOf (sub : Nat) : Nat :=
  if sub = 1 then 3 else if sub = 2 then 4 else if sub = 3 ∨ sub = 4 then 5 else if sub = 5 then 6 else if sub = 6 then 7
  else if sub = 7 then 8 else if sub = 8 then 9 else if sub = 9 then 0xA else 0xB
/-- Whether an FCODE is one of the remote faults of R238. -/
def fcodeRemote (code : Nat) : Bool := decide (9 ≤ code) && decide (code ≤ 0xB)
/-- FAUX of a remote fault: target and plane (R227). -/
def State.remoteAux (s : State) (ia : Nat) : Nat := deviceOf ia + s.fab.plane ia * 2 ^ 8

/-- The place of `n` bytes of the issuing crew's address space, with the window's policy (R233). -/
def State.engPlace (s : State) (w : Crew) (x : Ctx) (sp a n : Nat) (need : Need) : Except Nat (Loc × Nat) :=
  let va := a % 2 ^ 64
  if sp = 1 then (if w.holds va n then .ok (.scr w.member va, 0) else .error 3)
  else if sp = 2 then
    match s.member? w (va / 2 ^ 19) with
    | some (_, v) => if va < 2 ^ 23 ∧ v.holds (va % 2 ^ 19) n = true then .ok (.scr (va / 2 ^ 19) (va % 2 ^ 19), 0) else .error 3
    | none => .error 3
  else if sp = 3 then
    (if x.chiplo.toNat ≤ va ∧ va + n ≤ x.chiphi.toNat ∧ va + n ≤ 0x3F00000 then .ok (.chip va, 0) else .error 3)
  else match x.win (BitVec.ofNat 64 va) need with
    | .ok (ia, v) => .ok (.ia ia, x.vcp v)
    | .error e => .error e

/-- How a piece of a transfer went. -/
inductive Moved where
  | ok (s : State) (d : List Byte)
  | sent (s : State) (dst : Nat) (q : BitVec 16)
  | bad (code aux : Nat)
  | hold

/-- Reads one piece at an IA for work of core `k`: `o` owns a request to another device. -/
def State.farRead (s : State) (k ia n cp : Nat) (o : Owner) : Moved :=
  if s.localIa ia then
    match s.iaReadMany (some k) cp (pieces 3 ia n) with
    | .ok s1 (d, p) => if p then .bad 0xC 0 else .ok s1 d
    | .bad b => .bad (fcodeOf b) 0
    | .hold => .hold
  else if s.fab.down (deviceOf ia) then .bad 0xA (s.remoteAux ia)
  else match s.ask ⟨.read, ia, n, [], [], 0, cp == 3, false, 0, none⟩ (s.fab.epochOf (deviceOf ia)) none o with
    | some (s1, q) => .sent s1 (deviceOf ia) q
    | none => .hold

/-- Writes one piece at an IA; `poison` marks it poisoned. -/
def State.farWrite (s : State) (k ia cp : Nat) (d : List Byte) (poison : Bool) (o : Owner) : Moved :=
  if s.localIa ia then
    match s.iaWriteMany (some k) cp (pieces 3 ia d.length) d with
    | .ok s1 _ => .ok (if poison then s1.poisonIa (some k) ia d.length else s1) d
    | .bad b => .bad (fcodeOf b) 0
    | .hold => .hold
  else if s.fab.down (deviceOf ia) then .bad 0xA (s.remoteAux ia)
  else match s.ask ⟨.write, ia, d.length, d, [], 0, cp == 3, poison, 0, none⟩ (s.fab.epochOf (deviceOf ia)) none o with
    | some (s1, q) => .sent s1 (deviceOf ia) q
    | none => .hold

/-- Reads one piece for command `c` of core `k`. -/
def State.engRead (s : State) (k : Nat) (w : Crew) (x : Ctx) (c : EngCmd) (sp a n cp : Nat) : Moved :=
  match s.engPlace w x sp a n .r with
  | .error e => .bad (fcodeOf e) 0
  | .ok (.chip o, _) => if s.chip.poisoned 8 o n then .bad 0xC 0 else .ok s (s.chip.read o n)
  | .ok (.scr m o, _) =>
    match s.member? w m with
    | none => .hold
    | some (k2, v) => if s.scrPoisoned k2 v o n then .bad 0xC 0 else .ok s (s.scrRead k2 v o n)
  | .ok (.priv _, _) => .hold
  | .ok (.ia ia, wcp) => s.farRead k ia n (policy cp wcp) (.eng k c.id 0)

/-- Writes one piece, which lies in one line: at CORE scope into the L1 of its core (R229, R230). -/
def State.engWrite (s : State) (k : Nat) (w : Crew) (x : Ctx) (c : EngCmd) (sp a cp : Nat) (d : List Byte) : Moved :=
  match s.engPlace w x sp a d.length .w with
  | .error e => .bad (fcodeOf e) 0
  | .ok (.chip o, _) => .ok { s with chip := s.chip.write 8 o d } d
  | .ok (.scr m o, _) =>
    match s.member? w m with
    | none => .hold
    | some (k2, v) => .ok (s.scrWrite k2 v o d) d
  | .ok (.priv _, _) => .hold
  | .ok (.ia ia, wcp) =>
    if c.wide = 1 && policy cp wcp ≤ 1 && s.localIa ia then
      match s.iaWrite (some k) (some engSlot) ia d (policy cp wcp) with
      | .ok s1 _ => .ok s1 d
      | .bad b => .bad (fcodeOf b) 0
      | .hold => .hold
    else s.farWrite k ia (policy cp wcp) d false (.eng k c.id 1)

/-- Bytes of a piece at `a` of at most `n`: up to the next 64-byte boundary. -/
def pieceLen (a n : Nat) : Nat := min n (64 - a % 64)

/-! ### Units -/

/-- A unit: its source address (none for zeros or a pattern), source bytes, destination address, destination bytes, the
row number that SWZ uses, the status position, and whether it is a row whose index is out of range. -/
structure EngUnit where
  src  : Option Nat
  rd   : Nat
  dst  : Nat
  wr   : Nat
  row  : Nat
  pos  : Nat
  void : Bool
  deriving DecidableEq, Repr

/-- An address plus a multiple of a stride, modulo 2^64. -/
def stride (a : Nat) (i : Nat) (d : Int) : Nat := ((a + i * d) % 2 ^ 64).toNat

/-- Bytes of the next 64-byte block of a linear command, from byte `i` of the destination. -/
def EngCmd.chunk (c : EngCmd) : Nat := 32 * c.esz
/-- Destination bytes before unit `i` of a linear command: units end at 64-byte boundaries of the destination. -/
def EngCmd.linOff (c : EngCmd) (i : Nat) : Nat := if i = 0 then 0 else min c.len (64 * i - c.dst % 64)

/-- How many units a command has. -/
def EngCmd.units (c : EngCmd) : Nat :=
  if c.fn = 0 ∨ c.fn = 5 then (if c.len = 0 then 0 else (c.dst % 64 + c.len + 63) / 64)
  else if c.fn = 1 then c.cnt
  else if c.fn = 2 ∨ c.fn = 3 then c.idx.length
  else if c.fn = 4 then 16 * c.idx.length
  else if c.fn = 6 ∨ c.fn = 7 then (c.len + c.chunk - 1) / c.chunk
  else if c.fn = 0x20 then c.len / 4096
  else 0

/-- Unit `i` of a copy command. -/
def EngCmd.unit (c : EngCmd) (i : Nat) : EngUnit :=
  if c.fn = 0 ∨ c.fn = 5 then
    let o := c.linOff i
    let n := c.linOff (i + 1) - o
    ⟨if c.fn = 0 then some (c.src + o) else none, n, c.dst + o, n, 0, 0, false⟩
  else if c.fn = 1 then ⟨some (stride c.src i c.sstr), c.rowb, stride c.dst i c.dstr, c.rowb, i, 0, false⟩
  else if c.fn = 2 then
    let x := c.idx.getD i 0
    ⟨if x < c.u 0x20 4 then some (stride c.src x c.sstr) else none, c.rowb, stride c.dst i c.dstr, c.rowb, i, i, false⟩
  else if c.fn = 3 then
    let x := c.idx.getD i 0
    ⟨some (stride c.src i c.sstr), c.rowb, stride c.dst x c.dstr, c.rowb, 0, i, decide (c.u 0x20 4 ≤ x)⟩
  else if c.fn = 4 then
    let g := c.idx.getD (i / 16) 0
    ⟨some (stride c.src (16 * g + i % 16) c.sstr), c.rowb, stride c.dst i c.dstr, c.rowb, i, g, false⟩
  else if c.fn = 6 then
    let n := min c.chunk (c.len - i * c.chunk)
    ⟨some (c.src + i * c.chunk), n, c.dst + c.pos, 0, 0, 0, false⟩
  else if c.fn = 7 then
    let n := min c.chunk (c.len - i * c.chunk)
    ⟨some (c.src + c.pos), 4, c.dst + i * c.chunk, n, 0, 0, false⟩
  else ⟨some (c.src + i * 4096), 4096, c.dst + c.pos, 4096, 0, 0, false⟩

/-- SWZ (R236): the row whose byte at each place is the source byte that lands there. -/
def swizzle (i : Nat) (d : List Byte) : List Byte :=
  (List.range d.length).map fun b =>
    d.getD (b / 128 * 128 + ((b % 128 / 16) ^^^ (i % 8)) * 16 + b % 16) 0

/-- Whether an element of CPY.ZC is zero (R240). -/
def zeroElem (flt : Bool) (e : List Byte) : Bool :=
  let x := ofBytes e
  x == 0 || (flt && x == 2 ^ (8 * e.length - 1))
/-- The elements of a chunk. -/
def elemsOf (k n : Nat) (d : List Byte) : List (List Byte) := (List.range n).map fun i => sliceOf d (k * i) k
/-- A number of bytes rounded up to a multiple of 4. -/
def upTo4 (n : Nat) : Nat := (n + 3) / 4 * 4
/-- A compressed chunk: the presence mask, then the nonzero elements, padded (R240). -/
def compress (k : Nat) (flt : Bool) (d : List Byte) : List Byte :=
  let es := elemsOf k (d.length / k) d
  let mask := (List.range es.length).foldl (fun a i => if zeroElem flt (es.getD i []) then a else a + 2 ^ i) 0
  let body := (es.filter fun e => !zeroElem flt e).flatMap id
  toBytes 4 mask ++ body ++ List.replicate (upTo4 body.length - body.length) 0
/-- Elements that a mask sets among the first `n`. -/
def maskBits (m : Nat) : Nat → Nat
  | 0 => 0
  | n + 1 => (if m.testBit n then 1 else 0) + maskBits m n
/-- The chunk a compressed chunk restores: `n` elements of `k` bytes (R240). -/
def expand (k n mask : Nat) (body : List Byte) : List Byte :=
  (List.range n).flatMap fun i =>
    if mask.testBit i then sliceOf body (k * maskBits mask i) k else List.replicate k 0

/-- Source bytes that the present unit of a command needs. -/
def EngCmd.needs (c : EngCmd) (u : EngUnit) : Nat :=
  if u.src.isNone || u.void then 0
  else if c.fn = 7 ∧ 4 ≤ c.part.length then
    4 + upTo4 (c.esz * maskBits (ofBytes (c.part.take 4)) (u.wr / c.esz))
  else u.rd

/-- The bytes the present unit writes. -/
def EngCmd.output (c : EngCmd) (u : EngUnit) : List Byte :=
  if u.void then []
  else if c.fn = 5 then (List.range u.wr).map fun i => c.block.getD (8 + (u.dst + i - c.dst) % c.esz) 0
  else if u.src.isNone then List.replicate u.wr 0
  else if c.fn = 6 then compress c.esz c.flt c.part
  else if c.fn = 7 then expand c.esz (u.wr / c.esz) (ofBytes (c.part.take 4)) (c.part.drop 4)
  else if c.fn = 0x20 then (if c.ctl = 1 then c.part else toBytes 8 (c.cursor * 4096) ++ sliceOf c.block 0x20 8 ++ c.part)
  else if c.swz then swizzle u.row c.part
  else c.part

/-- What the present unit counts on the object. -/
def EngCmd.unitCount (c : EngCmd) (u : EngUnit) : Nat :=
  if c.fn = 6 then u.rd else if c.fn = 7 then u.wr else if c.fn = 0x20 then 4096 else u.wr

/-! ### A command's state on its core -/

def State.engCmd? (s : State) (k id : Nat) : Option EngCmd := (s.coreAt k).eng.find? fun c => c.id == id
def State.setEng (s : State) (k : Nat) (c : EngCmd) : State :=
  s.modCore k fun x => { x with eng := x.eng.map fun e => if e.id = c.id then c else e }

/-- Counts `n` bytes on the command's object, of which `f` in OUTB and the rest in INB (R234). -/
def State.engTally (s : State) (k : Nat) (c : EngCmd) (n f : Nat) : State :=
  s.objCount k c.crew c.obj (BitVec.ofNat 32 (n - f)) (BitVec.ofNat 32 f)

/-- The addresses at which what GLB leads to can change: the edges of the windows, where a window's IA passes to the next
device (08_memory.md R182), and the end of the addresses that windows cover (R180). -/
def Ctx.edges (x : Ctx) : List Nat :=
  2 ^ 57 :: (List.range 16).flatMap fun v =>
    [x.vbase v, x.vbase v + x.vsize v, x.vbase v + (2 ^ 48 - x.iabase v % 2 ^ 48)]
/-- Whether a GLB address leads to another device. -/
def Ctx.leadsFar (x : Ctx) (s : State) (a : Nat) : Bool :=
  match x.window (BitVec.ofNat 64 a) with
  | some v => !s.localIa ((x.iabase v + (a - x.vbase v)) % 2 ^ 56)
  | none => false
/-- Of the bytes `a` to `a + n - 1` of GLB, none of them past 2^64, those that lead to another device: the edges cut the range
into stretches of one kind. -/
def Ctx.farStretch (x : Ctx) (s : State) (a n : Nat) : Nat :=
  let edges := x.edges.filter fun e => decide (a < e) && decide (e < a + n)
  (a :: edges).eraseDups.foldl (fun t e =>
    if x.leadsFar s e then t + (edges.foldl (fun m d => if e < d then min m d else m) (a + n) - e) else t) 0
/-- Of `n` bytes of GLB from address `a`, modulo 2^64, those that lead to another device (R234). -/
def Ctx.farIn (x : Ctx) (s : State) (a n : Nat) : Nat :=
  let b := a % 2 ^ 64
  if b + n ≤ 2 ^ 64 then x.farStretch s b n else x.farStretch s b (2 ^ 64 - b) + x.farStretch s 0 (b + n - 2 ^ 64)

/-- Of the bytes that a unit counts, those that count in OUTB: those that go to another device (R234), for a compressed
chunk by where its output begins; all bytes of CKPT (R243), none of a collective (R241). -/
def EngCmd.unitFar (c : EngCmd) (s : State) (x : Ctx) (u : EngUnit) : Nat :=
  if c.fn = 0x20 then c.unitCount u
  else if c.isColl || c.dsp != 4 then 0
  else if c.fn = 6 then (if x.farIn s u.dst 1 = 0 then 0 else c.unitCount u)
  else x.farIn s u.dst u.wr
/-- The same of all that a command has still to count. -/
def EngCmd.restFar (c : EngCmd) (s : State) (x : Ctx) : Nat :=
  if c.fn = 0x20 then c.left
  else if c.isColl || c.dsp != 4 then 0
  else if c.fn = 6 then (if x.farIn s (c.dst + c.pos) 1 = 0 then 0 else c.left)
  else if c.fn = 0 ∨ c.fn = 5 ∨ c.fn = 7 then x.farIn s (c.dst + (c.len - c.left)) c.left
  else (List.range (c.units - c.cursor)).foldl (fun t i =>
    let u := c.unit (c.cursor + i)
    t + x.farIn s u.dst u.wr) 0

/-- The status area: one bit per position or group (R237, R239). -/
def State.engStatus (s : State) (k : Nat) (w : Crew) (c : EngCmd) : State :=
  if c.listed && c.stat != BitVec.allOnes 64 && w.holds c.stat.toNat ((c.cnt + 7) / 8) then
    s.scrWrite k w c.stat.toNat ((List.range ((c.cnt + 7) / 8)).map fun j =>
      BitVec.ofNat 8 ((List.range 8).foldl (fun a i => if c.bits.contains (8 * j + i) then a + 2 ^ i else a) 0))
  else s

/-- The first error of a command: Err on its object, and a record in the context's log (R227). -/
def State.engError (s : State) (k : Nat) (w : Crew) (c : EngCmd) (code aux addr : Nat) : State × EngCmd :=
  match c.fault with
  | some _ => (s, c)
  | none =>
    let s1 := s.objErr k c.crew c.obj code aux
    let word := match s1.hereAt k c.slot with | some h => s1.peekWord h c.p | none => 0
    (s1.logRec w.task.ctx ⟨6, 0, 0, k, c.slot, c.p, unitDetail code aux c.fn c.obj addr, word, w.task.id⟩,
      { c with fault := some (code, aux) })

/-- A command has nothing left to do but its reply; at SYSTEM scope what it wrote to host memory has completed there (R229,
08_memory.md R202). -/
def State.engEnd (s : State) (k : Nat) (c : EngCmd) : State :=
  (if c.wide = 5 then s.hostPush else s).setEng k { c with finished := true }

/-- A command stops on a fault: its error, then the bytes it will not write are counted down (R227). `status` writes the
status area, in which every position not done stands as 1. -/
def State.engStop (s : State) (k : Nat) (w : Crew) (c : EngCmd) (code aux addr : Nat) (status : Bool) : State :=
  let (s1, c1) := s.engError k w c code aux addr
  let c2 := { c1 with
    left := 0, far := 0, sent := none,
    count := if c.fn = 0 ∨ c.fn = 1 ∨ c.fn = 5 ∨ c.fn = 6 ∨ c.isColl = true ∨ (c.fn = 0x20 ∧ c.ctl = 1) then c.count + c.woff
      else c.count,
    bits := if c.fn = 4 then c.bits ++ c.idx.drop (c.cursor / 16)
            else c.bits ++ (List.range (c.idx.length - c.cursor)).map (· + c.cursor) }
  let s2 := if status then s1.engStatus k w c2 else s1
  let far := match s.ctx? w.task.ctx with | some x => c.restFar s x | none => 0
  (s2.engEnd k c2).engTally k c c.left far

/-! ### Starting (R227, R230, R233, R241, R243) -/

/-- The windows that a range of addresses passes through: those a window's edge or the range's start names (R230). -/
def Ctx.windowsOf (x : Ctx) (a n : Nat) : List Nat :=
  let edges := (List.range 16).flatMap fun v => [x.vbase v, x.vbase v + x.vsize v]
  ((a :: edges).filter fun e => decide (a ≤ e) && (decide (e < a + n) || e == a)).filterMap fun e =>
    x.window (BitVec.ofNat 64 e)

/-- The GLB ranges a command's block names; `left` still holds all the bytes that it counts, a collective's whole DST. -/
def EngCmd.ranges (c : EngCmd) : List (Nat × Nat) :=
  let rows := (List.range c.units).map c.unit
  if c.fn = 0 then (if c.ssp = 4 then [(c.src, c.len)] else []) ++ (if c.dsp = 4 then [(c.dst, c.len)] else [])
  else if c.fn = 5 then (if c.dsp = 4 then [(c.dst, c.len)] else [])
  else if c.fn = 6 then
    (if c.ssp = 4 then [(c.src, c.len)] else []) ++ (if c.dsp = 4 then [(c.dst, c.u 0x1C 4)] else [])
  else if c.fn = 7 then
    (if c.ssp = 4 then [(c.src, c.u 0x1C 4)] else []) ++ (if c.dsp = 4 then [(c.dst, c.len)] else [])
  else if c.fn = 0x20 then [(c.src, c.len), (c.dst, c.len)]
  else if c.isColl then
    (if c.ssp = 4 then [(c.src, c.len)] else []) ++ (if c.dsp = 4 then [(c.dst, c.left)] else [])
  else
    (if c.ssp = 4 then (c.src, 0) :: rows.filterMap fun u => u.src.map (·, u.rd) else [])
    ++ (if c.dsp = 4 then (c.dst, 0) :: (rows.filter fun u => !u.void).map fun u => (u.dst, u.wr) else [])

/-- The DSC codes a command's windows give, with their numbers. -/
def EngCmd.windows (c : EngCmd) (x : Ctx) : List Nat := (c.ranges.flatMap fun r => x.windowsOf r.1 r.2).eraseDups

/-- The lowest window with DSC 0, 6 or 7, which makes a command with SC = 0 raise SCOPE (R230). -/
def EngCmd.scopeBad (c : EngCmd) (x : Ctx) : Option Nat :=
  if c.sc ≠ 0 then none
  else match (c.windows x).filter fun n => x.vdsc n == 0 || decide (6 ≤ x.vdsc n) with
    | [] => none
    | a :: t => some (t.foldl min a)

/-- The command's scope (R230): SC, or the widest DSC of its windows, or CORE when it touches no GLB. -/
def EngCmd.scope (c : EngCmd) (x : Ctx) : Nat :=
  if c.sc ≠ 0 then c.sc else (c.windows x).foldl (fun a n => max a (x.vdsc n)) 1

/-- The element size of a collective's DT (R241). -/
def dtBytes (dt : Nat) : Nat := if dt = 3 then 2 else if dt = 4 then 8 else 4
def EngCmd.dt (c : EngCmd) : Nat := c.ctl / 2 ^ 6 % 8
def EngCmd.cop (c : EngCmd) : Nat := c.ctl / 2 ^ 9 % 4
def EngCmd.exact (c : EngCmd) : Bool := c.ctl.testBit 11
def EngCmd.kx (c : EngCmd) : BitVec 32 := BitVec.ofNat 32 (c.u 0x24 4)

/-- The team descriptor: NMEM, MYIDX, TEAMID, member list (R241). -/
def State.teamOf (s : State) (k : Nat) (w : Crew) (c : EngCmd) : Nat × Nat × BitVec 32 × List Nat :=
  let d := s.scrRead k w (c.u 0x20 4) 264
  let n := ofBytes (d.take 2)
  (n, ofBytes (sliceOf d 2 2), BitVec.ofNat 32 (ofBytes (sliceOf d 4 4)), (sliceOf d 8 n).map (·.toNat))

/-- The rules of R241 on a collective's own block. -/
def EngCmd.collBlockOk (c : EngCmd) (w : Crew) : Bool :=
  let team := c.u 0x20 4
  (c.ssp == 3 || c.ssp == 4) && (c.dsp == 3 || c.dsp == 4) && decide (c.dt ≤ 4) && decide (c.cop ≤ 2)
  && decide (c.ctl < 2 ^ 12)
  && (!c.exact || (c.cop == 0 && (c.dt == 2 || c.dt == 3)))
  && c.len % dtBytes c.dt == 0
  && (c.fn == 0x13 || c.u 0x1C 4 == 0)
  && (if c.exact then decide (-1024 ≤ c.kx.toInt) && decide (c.kx.toInt ≤ 1023) else c.kx == 0)
  && ((List.range 24).all fun i => c.block.getD (0x28 + i) 0 == 0)
  && team % 8 == 0 && w.holds team 8
/-- Whether the team descriptor can be read: its size is legal, and it lies within the allotment (R241). -/
def State.teamInside (s : State) (k : Nat) (w : Crew) (c : EngCmd) : Bool :=
  let n := (s.teamOf k w c).1
  c.u 0x20 4 % 8 == 0 && w.holds (c.u 0x20 4) 8 && decide (2 ≤ n) && decide (n ≤ 256) && w.holds (c.u 0x20 4) (8 + n)
/-- The rules of R241 that the team descriptor takes part in. -/
def State.collTeamOk (s : State) (k : Nat) (w : Crew) (c : EngCmd) : Bool :=
  let t := s.teamOf k w c
  c.len % ((if c.fn = 0x11 then max t.1 1 else 1) * dtBytes c.dt) == 0
  && (c.fn != 0x13 || decide (c.u 0x1C 4 < t.1))
  && s.teamInside k w c && decide (t.2.1 < t.1) && t.2.2.2.getD t.2.1 256 == s.domidx.toNat

/-- The collectives that every core holds. -/
def State.allColls (s : State) : List (Nat × EngCmd) :=
  s.cores.flatMap fun e => (e.2.eng.filter fun c => c.isColl && !c.finished).map (e.1, ·)
/-- The TEAMID of a collective that has not started, when its descriptor can be read. -/
def State.teamId (s : State) (k : Nat) (c : EngCmd) : Option (BitVec 32) :=
  match s.crew? k c.crew with
  | some w => if s.teamInside k w c then some (s.teamOf k w c).2.2.1 else none
  | none => none
/-- Whether a collective of the same team was issued here before and has not started: the members issue the collectives
of a team in one order (R241), by which their messages find them (14_fabric.md R343). -/
def State.collBehind (s : State) (k : Nat) (c : EngCmd) : Bool :=
  match s.teamId k c with
  | none => false
  | some t => s.allColls.any fun e => decide (e.2.id < c.id) && !e.2.started && s.teamId e.1 e.2 == some t

/-- The rules of R243 on a CKPT block. -/
def EngCmd.ckptOk (c : EngCmd) (w : Crew) : Bool :=
  decide (c.ctl ≤ 1) && c.src % 65536 == 0 && c.dst % 16 == 0 && c.len % 65536 == 0
  && ((List.range 24).all fun i => c.block.getD (0x28 + i) 0 == 0)
  && (c.stat == BitVec.allOnes 64 || w.holds c.stat.toNat 8)

/-- CKPT copies local memory, and a collective's SRC and DST are CHIP or local GLB (R241, R243): no window that they pass
through leads to another device (DEDUCED, assumption log entry 57). -/
def EngCmd.near (c : EngCmd) (s : State) (x : Ctx) : Bool :=
  ((if c.fn = 0x20 then [(c.src, c.len)] else if c.isColl then c.ranges else []).flatMap fun r => x.windowsOf r.1 r.2).all
    fun v => s.localIa (x.iabase v)

/-- The L2 writes back every dirty line of a local range before CKPT copies it (R243 step 1). -/
def State.ckptClean (s : State) (x : Ctx) (c : EngCmd) : State :=
  s.l2.keys.foldl (fun s line =>
    if (List.range 16).any fun v =>
      let ia := line * 128
      decide (x.iabase v ≤ ia) && decide (ia < x.iabase v + x.vsize v)
        && x.window (BitVec.ofNat 64 (x.vbase v + (ia - x.iabase v))) == some v
        && decide (c.src ≤ x.vbase v + (ia - x.iabase v)) && decide (x.vbase v + (ia - x.iabase v) < c.src + c.len)
    then s.l2Back line else s) s

/-- Whether what a command reads to start is poisoned: its index list or mask, or its team descriptor (R227). -/
def State.listPoisoned (s : State) (k : Nat) (w : Crew) (c : EngCmd) : Bool :=
  if c.isColl then
    s.scrPoisoned k w (c.u 0x20 4) 8 || (s.teamInside k w c && s.scrPoisoned k w (c.u 0x20 4) (8 + (s.teamOf k w c).1))
  else c.listed && s.scrPoisoned k w c.listAt c.listBytes

/-- A command at its start: its list, what it counts, its scope, and a collective's values with its step, which is the
number of its team's collectives begun before it. -/
def State.engBegin (s : State) (k : Nat) (w : Crew) (x : Ctx) (c : EngCmd) : EngCmd :=
  let idx := if c.listed && c.listInside w then s.readList k w c else []
  let t := s.teamOf k w c
  let c1 := { c with
    started := true, idx := idx,
    left := if c.fn = 0x11 then c.len / t.1 else if c.fn = 0x12 then t.1 * c.len else c.total idx }
  { c1 with
    wide := c1.scope x,
    coll := if c.isColl then some ⟨t.2.2.1, s.fab.teams.get 0 t.2.2.1.toNat, t.1, t.2.1, t.2.2.2, BitVec.ofNat 64 c.ctl, c.len,
      c.kx, [], [], c.since⟩ else none }

/-- A collective of a team has begun here. -/
def State.countTeam (s : State) (k : Nat) (w : Crew) (c : EngCmd) : State :=
  if c.isColl && s.teamInside k w c then
    s.modFab fun f => { f with teams := f.teams.put (s.teamOf k w c).2.2.1.toNat (f.teams.get 0 (s.teamOf k w c).2.2.1.toNat + 1) }
  else s

/-- The first step of a command: the checks of its block, poison in its list or descriptor, those of its descriptor, then
SCOPE (R227, R230, R233; DEDUCED, assumption log entry 77); OOB under STRICT before any row moves (R237). The band's
earlier writes are performed at the command's scope (R203, R229). -/
def State.engStart (s0 : State) (k : Nat) (w : Crew) (x : Ctx) (c0 : EngCmd) : State :=
  let c := s0.engBegin k w x c0
  let s := s0.countTeam k w c0
  let first := if c.isColl then c.collBlockOk w else if c.fn = 0x20 then c.ckptOk w else c.blockOk && c.listOk w
  let stop := fun (code aux : Nat) => s.engStop k w { c with coll := none } code aux 0 false
  if !first then stop 1 0
  else if s.listPoisoned k w c then stop 0xC 0
  else if !((!c.isColl || s.collTeamOk k w c) && c.near s x) then stop 1 0
  else match c.scopeBad x with
    | some n => stop 0x10 n
    | none =>
      match (if c.strict && (c.fn == 2 || c.fn == 3) then
          (List.range c.idx.length).find? fun i => decide (c.u 0x20 4 ≤ c.idx.getD i 0) else none) with
      | some i => stop 2 i
      | none =>
        let s1 := if 2 ≤ c.wide then s.release k c.slot c.wide else s
        (if c.fn = 0x20 then s1.ckptClean x c else s1).setEng k c

/-- Whether a command may write one aligned 64-bit location in two steps: its rows or its packed output do not keep to such
locations, or a collective's elements are not aligned (R229, R242). -/
def EngCmd.edgy (c : EngCmd) : Bool :=
  (decide (1 ≤ c.fn) && decide (c.fn ≤ 4) && (c.rowb % 8 != 0 || c.dst % 8 != 0 || c.dstr % 8 != 0))
  || c.fn == 6 || (c.fn == 7 && c.dst % 8 != 0) || (c.isColl && c.dst % dtBytes c.dt != 0)
/-- Whether a command is between its start and its end, for a collective from its first write on. -/
def EngCmd.moving (c : EngCmd) : Bool := c.started && !c.finished && (!c.isColl || decide (2 ≤ c.cursor))
/-- Whether a command may begin to move bytes: no command moves beside one that writes 64-bit locations in parts, so that each
location that two commands write ends with one command's value (R229). -/
def State.mayMove (s : State) (c : EngCmd) : Bool :=
  (s.cores.flatMap fun e => e.2.eng).all fun d => d.id == c.id || !d.moving || !(c.edgy || d.edgy)

/-! ### Moving bytes -/

/-- A unit is done: it is counted, the last one only when the command completes (R229); its position's bit is set when it is
a zero-filled or unwritten row (R237); the reply advances. -/
def State.engNext (s : State) (k : Nat) (x : Ctx) (c : EngCmd) (u : EngUnit) (wrote : Nat) : State :=
  let last := decide (c.units ≤ c.cursor + 1)
  let n := if last then 0 else c.unitCount u
  let f := c.unitFar s x u
  let c1 := { c with
    cursor := c.cursor + 1, part := [], woff := 0, left := c.left - n, far := if last then f else 0,
    count := if c.fn = 2 ∨ c.fn = 3 ∨ c.fn = 4 then (if u.src.isNone || u.void then c.count else c.count + 1)
      else if c.fn = 6 then c.count + wrote
      else if c.fn = 7 then c.count + c.part.length
      else if c.fn = 0x20 then (if c.ctl = 1 then c.count + 4096 else if wrote = 0 then c.count else c.count + 1)
      else c.count + wrote,
    pos := if c.fn = 7 then c.pos + c.part.length else c.pos + wrote,
    bits := if (c.fn = 2 ∧ u.src.isNone = true) ∨ u.void = true then c.bits ++ [u.pos] else c.bits }
  ((s.setEng k c1).engTally k c n (if last then 0 else f)).spend k c.crew 7 (c.unitCount u)

/-- A row that cannot arrive under a remote fault: it is marked missing and counted, the last one only when the command
completes, the object takes the error, and the command goes on (R229, R238). -/
def State.engMissing (s : State) (k : Nat) (w : Crew) (x : Ctx) (c : EngCmd) (u : EngUnit) (code aux addr : Nat) : State :=
  let (s1, c1) := s.engError k w c code aux addr
  let last := decide (c.units ≤ c.cursor + 1)
  let n := if last then 0 else c.unitCount u
  let f := c.unitFar s x u
  (s1.setEng k { c1 with
    cursor := c.cursor + 1, part := [], woff := 0, left := c.left - n, far := if last then f else 0, sent := none,
    bits := if c.bits.contains u.pos then c.bits else c.bits ++ [u.pos] }).engTally k c n (if last then 0 else f)

/-- A fault at an address: a remote source row of a listed function is missing; anything else stops the command. -/
def State.engFault (s : State) (k : Nat) (w : Crew) (x : Ctx) (c : EngCmd) (u : EngUnit) (src : Bool) (code aux addr : Nat) :
    State :=
  if src && c.listed && fcodeRemote code then s.engMissing k w x c u code aux addr
  else s.engStop k w c code aux addr true

/-- Whether a CKPT granule of mode 0 is to be copied, with its bit cleared: dirty, and in HBM (R243, R185); or the FCODE
of the fault that its address meets. -/
def State.ckptTake (s : State) (x : Ctx) (a : Nat) : Except Nat (State × Bool) :=
  match x.win (BitVec.ofNat 64 a) .r with
  | .ok (ia, _) =>
    match s.walk (localPart ia) with
    | .leaf l =>
      if l.mt = 0 && s.granules.contains (l.pa / 4096) then
        .ok ({ s with granules := s.granules.filter fun g => g != l.pa / 4096 }, true)
      else .ok (s, false)
    | .bad b _ => .error (fcodeOf b)
  | .error e => .error (fcodeOf e)

/-- One step of a copy command: its next piece read or written, or the end of a unit. -/
def State.engStep (s : State) (k : Nat) (w : Crew) (x : Ctx) (c : EngCmd) : State :=
  if c.units ≤ c.cursor then
    let s1 := s.engStatus k w c
    let s2 := if c.fn = 0x20 && c.stat != BitVec.allOnes 64 then s1.scrWrite k w c.stat.toNat (toBytes 8 c.count) else s1
    s2.engEnd k c
  else
    let u := c.unit c.cursor
    if c.part.length < c.needs u then
      let a := (u.src.getD 0 + c.part.length) % 2 ^ 64
      let skip := if c.fn = 0x20 ∧ c.ctl = 0 ∧ c.part.isEmpty = true then s.ckptTake x a else .ok (s, true)
      match skip with
      | .ok (s0, false) => s0.engNext k x c u 0
      | .ok (s0, true) =>
        if c.fn = 7 ∧ c.u 0x1C 4 < c.pos + c.needs u then s.engStop k w c 0xE (c.cursor % 2 ^ 16) a true
        else if c.fn = 7 ∧ 4 ≤ c.part.length ∧ 2 ^ (u.wr / c.esz) ≤ ofBytes (c.part.take 4) then
          s.engStop k w c 0xE (c.cursor % 2 ^ 16) a true
        else
          match s0.engRead k w x c c.ssp a (pieceLen a (c.needs u - c.part.length)) c.scp with
          | .ok s1 d => s1.setEng k { c with part := c.part ++ d }
          | .sent s1 dst q => s1.setEng k { c with sent := some (dst, q) }
          | .bad code aux => s.engFault k w x c u true code aux a
          | .hold => s
      | .error e => s.engFault k w x c u true e 0 a
    else
      let out := c.output u
      if c.fn = 7 ∧ 2 ^ (u.wr / c.esz) ≤ ofBytes (c.part.take 4) then s.engStop k w c 0xE (c.cursor % 2 ^ 16) c.src true
      else if c.fn = 6 ∧ c.u 0x1C 4 < c.pos + out.length then s.engStop k w c 0xD 0 (c.dst + c.pos) true
      else if out.length ≤ c.woff then s.engNext k x c u out.length
      else
        let a := (u.dst + c.woff) % 2 ^ 64
        match s.engWrite k w x c c.dsp a c.dcp (sliceOf out c.woff (pieceLen a (out.length - c.woff))) with
        | .ok s1 d => s1.setEng k { c with woff := c.woff + d.length }
        | .sent s1 dst q => s1.setEng k { c with sent := some (dst, q) }
        | .bad code aux => s.engFault k w x c u false code aux a
        | .hold => s

/-! ### Collectives (R241, R242, 14_fabric.md R343, R344) -/

/-- An element of DT from its bits, as a value. -/
def dtFmt (dt : Nat) : Fmt := if dt = 3 then fmtBF16 else fmtF32
/-- Whether DT is a float kind. -/
def dtFlt (dt : Nat) : Bool := dt == 2 || dt == 3

/-- Float ADD without EXACT: pairs are combined in an order that nothing fixes; each draw of a free value chooses the next
pair (R242). -/
def treeAdd (f : Fmt) : Nat → State → List Nat → BitVec 9 → State × Nat × BitVec 9
  | 0, s, l, fl => (s, l.headD 0, fl)
  | fuel + 1, s, l, fl =>
    if l.length ≤ 1 then (s, l.headD 0, fl)
    else
      let (a, s1) := s.draw
      let (b, s2) := s1.draw
      let i := a % l.length
      let j := b % (l.length - 1)
      let x := l.getD i 0
      let rest := l.eraseIdx i
      let r := addNum 0 (f.decode false x) (f.decode false (rest.getD j 0))
      let q := f.round 0 false false r.1
      treeAdd f fuel s2 (rest.set j q.1) (fl ||| r.2 ||| q.2)

/-- EXACT: each term rounded alone to t = x × 2^−KX, summed exactly, read out once under R156 to R158 (R242). -/
def exactSum (f : Fmt) (kx : Int) (l : List Nat) : Nat × BitVec 9 :=
  let vs := l.map (f.decode false)
  if vs.any fun v => match v with | .fin _ _ _ _ => false | _ => true then (f.nanCode, flIV)
  else
    let ts := vs.map fun v => match v with
      | .fin n a d e => roundInt 0 n a d (e - kx)
      | _ => (0, false)
    let sum := (ts.map (·.1)).foldl (· + ·) 0
    let ax := ts.any (·.2)
    let ao := decide (sum < -(2 ^ 127)) || decide (2 ^ 127 ≤ sum)
    let r := f.round 0 false false (.ofInt (BitVec.ofInt 128 sum).toInt kx)
    (r.1, r.2 ||| flagIf (ax || r.2.getLsbD 0) flAX ||| flagIf ao flAO)

/-- One element of a reduction over the members' values. -/
def State.reduce (s : State) (dt op : Nat) (exact : Bool) (kx : Int) (l : List Nat) : State × Nat × BitVec 9 :=
  if dtFlt dt then
    if exact then let r := exactSum (dtFmt dt) kx l; (s, r.1, r.2)
    else if op = 0 then treeAdd (dtFmt dt) l.length s l 0
    else
      let r := l.foldl (fun (a : FNum × BitVec 9) x =>
        let p := pickNum (op == 2) a.1 ((dtFmt dt).decode false x)
        (p.1, a.2 ||| p.2)) (.nan false, 0)
      (s, ((dtFmt dt).round 0 false false r.1).1, r.2)
  else
    let w := 8 * dtBytes dt
    let v := fun (x : Nat) => if dt = 1 then (x : Int) else signedOf w x
    let r := if op = 0 then (l.map v).foldl (· + ·) 0
      else if op = 1 then foldFirst min 0 (l.map v) else foldFirst max 0 (l.map v)
    (s, lowBits w r, 0)

/-- The bytes of a reduction over the members' contributions, element by element. -/
def State.reduceAll (s : State) (c : EngCmd) (ds : List (List Byte)) : List Nat → State × List Byte × BitVec 9
  | [] => (s, [], 0)
  | e :: t =>
    let k := dtBytes c.dt
    let (s1, x, f) := s.reduce c.dt c.cop c.exact c.kx.toInt (ds.map fun d => ofBytes (sliceOf d (k * e) k))
    let (s2, r, g) := State.reduceAll s1 c ds t
    (s2, toBytes k x ++ r, f ||| g)

/-- The result at this member once every contribution is here (R241). -/
def State.collResult (s : State) (c : EngCmd) (x : Coll) : State × List Byte × BitVec 9 :=
  let data := fun (j : Nat) => if j = x.me then x.own else match x.got.find? fun g => g.1 == j with | some g => g.2 | none => []
  let all := (List.range x.nmem).map data
  let n := c.len / dtBytes c.dt
  if c.fn = 0x10 then s.reduceAll c all (List.range n)
  else if c.fn = 0x11 then
    s.reduceAll c all ((List.range (n / x.nmem)).map (· + x.me * (n / x.nmem)))
  else if c.fn = 0x12 then (s, all.flatMap id, 0)
  else (s, data (c.u 0x1C 4), 0)

/-- A collective's values as its messages carry them, tagged with team, sender and step (14_fabric.md R343). -/
def Coll.msg (x : Coll) (dev : Nat) : CollMsg :=
  ⟨x.team, x.me, dev, x.nmem, x.members, x.ctl, x.len, x.kx, x.own, x.step⟩
/-- Whether a message belongs to a collective: its team and its step. -/
def Coll.fits (x : Coll) (m : CollMsg) : Bool := m.team == x.team && m.step == x.step
/-- Whether a message agrees with this member's values (R241). -/
def Coll.agrees (x : Coll) (m : CollMsg) : Bool :=
  m.nmem == x.nmem && m.members == x.members && m.ctl == x.ctl && m.len == x.len && m.kx == x.kx

/-- FAUX of a fault that names a member: its DOMIDX; the plane bits, which no rule gives, are free (DESIGN CHOICE, assumption log entry
21). -/
def State.memberAux (s : State) (dom : Nat) : Nat × State :=
  let (r, s1) := s.draw
  (dom + r % 8 * 2 ^ 8, s1)

/-- The member detects a disagreement or receives an abort: TEAM; when it detects, it tells the team (R241). -/
def State.collTeam (s : State) (k : Nat) (w : Crew) (c : EngCmd) (x : Coll) (aux : Nat) (tell : Bool) : State :=
  let s1 := s.engStop k w c 0x11 aux 0 true
  if tell then (x.members.filter fun d => d != s.domidx.toNat).foldl (fun s d => s.send (.teamAbort d x.team x.step aux)) s1 else s1

/-- A message, which came at a cycle, reaches a collective: one from outside the team is refused and logged; the timer runs
from the latest message (14_fabric.md R344). -/
def State.collTake (s : State) (k : Nat) (w : Crew) (c : EngCmd) (x : Coll) (at_ : Nat) (m : CollMsg) : State :=
  if !x.members.contains m.device then
    s.logRec w.task.ctx ⟨10, 0, 0, k, c.slot, c.p,
      BitVec.ofNat 96 (5 + m.device % 256 * 2 ^ 16 + s.fab.pgen.toNat * 2 ^ 24), 0, w.task.id⟩
  else if !x.agrees m then s.collTeam k w c x m.sender true
  else s.setEng k { c with coll := some { x with got := x.got ++ [(m.sender, m.data)], timer := max x.timer at_ } }

/-- Sends a member's message to member `d`, as a write into the receive area of that device; which stripe of the area it
takes, no rule gives: a free value (14_fabric.md R343; DESIGN CHOICE, assumption log entry 21). -/
def State.collSend (s : State) (k : Nat) (c : EngCmd) (x : Coll) (d : Nat) : State :=
  let (r, s1) := s.draw
  ((s1.ask ⟨.write, d * 2 ^ 48 + r % 2 ^ 48, 0, [], [], 0, false, false, 0, some (x.msg s.domidx.toNat)⟩ (s.fab.epochOf d) none
    (.coll k c.id)).map (·.1)).getD s1

/-- How many bytes of DST a collective writes next: whole elements up to the next 64-byte boundary, or one element that
lies across it (R242). -/
def EngCmd.nextBytes (c : EngCmd) (a n : Nat) : Nat :=
  let k := dtBytes c.dt
  min n (max k ((64 - a % 64) / k * k))
/-- Writes bytes of DST in one step, or, when a part of them cannot be written, none. -/
def State.collWrite (s : State) (k : Nat) (w : Crew) (v : Ctx) (c : EngCmd) (a : Nat) (d : List Byte) : Moved :=
  let m := pieceLen a d.length
  match s.engWrite k w v c c.dsp a 0 (d.take m) with
  | .ok s1 _ =>
    if d.length ≤ m then .ok s1 d
    else match s1.engWrite k w v c c.dsp (a + m) 0 (d.drop m) with
      | .ok s2 _ => .ok s2 d
      | r => r
  | r => r

/-- One step of a collective: its own data read, its messages sent, waiting messages taken, the result written. -/
def State.collStep (s : State) (k : Nat) (w : Crew) (v : Ctx) (c : EngCmd) (x : Coll) : State :=
  let others := x.members.filter fun d => d != s.domidx.toNat
  match others.find? fun d => s.fab.down d with
  | some d =>
    let (aux, s1) := s.memberAux d
    s1.engStop k w c 0xA aux 0 true
  | none =>
    match s.fab.aborts.find? fun a => a.1 == x.team && a.2.1 == x.step with
    | some a => (s.modFab fun f => { f with aborts := f.aborts.erase a }).collTeam k w c x a.2.2 false
    | none =>
      let sends := c.fn != 0x13 || c.u 0x1C 4 == x.me
      if c.cursor = 0 then
        if sends && decide (x.own.length < c.len) then
          let a := (c.src + x.own.length) % 2 ^ 64
          match s.engRead k w v c c.ssp a (pieceLen a (c.len - x.own.length)) 0 with
          | .ok s1 d => s1.setEng k { c with coll := some { x with own := x.own ++ d } }
          | .bad code aux => s.engStop k w c code aux a true
          | .sent _ _ _ | .hold => s
        else if others.any fun d => decide (4096 ≤ s.fab.openTo d) then s
        else (others.foldl (fun s d => s.collSend k c x d) s).setEng k { c with cursor := 1 }
      else if c.cursor = 1 then
        match s.fab.inbox.find? fun m => x.fits m.2 && !(x.got.any fun g => g.1 == m.2.sender) with
        | some m => (s.modFab fun f => { f with inbox := f.inbox.erase m }).collTake k w c x m.1 m.2
        | none =>
          if x.got.length + 1 < x.nmem || !s.mayMove c then s
          else
            let (s1, d, fl) := s.collResult c x
            s1.setEng k { c with cursor := 2, part := d, flags := c.flags ||| fl }
      else if c.part.length ≤ c.woff then
        (s.engEnd k { c with count := c.part.length, woff := 0 }).spend k c.crew 7 c.part.length
      else
        let a := (c.dst + c.woff) % 2 ^ 64
        match s.collWrite k w v c a (sliceOf c.part c.woff (c.nextBytes a (c.part.length - c.woff))) with
        | .ok s1 d => s1.setEng k { c with woff := c.woff + d.length }
        | .bad code aux => s.engStop k w c code aux a true
        | .sent _ _ _ | .hold => s

/-! ### ENG at issue (R220, R222, R230, R231) -/

/-- The MEM sub-cause of an object offset: 4 ALIGN, 3 RANGE, 0 none (R231, R244). -/
def Here.objCode (h : Here) (o : DWord) : Nat :=
  if o.toNat % 16 ≠ 0 then 4 else if h.crew.holds o.toNat 16 then 0 else 3

/-- The MEM sub-cause of an object operand that must name an object: all ones is RANGE (R244). -/
def Here.objNeed (h : Here) (o : DWord) : Nat := if o = BitVec.allOnes 64 then 3 else h.objCode o

/-- A precise MEM fault of a band-level instruction. -/
def Here.bandFault (h : Here) (s : State) (sub : Nat) (a : DWord) : State :=
  h.fault s 4 (memDetail sub h.band.leader false false a.toNat) h.band.running

/-- ENG (R230): waits at its limits; checks its scalar addresses; reads its block; the command joins the core's list. -/
def State.engIssue (s : State) (fn : Nat) (f : FE) : Host.Outcome State Fault Refusal :=
  s.bandOp f.g fun h =>
    let sa := h.band.sreg f.sa.toNat
    let so := h.band.sreg f.so.toNat
    match h.pairMiss h.band.running (fun _ => ()) with
    | some l => h.hwErr s 3 l h.band.running
    | none =>
      if sa.toNat % 64 ≠ 0 then h.bandFault s 4 sa
      else if !h.crew.holds sa.toNat 64 then h.bandFault s 3 sa
      else if so ≠ BitVec.allOnes 64 ∧ h.objCode so ≠ 0 then h.bandFault s (h.objCode so) so
      else if 32 ≤ (s.coreAt h.core).eng.length || decide (15 ≤ s.engCount h) || s.scrBusy h sa.toNat 64 then s
      else if s.scrPoisoned h.core h.crew sa.toNat 64 then s.killPoison h 4 (h.crew.scrUnit sa.toNat)
      else
        let (id, s1) := s.takeId
        let c : EngCmd := ⟨id, h.slot, h.band.crew, fn, s.scrRead h.core h.crew sa.toNat 64, h.band.sreg f.sb.toNat, so,
          f.sc.toNat, f.rp, f.sd.toNat, h.band.p, false, false, [], 0, [], 0, 0, 0, 0, 0, [], none, 0, none, 0, s.cycle,
          none, false⟩
        (h.retire s1 h.band).modCore h.core fun x => { x with eng := x.eng ++ [c] }

/-- ENG CPY.LIN (R235). -/
def execCpyLin (f : FE) (s : State) : Host.Outcome State Fault Refusal := s.engIssue 0x00 f
/-- ENG CPY.2D (R235). -/
def execCpy2d (f : FE) (s : State) : Host.Outcome State Fault Refusal := s.engIssue 0x01 f
/-- ENG CPY.ROWG (R237). -/
def execCpyRowg (f : FE) (s : State) : Host.Outcome State Fault Refusal := s.engIssue 0x02 f
/-- ENG CPY.ROWS (R237). -/
def execCpyRows (f : FE) (s : State) : Host.Outcome State Fault Refusal := s.engIssue 0x03 f
/-- ENG CPY.MROW (R239). -/
def execCpyMrow (f : FE) (s : State) : Host.Outcome State Fault Refusal := s.engIssue 0x04 f
/-- ENG CPY.FILL (R235). -/
def execCpyFill (f : FE) (s : State) : Host.Outcome State Fault Refusal := s.engIssue 0x05 f
/-- ENG CPY.ZC (R240). -/
def execCpyZc (f : FE) (s : State) : Host.Outcome State Fault Refusal := s.engIssue 0x06 f
/-- ENG CPY.ZD (R240). -/
def execCpyZd (f : FE) (s : State) : Host.Outcome State Fault Refusal := s.engIssue 0x07 f
/-- ENG COLL.AR (R241). -/
def execCollAr (f : FE) (s : State) : Host.Outcome State Fault Refusal := s.engIssue 0x10 f
/-- ENG COLL.RS (R241). -/
def execCollRs (f : FE) (s : State) : Host.Outcome State Fault Refusal := s.engIssue 0x11 f
/-- ENG COLL.AG (R241). -/
def execCollAg (f : FE) (s : State) : Host.Outcome State Fault Refusal := s.engIssue 0x12 f
/-- ENG COLL.BC (R241). -/
def execCollBc (f : FE) (s : State) : Host.Outcome State Fault Refusal := s.engIssue 0x13 f
/-- ENG CKPT (R243). -/
def execCkpt (f : FE) (s : State) : Host.Outcome State Fault Refusal := s.engIssue 0x20 f

/-! ### Events of the engine -/

/-- ENG_ACCEPT: the engine accepts the oldest command that may start, behind those it accepted before (R220, R229;
DEDUCED, assumption log entry 12). -/
def execEngAccept (core : Nat) (s : State) : Host.Outcome State Fault Refusal :=
  match (s.coreAt core).eng.find? fun c => !c.accepted && s.bandPast core c.slot c.crew c.id with
  | some c => .next (s.modCore core fun x => { x with
      eng := x.eng.filter (·.accepted) ++ { c with accepted := true } :: x.eng.filter fun d => !d.accepted && d.id != c.id })
  | none => .next s

/-- Whether a command's turn to start has come: the engine starts commands in the order in which it accepted them (R220),
beside no command that would mix with it, and a collective after those of its team. -/
def State.mayStart (s : State) (k : Nat) (c : EngCmd) : Bool :=
  (match (s.coreAt k).eng.find? fun d => d.accepted && !d.started with | some d => d.id == c.id | none => false)
    && (c.isColl && !s.collBehind k c || !c.isColl && s.mayMove c)

/-- One step of an accepted command. -/
def State.engGo (s : State) (k id : Nat) : State :=
  match s.engCmd? k id with
  | none => s
  | some c =>
    if !c.accepted || c.finished || c.sent.isSome then s
    else match s.crew? k c.crew with
      | none => s
      | some w =>
        match s.ctx? w.task.ctx with
        | none => s
        | some x =>
          if !c.started then (if s.mayStart k c then s.engStart k w x c else s)
          else match c.coll with
            | some v => s.collStep k w x c v
            | none => s.engStep k w x c

/-- `n` steps of a command. -/
def State.engRun (s : State) (k id : Nat) : Nat → State
  | 0 => s
  | n + 1 => State.engRun (s.engGo k id) k id n

/-- ENG_WRITE_PERFORMED: a command reads and writes its next `n` pieces (R221, R229). -/
def execEngWritePerformed (core cmd n : Nat) (s : State) : Host.Outcome State Fault Refusal :=
  .next (s.engRun core cmd n)

/-- The reply of R232. -/
def EngCmd.reply (c : EngCmd) : DWord :=
  BitVec.ofNat 64 (c.count % 2 ^ 48 + (match c.fault with | some (f, _) => f % 256 | none => 0) * 2 ^ 48)

/-- What the receive area and the aborts still hold of a collective that has ended (14_fabric.md R343). -/
def Fabric.clearColl (f : Fabric) (x : Coll) : Fabric :=
  { f with inbox := f.inbox.filter fun m => !x.fits m.2, aborts := f.aborts.filter fun a => !(a.1 == x.team && a.2.1 == x.step) }

/-- Whether messages of a collective are still on their way: it completes when its writes are performed (R229, 14_fabric.md
R343). -/
def Fabric.sending (f : Fabric) (k id : Nat) : Bool := f.reqs.any fun r => r.owner == .coll k id

/-- ENG_COMPLETE: a finished command writes its reply, raises its flags, and counts what is left (R227, R229, R232). -/
def execEngComplete (core cmd : Nat) (s : State) : Host.Outcome State Fault Refusal :=
  match s.engCmd? core cmd with
  | none => .next s
  | some c =>
    if !c.finished || c.sent.isSome || s.fab.sending core cmd then .next s
    else
      let s0 := match c.coll with | some x => s.modFab fun f => f.clearColl x | none => s
      let s1 := s0.modBand core c.slot fun b =>
        if b.crew = c.crew then (if c.rp then b.setS c.sd c.reply else b).raiseLate c.id c.flags else b
      .next ((s1.engTally core c c.left c.far).modCore core fun x => { x with eng := x.eng.filter fun e => e.id != cmd })

/-- A response to the request a command waits for: data read, or a write acknowledged; a refusal or timeout carries its
FCODE (R227, R238). -/
def State.engReply (s : State) (k id unit size code : Nat) (d : List Byte) (ia : Nat) : State :=
  match s.engCmd? k id with
  | none => s
  | some c =>
    let c1 := { c with sent := none }
    if c.finished then s.setEng k c1
    else if code = 0 then s.setEng k (if unit = 1 then { c1 with woff := c.woff + size } else { c1 with part := c.part ++ d })
    else match s.crew? k c.crew with
      | none => s
      | some w =>
        match s.ctx? w.task.ctx with
        | none => s
        | some x => s.engFault k w x c1 (c.unit c.cursor) (unit == 0) code (if code = 0xC then 0 else s.remoteAux ia) ia

/-- A message of a collective could not be delivered: it ends with the fault, which names the device and the plane of the
message (R227, 14_fabric.md R344). -/
def State.collLost (s : State) (k id code : Nat) (r : Req) : State :=
  match s.engCmd? k id with
  | none => s
  | some c =>
    match s.crew? k c.crew with
    | none => s
    | some w => s.engStop k w c code (r.dst + r.plane % 8 * 2 ^ 8) 0 true

/-- TEAM_ABORT: the member's collective of that team and step completes with TEAM (R241); an abort for one that has not
begun here is kept for it, one for a collective that has ended is not. -/
def execTeamAbort (team : TeamStep) (aux : Nat) (s : State) : Host.Outcome State Fault Refusal :=
  match s.allColls.find? fun e => match e.2.coll with | some x => x.team == team.team && x.step == team.step | none => false with
  | some (k, c) =>
    match s.crew? k c.crew, c.coll with
    | some w, some x => .next (s.collTeam k w c x aux false)
    | _, _ => .next s
  | none =>
    if team.step < s.fab.teams.get 0 team.team.toNat then .next s
    else .next (s.modFab fun f => { f with aborts := f.aborts ++ [(team.team, team.step, aux)] })

/-- The members whose messages a collective still expects, by rising index: none has been taken and none waits in the
receive area. -/
def Fabric.late (f : Fabric) (x : Coll) : List Nat :=
  (List.range x.nmem).filter fun j =>
    j != x.me && !(x.got.any fun g => g.1 == j) && !(f.inbox.any fun m => x.fits m.2 && m.2.sender == j)
/-- The cycle from which a collective's timer runs: its issue, or the latest message received (14_fabric.md R344). -/
def Fabric.timerOf (f : Fabric) (x : Coll) : Nat := f.inbox.foldl (fun t m => if x.fits m.2 then max t m.1 else t) x.timer

/-- COLL_TIMEOUT: FTMO cycles have passed since the member's issue or the last message, and a message is still missing,
of the members the lowest by index (14_fabric.md R344; DEDUCED, assumption log entry 31); the timer runs before the engine
starts the command, too. -/
def execCollTimeout (core cmd : Nat) (s : State) : Host.Outcome State Fault Refusal :=
  match s.engCmd? core cmd with
  | none => .next s
  | some c =>
    match s.crew? core c.crew with
    | none => .next s
    | some w =>
      match s.ctx? w.task.ctx with
      | none => .next s
      | some v =>
        let early := !c.started
        let d := if early then { s.engBegin core w v c with accepted := true } else c
        if !c.isColl || c.finished || (early && !(c.collBlockOk w && s.collTeamOk core w c && !s.collBehind core c)) then .next s
        else match d.coll with
          | none => .next s
          | some x =>
            match s.fab.late x with
            | [] => .next s
            | j :: _ =>
              if s.cycle < s.fab.timerOf x + s.fab.ftmo.toNat then .next s
              else
                let (aux, s1) := (if early then s.countTeam core w c else s).memberAux (x.members.getD j 0)
                .next (s1.engStop core w d 0xB aux 0 true)

end Sys2Proof.Machine
end

