-- ==== Sys2Proof/Machine/Barrier.lean ====
section
/-! DEFINITION. The barrier instructions 0xA1 to 0xA5 (09_engines.md R244, R245). -/

namespace Sys2Proof.Machine

/-- A band-level barrier instruction on the object S[SO] names: checked as R244 says (all ones is RANGE), then the
effect, which waits for the band's earlier accesses to the object's bytes (08_memory.md R190). -/
def State.objOp (s : State) (f : FE) (go : Here → DWord → State) : Host.Outcome State Fault Refusal :=
  s.bandOp f.g fun h =>
    let o := h.band.sreg f.so.toNat
    if h.objNeed o ≠ 0 then h.bandFault s (h.objNeed o) o
    else if s.scrBusy h o.toNat 16 then s
    else go h o

/-- Names an object in the crew's table (R226). -/
def State.named (s : State) (h : Here) (o : Nat) (enter : Bool) : State :=
  s.modCrew h.core h.band.crew fun w => w.nameObj o enter

/-- BINIT (R244): an arrival count above 16 bits is RANGE, with the whole of S[SA] in DETAIL. -/
def execBinit (f : FE) (s : State) : Host.Outcome State Fault Refusal :=
  s.objOp f fun h o =>
    let a := h.band.sreg f.sa.toNat
    if 2 ^ 16 ≤ a.toNat then h.bandFault s 3 a
    else ((h.retire s h.band).named h o.toNat true).objEvent h.core h.band.crew o.toNat fun _ => (Obj.init a.toNat, false)

/-- Sets the issuing band's bit in ARR of an object (R226). -/
def Crew.arrive (w : Crew) (o index : Nat) : Crew :=
  { w with objs := w.objs.map fun e => if e.off = o then { e with arr := e.arr ||| (1#32 <<< index) } else e }

/-- The status BARV writes: GEN before the arrival, ERR and ABN after it (R244). -/
def barvStatus (before after : Obj) : DWord :=
  BitVec.ofNat 64 (before.gen % 16 + (if 2 ≤ after.phase then 2 ^ 4 else 0) + (if after.phase = 3 then 2 ^ 5 else 0))

/-- BARV (R244): a CORE-scope release (08_memory.md R203), so it waits for the band's earlier operations; then Arrive. An
abandoned object is left as it is. -/
def execBarv (f : FE) (s : State) : Host.Outcome State Fault Refusal :=
  s.objOp f fun h o =>
    if !s.drained h then s
    else
      let x := s.objRead h.core h.crew o.toNat
      let b := if f.rp then h.band.setS f.sd.toNat (barvStatus x x.arrive.1) else h.band
      let s1 := ((h.retire (s.release h.core h.slot 1) b).named h o.toNat false).modCrew h.core h.band.crew fun w =>
        w.arrive o.toNat h.band.index
      if x.phase = 3 then s1 else s1.objEvent h.core h.band.crew o.toNat Obj.arrive

/-- BEXP (R244). -/
def execBexp (f : FE) (s : State) : Host.Outcome State Fault Refusal :=
  s.objOp f fun h o =>
    (h.retire s h.band).objEvent h.core h.band.crew o.toNat fun x =>
      { x with inb := x.inb + (h.band.sreg f.sa.toNat).extractLsb' 0 32,
               outb := x.outb + (h.band.sreg f.sb.toNat).extractLsb' 0 32 }.check

/-- The value BTEST reads (R244). -/
def btestValue (x : Obj) : DWord :=
  BitVec.ofNat 64 (x.gen % 16 + x.phase % 16 * 2 ^ 4 + x.apend % 2 ^ 16 * 2 ^ 8 + x.fcode % 256 * 2 ^ 24
    + x.faux % 2 ^ 16 * 2 ^ 32 + (if x.inb = 0 then 0 else 2 ^ 48) + (if x.outb = 0 then 0 else 2 ^ 49))

/-- BTEST (R244): a CORE-scope acquire, which changes nothing but S[SD]. -/
def execBtest (f : FE) (s : State) : Host.Outcome State Fault Refusal :=
  s.objOp f fun h o =>
    h.retire s ({ h.band with acqAt := s.nextId }.setS f.sd.toNat (btestValue (s.objRead h.core h.crew o.toNat)))

/-- BWAIT (R245): a lane instruction; the label is checked as GO checks it, then the object. Lanes whose condition is met
WANT the label with their status predicate written; the others are BLOCKED on the object. -/
def execBwait (f : FB) (s : State) : Host.Outcome State Fault Refusal :=
  s.onBand fun h =>
    let m := h.band.guarded f.g
    let o := h.band.sreg f.so.toNat
    let g := (h.band.sreg f.sa.toNat).toNat % 16
    if m = 0 then h.retire s h.band
    else match ctrlWorst m fun _ => h.hitLabel f.lid with
      | some (l, x) => h.fault s 3 (ctrlDetail x.code l x.label) m
      | none =>
        if h.objNeed o ≠ 0 then h.fault s 4 (memDetail (h.objNeed o) (lowest m) false false o.toNat) m
        else if s.scrBusy h o.toNat 16 then s
        else
          let x := s.objRead h.core h.crew o.toNat
          let met := x.gen != g || x.phase == 3
          let b := if met then
              ({ h.band with acqAt := s.nextId }.wantAll m fun _ => f.lid).setPred f.pd.toNat m (if 2 ≤ x.phase then BitVec.allOnes 32 else 0)
            else h.band.mapMask m fun _ y => { y with
              st := .blocked, want := f.lid, obj := o.setWidth 20, gen := BitVec.ofNat 4 g, pd := f.pd }
          (h.retire s b).named h o.toNat false

end Sys2Proof.Machine
end

