-- ==== Sys2Proof/Machine/Matrix.lean ====
section
/-! DEFINITION. The matrix unit, 0xB0 to 0xB6, and its events (11_matrix.md R249 to R272). -/

namespace Sys2Proof.Machine

/-! ### Weights (R250, R251) -/

/-- Bit-cells of a weight of a slot's kind; none when the kind is no weight kind. -/
def cellsPer (d : Word) : Option Nat :=
  let k := slotKindCode d
  if k = 5 ∨ k = 4 then some 2 else if k = 3 then some 4 else if k = 2 then some 8 else none
/-- N of R250 for a slot; 160 where it is no weight slot (R257). -/
def slotN (d : Word) : Nat := 320 / (cellsPer d).getD 2
/-- Whether a slot may name A rows: I16, I8, I4, I2, IW (R251). -/
def actKind (d : Word) : Bool := (decide (1 ≤ slotKindCode d) && decide (slotKindCode d ≤ 4)) || slotKindCode d == 0xE
/-- Whether MACR may read out into a slot: every kind but T and I2 (R271). -/
def readKind (d : Word) : Bool := d.extractLsb' 0 4 != 0 && slotKindCode d != 0xF && slotKindCode d != 4 && slotKindCode d != 5

/-- Bytes of `n` elements in the memory form of a slot's kind (R143, R144). -/
def rowBytes (d : Word) (n : Nat) : Nat := if slotKindCode d = 5 then (n + 4) / 5 else (n * slotBits d + 7) / 8

/-- The value of element `k` of bytes in an integer kind's memory form (R143). -/
def intAt (d : Word) (bytes : List Byte) (k : Nat) : Int :=
  let c := slotBits d
  let code := ofBytes (sliceOf bytes (c * k / 8) ((c + 7) / 8)) / 2 ^ (c * k % 8) % 2 ^ c
  match slotKind d with
  | .int w signed => if signed then signedOf w code else (code % 2 ^ w : Nat)
  | _ => 0

/-- The cells of a weight, the low cell first: two's-complement bits, or the positive and the negative select of a trit
(R250). -/
def weightCells (d : Word) (bytes : List Byte) (k : Nat) : Nat :=
  if slotKindCode d = 5 then
    let t := (t5Trits (bytes.getD (k / 5) 0).toNat).1.getD (k % 5) 0
    if 0 < t then 1 else if t < 0 then 2 else 0
  else
    let c := slotBits d
    (bytes.getD (c * k / 8) 0).toNat / 2 ^ (c * k % 8) % 2 ^ c

/-- The weight that cells hold (R250). -/
def cellsValue (d : Word) (code : Nat) : Int :=
  let w := (cellsPer d).getD 2
  if slotKindCode d = 5 then (code % 2 : Nat) - ((code / 2 % 2 : Nat) : Int) else signedOf w code

/-- Replaces the cells of column `j` in a K-row. -/
def putCells (w j : Nat) (code : Nat) (row : BitVec 320) : BitVec 320 :=
  (row &&& ~~~(BitVec.ofNat 320 ((2 ^ w - 1) * 2 ^ (w * j)))) ||| BitVec.ofNat 320 (code * 2 ^ (w * j))
/-- The weight at K-row `k`, column `j` of a bank. -/
def Bank.weight (b : Bank) (d : Word) (k j : Nat) : Int :=
  let w := (cellsPer d).getD 2
  cellsValue d ((b.cells.get 0 k).toNat / 2 ^ (w * j) % 2 ^ w)

/-! ### Accumulators (07_numbers.md R155 to R158) -/

/-- An element as MACZ leaves it. -/
def Acc.zero (k : BitVec 11) : Acc := ⟨0, k, false⟩
/-- One contribution (R156). -/
def Acc.add (a : Acc) (s : Int) (e : Int) : Acc :=
  let d := e - a.anchor.toInt
  if 0 ≤ d then { a with sum := a.sum + s * 2 ^ d.toNat }
  else
    let t := roundInt 0 (decide (s < 0)) s.natAbs 1 d
    { a with sum := a.sum + t.1, inexact := a.inexact || t.2 }
/-- The architectural A: the exact sum modulo 2^128 (R157). -/
def Acc.arch (a : Acc) : BitVec 128 := BitVec.ofInt 128 a.sum
/-- Whether the exact sum lies outside the range of A (R157). -/
def Acc.over (a : Acc) : Bool := decide (a.sum < -(2 ^ 127)) || decide (2 ^ 127 ≤ a.sum)
/-- The read-out of R158 into a slot, with its flags. -/
def Acc.readOut (a : Acc) (d : Word) : Nat × BitVec 9 :=
  let sat := match slotKind d with | .int _ _ => true | _ => slotSat d
  let r := (slotKind d).round (slotRm d) sat (.ofInt a.arch.toInt a.anchor.toInt)
  (r.1, r.2 ||| flagIf (a.inexact || r.2.getLsbD 0) flAX ||| flagIf a.over flAO)

/-! ### Descriptors (R257, R266) -/

/-- A tile descriptor. -/
structure Tile where
  m    : Nat
  n    : Nat
  kb   : Nat
  acc  : Nat
  str  : Nat
  ascl : Nat
  gt   : Bool
  deriving DecidableEq, Repr

/-- The tile descriptor of a scalar (R257). -/
def Tile.ofWord (x : DWord) : Tile :=
  ⟨(x.extractLsb' 0 9).toNat, (x.extractLsb' 9 10).toNat, (x.extractLsb' 19 7).toNat, (x.extractLsb' 26 14).toNat,
    16 * (x.extractLsb' 40 10).toNat, 64 * (x.extractLsb' 50 13).toNat, x.getLsbD 63⟩
/-- K of a tile. -/
def Tile.k (t : Tile) : Nat := 32 * t.kb

/-- A member's block: its first tile row and column, its rows and its columns (R257). -/
structure Block where
  row : Nat
  col : Nat
  mb  : Nat
  nb  : Nat
  deriving DecidableEq, Repr

/-- The block of member `m` (R257). -/
def Tile.block (t : Tile) (m nc : Nat) : Block :=
  let r := if t.gt then 96 * (m / 4) else 0
  let c := if t.gt then nc * (m % 4) else 0
  ⟨r, c, min 96 (t.m - r), min nc (t.n - c)⟩
/-- The legal values of R257 and the accumulator bound of R258. -/
def Tile.ok (t : Tile) (m nc : Nat) : Bool :=
  let b := t.block m nc
  decide (t.m ≤ (if t.gt then 384 else 96)) && decide (1 ≤ t.n) && decide (t.n ≤ (if t.gt then 4 * nc else nc))
  && decide (1 ≤ t.kb) && decide (t.kb ≤ 64) && decide (t.acc ≤ 15359) && t.str != 0
  && decide (t.acc + b.mb * b.nb ≤ 15360)
/-- Whether a gang of `g` members is large enough for the tile (R259). -/
def Tile.fits (t : Tile) (g nc : Nat) : Bool :=
  !t.gt || decide (4 * (((t.m + 95) / 96 : Nat) - 1 : Int) + ((t.n + nc - 1) / nc : Nat) ≤ g)

/-- A load descriptor (R266). -/
structure LoadD where
  kb    : Nat
  n     : Nat
  rstr  : Nat
  cbase : Nat
  kbase : Nat
  bscl  : Nat
  rsv   : Bool
  deriving DecidableEq, Repr

/-- The load descriptor of a scalar or of a group table. -/
def LoadD.ofNat (x : Nat) : LoadD :=
  ⟨x % 2 ^ 7, x / 2 ^ 7 % 2 ^ 8, x / 2 ^ 15 % 2 ^ 12, x / 2 ^ 27 % 2 ^ 8, x / 2 ^ 35 % 2 ^ 6, 64 * (x / 2 ^ 41 % 2 ^ 13),
    decide (x / 2 ^ 54 % 2 ^ 10 = 0)⟩
/-- The rules of R266. -/
def LoadD.ok (l : LoadD) (d : Word) : Bool :=
  decide (1 ≤ l.kb) && decide (l.kbase + l.kb ≤ 64) && !(slotScl d && slotBlk d == 64 && l.kb % 2 == 1)
  && decide (1 ≤ l.n) && decide (l.cbase + l.n ≤ slotN d) && decide (rowBytes d (32 * l.kb) ≤ l.rstr)
  && !(slotBlk d == 64 && l.kbase % 2 == 1) && l.rsv
/-- Blocks of a load. -/
def LoadD.blocks (l : LoadD) (d : Word) : Nat := if slotScl d then 32 * l.kb / slotBlk d else 0

/-! ### Loading a bank (R266) -/

/-- A row of a load: its column, bytes, scales, and whether a byte of it is poisoned. -/
structure LoadRow where
  col   : Nat
  bytes : List Byte
  scl   : List Byte
  bad   : Bool
  deriving DecidableEq, Repr

/-- Whether the operands of a load lie within the allotment. -/
def LoadD.inside (l : LoadD) (w : Crew) (d : Word) (src scl : Nat) : Bool :=
  w.holds src ((l.n - 1) * l.rstr + rowBytes d (32 * l.kb)) && (!slotScl d || w.holds scl (l.n * l.blocks d))

/-- The rows of a load, as they stand. -/
def State.loadRows (s : State) (k : Nat) (w : Crew) (d : Word) (l : LoadD) (src scl : Nat) : List LoadRow :=
  (List.range l.n).map fun n =>
    let a := src + n * l.rstr
    let b := rowBytes d (32 * l.kb)
    let c := l.blocks d
    ⟨l.cbase + n, s.scrRead k w a b, s.scrRead k w (scl + n * c) c,
      s.scrPoisoned k w a b || (decide (0 < c) && s.scrPoisoned k w (scl + n * c) c)⟩

/-- The bits of the cell columns of column `j`. -/
def colCells (w j : Nat) : BitVec 320 := BitVec.ofNat 320 ((2 ^ w - 1) * 2 ^ (w * j))

/-- The macros that hold K-rows `a` to `a + n - 1`. -/
def macrosOf (a n : Nat) : List Nat := (List.range 8).filter fun m => decide (m * 256 < a + n) && decide (a < m * 256 + 256)

/-- A bank another slot's weights come into: its cells, its scales and its marks are cleared (R266; DEDUCED, assumption log entry
30). -/
def Bank.forSlot (b : Bank) (d : Word) : Bank := if b.slot = d then b else ⟨[], [], [], d, []⟩

/-- Stores one row of a load: its column's cells, scales, and marks. -/
def Bank.loadRow (b : Bank) (d : Word) (l : LoadD) (r : LoadRow) : Bank :=
  let w := (cellsPer d).getD 2
  let ms := macrosOf (32 * l.kbase) (32 * l.kb)
  let keep := ~~~(colCells w r.col)
  { b with
    cells := (List.range (32 * l.kb)).foldl (fun t k =>
      t.put (32 * l.kbase + k) (putCells w r.col (weightCells d r.bytes k) (t.get 0 (32 * l.kbase + k)))) b.cells,
    scales := (List.range (l.blocks d)).foldl (fun t q =>
      t.put ((32 * l.kbase / slotBlk d + q) * 160 + r.col) (r.scl.getD q 127)) b.scales,
    parity := ms.foldl (fun t m => t.put m (t.get 0 m &&& keep)) b.parity,
    bad := ms.foldl (fun t m => t.put m (t.get 0 m &&& keep)) b.bad }

/-- A load into a bank; a row with poison is not stored (R262). -/
def Bank.load (b : Bank) (d : Word) (l : LoadD) (rows : List LoadRow) : Bank :=
  (rows.filter fun r => !r.bad).foldl (fun b r => b.loadRow d l r) (b.forSlot d)

/-- Whether a stored row has an invalid T5 byte, which raises TQ (R266). -/
def loadTq (d : Word) (rows : List LoadRow) : Bool :=
  slotKindCode d == 5 && rows.any fun r => !r.bad && r.bytes.any fun x => decide (243 ≤ x.toNat)

/-! ### Products (R261, R268) -/

/-- One A row: its tile row, its elements, its scale codes, and whether a byte of it is poisoned. -/
structure ARow where
  row   : Nat
  elems : List Int
  ea    : List Nat
  bad   : Bool
  deriving DecidableEq, Repr

/-- The block size of R261: none when the two slots disagree. -/
def blockSize (a b : Word) (k : Nat) : Option Nat :=
  if slotScl a && slotScl b then (if slotBlk a = slotBlk b then some (slotBlk a) else none)
  else if slotScl a then some (slotBlk a) else if slotScl b then some (slotBlk b) else some k

/-- The scale code of block `q`, column `j` of a bank: 127 without scales (R156, R249). -/
def Bank.scale (b : Bank) (q j : Nat) : Nat := if slotScl b.slot then (b.scales.get 127 (q * 160 + j)).toNat else 127

/-- The terms of an element: for each block its exact sum and exponent, or none where a scale code is 0xFF (R261). -/
def Bank.terms (b : Bank) (blk n : Nat) (r : ARow) (j : Nat) : List (Option (Int × Int)) :=
  (List.range n).map fun q =>
    let ea := r.ea.getD q 127
    let eb := b.scale q j
    if ea = 0xFF ∨ eb = 0xFF then none
    else some ((List.range blk).foldl (fun a k =>
      a + r.elems.getD (q * blk + k) 0 * b.weight b.slot (q * blk + k) j) 0, (ea : Int) + eb - 254)

/-- The columns of a bank below `nb` that are marked Bad, or whose parity does not hold, in the macros in use: cell
column and macro (R262, R264). -/
def Bank.badCells (b : Bank) (k nb : Nat) : List (Nat × Nat) :=
  let w := (cellsPer b.slot).getD 2
  (macrosOf 0 k).flatMap fun m =>
    ((List.range (w * nb)).filter fun c => ((b.bad.get 0 m) ||| (b.parity.get 0 m)).getLsbD c).map (·, m)
/-- A product marks the columns it finds (R264). -/
def Bank.markBad (b : Bank) (cs : List (Nat × Nat)) : Bank :=
  { b with bad := cs.foldl (fun t c => t.put c.2 (t.get 0 c.2 ||| (1#320 <<< c.1))) b.bad }

/-- What a product did: the accumulator file, the tile rows that POISON touched, the blocks whose scale code was 0xFF,
and the Bad columns it read. -/
structure Product where
  acc  : Tab Acc
  bank : Bank
  rows : List Nat
  nans : List Nat
  bads : List (Nat × Nat)
  deriving DecidableEq, Repr

/-- Accumulates rows into a block: element (i, j) is at `base + i × nb + j`, `i` counted from tile row `top` (R257,
R261, R263). `skip` names the columns whose load was poisoned. -/
def product (acc : Tab Acc) (b : Bank) (blk k nb base top : Nat) (skip : List Nat) (rows : List ARow) : Product :=
  let n := k / blk
  let bads := if rows.isEmpty then [] else b.badCells k nb
  let w := (cellsPer b.slot).getD 2
  let cols := (List.range nb).filter fun j => !skip.contains j && !(bads.any fun c => c.1 / w == j)
  let good := rows.filter fun r => !r.bad
  ⟨good.foldl (fun t r => cols.foldl (fun t j =>
      let i := base + (r.row - top) * nb + j
      t.put i ((b.terms blk n r j).foldl (fun a x => match x with | some (v, e) => a.add v e | none => a)
        (t.get (Acc.zero 0) i))) t) acc,
    b.markBad bads,
    (rows.filter fun r => r.bad).map (·.row),
    (List.range n).filter fun q => (!rows.isEmpty && (List.range nb).any fun j => b.scale q j == 0xFF)
      || (decide (0 < nb) && rows.any fun r => r.ea.getD q 127 == 0xFF),
    bads⟩

/-! ### Scratchpad operands of a tile (R260, R262, R268) -/

/-- A byte range of a tile operand: at an SCR offset, or for GT = 1 at a CLU address, within one member's allotment. -/
def State.tileAt (s : State) (k : Nat) (w : Crew) (gt : Bool) (a n : Nat) : Option (Nat × Crew × Nat) :=
  if !gt then (if w.holds a n then some (k, w, a) else none)
  else if 2 ^ 23 ≤ a then none
  else match s.member? w (a / 2 ^ 19) with
    | some (k2, v) => if v.holds (a % 2 ^ 19) n then some (k2, v, a % 2 ^ 19) else none
    | none => none

/-- The place of the A scale table: the crew's scratchpad, or member 0's for GT = 1 (R260, R262). -/
def State.sclAt (s : State) (k : Nat) (w : Crew) (gt : Bool) (a n : Nat) : Option (Nat × Crew × Nat) :=
  if !gt then s.tileAt k w false a n
  else match s.member? w 0 with
    | some (k2, v) => if v.holds a n then some (k2, v, a) else none
    | none => none

/-- A row of A: tile row `i` at address `a`, with the scales of its blocks at `c` (R261, R268). None when it lies
outside. -/
def State.aRow (s : State) (k : Nat) (w : Crew) (gt : Bool) (d : Word) (kk i a c : Nat) : Option ARow :=
  let nb := rowBytes d kk
  let nq := if slotScl d then kk / slotBlk d else 0
  match s.tileAt k w gt a nb, (if nq = 0 then some (k, w, 0) else s.sclAt k w gt c nq) with
  | some (k1, w1, o1), some (k2, w2, o2) =>
    some ⟨i, (List.range kk).map (intAt d (s.scrRead k1 w1 o1 nb)), (s.scrRead k2 w2 o2 nq).map (·.toNat),
      s.scrPoisoned k1 w1 o1 nb || (decide (0 < nq) && s.scrPoisoned k2 w2 o2 nq)⟩
  | _, _ => none

/-- The A rows of a block; none when one lies outside. -/
def State.aRows (s : State) (k : Nat) (w : Crew) (c : MxCmd) (t : Tile) (b : Block) : Option (List ARow) :=
  (List.range (if b.nb = 0 then 0 else b.mb)).mapM fun i =>
    s.aRow k w t.gt c.fsa t.k (b.row + i) (c.sa.toNat + (b.row + i) * t.str)
      (t.ascl + (b.row + i) * (if slotScl c.fsa then t.k / slotBlk c.fsa else 0))

/-! ### Executing one instruction (R263) -/

/-- How an instruction went: the state, its errors in order, its flags. -/
structure MxDone where
  st    : State
  errs  : List (Nat × Nat)
  flags : BitVec 9
  deriving DecidableEq, Repr

/-- An instruction that a Nothing row of R262 stops. -/
def mxStop (s : State) (code aux : Nat) : MxDone := ⟨s, [(code, aux)], 0⟩

def State.modMx (s : State) (k : Nat) (f : Matrix → Matrix) : State := s.modCore k fun x => { x with mx := f x.mx }
/-- Bank `b`. -/
def Matrix.bank (m : Matrix) (b : Bool) : Bank := if b then m.bank1 else m.bank0
def Matrix.setBank (m : Matrix) (b : Bool) (v : Bank) : Matrix := if b then { m with bank1 := v } else { m with bank0 := v }
/-- N of R257 for an instruction that names no weight slot. -/
def Matrix.nc (m : Matrix) : Nat := slotN (m.bank m.sel).slot

/-- A choice among the rows or columns that an error names: no rule says which (DESIGN CHOICE, assumption log entry 31). -/
def pick {α : Type} (r : Nat) (d : α) (l : List α) : α := l.getD (r % max 1 l.length) d

/-- POISON, SCALENAN and CIMPAR of a run, in this order (R262, R263). -/
def runErrors (r : Nat) (rows nans : List Nat) (bads : List (Nat × Nat)) : List (Nat × Nat) :=
  (if rows.isEmpty then [] else [(0x0C, pick r 0 rows)])
  ++ (match nans with | [] => [] | a :: t => [(0x25, t.foldl min a)])
  ++ (if bads.isEmpty then [] else let c := pick r (0, 0) bads; [(0x26, c.1 + c.2 * 2 ^ 9)])

/-- The state as an instruction's operand reads see it: what the unit read ahead of the completion, and otherwise what
stands (08_memory.md R203). -/
def State.seenBy (s : State) (c : MxCmd) : State :=
  c.seen.foldl (fun s e => s.modCore e.1 fun x => { x with
    scr := { x.scr with cells := x.scr.cells.setMany e.2.1 e.2.2 } }) s

/-- The bit-planes of an A row that are not skipped (R251, R256). -/
def ARow.planes (d : Word) (r : ARow) : Nat :=
  ((List.range (slotBits d)).filter fun p => r.elems.any fun e => (BitVec.ofInt 16 e).getLsbD p).length
/-- The energy of the planes that a product computed (20_host.md R414). -/
def State.spendPlanes (s : State) (k : Nat) (c : MxCmd) (rows : List ARow) : State :=
  s.spend k c.crew 5 ((rows.map (ARow.planes c.fsa)).foldl (· + ·) 0)

/-- MLDB (R266). -/
def State.mxLoad (s : State) (k : Nat) (w : Crew) (c : MxCmd) (r : Nat) : MxDone :=
  let l := LoadD.ofNat c.sb.toNat
  if (cellsPer c.fsb).isNone then mxStop s 0x21 0
  else if !l.ok c.fsb then mxStop s 0x20 0
  else if !l.inside w c.fsb c.sa.toNat l.bscl then mxStop s 5 0
  else
    let rows := (s.seenBy c).loadRows k w c.fsb l c.sa.toNat l.bscl
    let bad := (List.range l.n).filter fun n => (rows.getD n ⟨0, [], [], false⟩).bad
    ⟨s.modMx k fun m => m.setBank c.bnk ((m.bank c.bnk).load c.fsb l rows), runErrors r bad [] [],
      flagIf (loadTq c.fsb rows) flTQ⟩

/-- MBANK (R267). -/
def State.mxSelect (s : State) (k : Nat) (c : MxCmd) : MxDone := ⟨s.modMx k fun m => { m with sel := c.bnk }, [], 0⟩

/-- The rules of R258, R261 and R268 on a product's descriptor and slots. -/
def MxCmd.tileOk (c : MxCmd) (t : Tile) (m nc : Nat) : Bool :=
  t.ok m nc && c.sa.toNat % 16 == 0
  && match blockSize c.fsa c.fsb t.k with | some b => t.k % b == 0 | none => false

/-- MMA (R268); `gang` is the member that pairing names when it fails (R260). -/
def State.mxMma (s : State) (k : Nat) (w : Crew) (c : MxCmd) (r : Nat) (gang : Option Nat) : MxDone :=
  let t := Tile.ofWord c.sb
  let mx := (s.coreAt k).mx
  let nc := slotN c.fsb
  let b := t.block w.member nc
  if !actKind c.fsa || (cellsPer c.fsb).isNone then mxStop s 0x21 0
  else if !c.tileOk t w.member nc then mxStop s 0x20 0
  else if (mx.bank mx.sel).slot ≠ c.fsb then mxStop s 0x22 0
  else if !t.fits w.gang.length nc then mxStop s 0x24 (r % 16)
  else match gang with
    | some m => mxStop s 0x24 m
    | none =>
      match (s.seenBy c).aRows k w c t b with
      | none => mxStop s 5 0
      | some rows =>
        let p := product mx.acc (mx.bank mx.sel) ((blockSize c.fsa c.fsb t.k).getD 32) t.k b.nb t.acc b.row [] rows
        ⟨(s.modMx k fun m => { m.setBank m.sel p.bank with acc := p.acc }).spendPlanes k c rows,
          runErrors r p.rows p.nans p.bads,
          flagIf (!p.nans.isEmpty) flIV⟩

/-! ### MMAG (R269) -/

/-- A group of a group table. -/
structure Group where
  rows : Nat
  aoff : Nat
  wsrc : Nat
  wscl : Nat
  deriving DecidableEq, Repr

/-- A 32-bit offset that names nothing. -/
def noOffset : Nat := 0xFFFFFFFF

/-- The groups of a table. -/
def groupsOf (d : List Byte) (n : Nat) : List Group :=
  (List.range n).map fun g => ⟨fieldAt d (16 + 16 * g) 4, fieldAt d (20 + 16 * g) 4, fieldAt d (24 + 16 * g) 4,
    fieldAt d (28 + 16 * g) 4⟩
/-- The rules of R269 on a group. -/
def Group.ok (g : Group) (d : Word) : Bool :=
  decide (g.rows ≤ 96) && g.aoff % 16 == 0 && (slotScl d || g.wscl == noOffset)
/-- The first group at which the rows sum beyond M (R262). -/
def raggedAt (m : Nat) : Nat → Nat → List Group → Option Nat
  | _, _, [] => none
  | i, n, g :: t => if m < n + g.rows then some i else raggedAt m (i + 1) (n + g.rows) t

/-- The operands of a group, with its A rows: none when one lies outside. -/
def State.groupRows (s : State) (k : Nat) (w : Crew) (c : MxCmd) (t : Tile) (l : LoadD) (base : Nat) (g : Group) :
    Option (List ARow) :=
  if g.rows = 0 then some []
  else if g.wsrc ≠ noOffset ∧ l.inside w c.fsb g.wsrc g.wscl = false then none
  else (List.range g.rows).mapM fun i =>
    s.aRow k w false c.fsa t.k (base + i) (g.aoff + i * t.str)
      (t.ascl + (base + i) * (if slotScl c.fsa then t.k / slotBlk c.fsa else 0))

/-- Every group with its A rows and its first tile row: none when an operand lies outside. -/
def State.allGroups (s : State) (k : Nat) (w : Crew) (c : MxCmd) (t : Tile) (l : LoadD) :
    Nat → List Group → Option (List (Group × List ARow))
  | _, [] => some []
  | base, g :: gs =>
    match s.groupRows k w c t l base g, State.allGroups s k w c t l (base + g.rows) gs with
    | some rows, some rest => some ((g, rows) :: rest)
    | _, _ => none

/-- What the groups so far have done: the unit, the columns of each bank whose latest load was poisoned, the rows and load
rows POISON touched, the SCALENAN blocks, the Bad columns, TQ. -/
structure MmagRun where
  mx   : Matrix
  skip0 : List Nat
  skip1 : List Nat
  rows : List Nat
  nans : List Nat
  bads : List (Nat × Nat)
  tq   : Bool
  deriving DecidableEq, Repr

/-- One group (R269): its load into the bank that is not selected, then its rows. A column whose load into the bank was
poisoned contributes to no group that uses it (R263). -/
def State.mmagGroup (s : State) (k : Nat) (w : Crew) (c : MxCmd) (t : Tile) (l : LoadD) (u : MmagRun)
    (g : Group × List ARow) : MmagRun :=
  if g.1.rows = 0 then u
  else
    let load := g.1.wsrc != noOffset
    let lrows := if load then s.loadRows k w c.fsb l g.1.wsrc g.1.wscl else []
    let bad := (lrows.filter (·.bad)).map (·.col)
    let mx1 := if load then { u.mx.setBank (!u.mx.sel) ((u.mx.bank (!u.mx.sel)).load c.fsb l lrows) with sel := !u.mx.sel }
      else u.mx
    let skip0 := if load && !mx1.sel then bad else u.skip0
    let skip1 := if load && mx1.sel then bad else u.skip1
    let p := product mx1.acc (mx1.bank mx1.sel) ((blockSize c.fsa c.fsb t.k).getD 32) t.k t.n t.acc 0
      (if mx1.sel then skip1 else skip0) g.2
    ⟨{ mx1.setBank mx1.sel p.bank with acc := p.acc }, skip0, skip1, u.rows ++ bad ++ p.rows, u.nans ++ p.nans,
      u.bads ++ p.bads, u.tq || loadTq c.fsb lrows⟩

/-- MMAG (R269). -/
def State.mxMmag (s : State) (k : Nat) (w : Crew) (c : MxCmd) (r : Nat) : MxDone :=
  let t := Tile.ofWord c.sb
  let mx := (s.coreAt k).mx
  let nc := slotN c.fsb
  let a := c.sa.toNat
  let v := s.seenBy c
  let head := v.scrRead k w a 16
  let l := LoadD.ofNat (fieldAt head 0 8)
  let n := fieldAt head 8 4
  let gs := groupsOf (v.scrRead k w a (16 + 16 * min n 64)) (min n 64)
  let inHead := w.holds a 16
  let inTable := inHead && w.holds a (16 + 16 * min n 64)
  let headOk := decide (1 ≤ n) && decide (n ≤ 64) && fieldAt head 12 4 == 0 && l.ok c.fsb && l.kb == t.kb && l.cbase == 0
    && l.n == t.n
  if !actKind c.fsa || (cellsPer c.fsb).isNone then mxStop s 0x21 0
  else if !c.tileOk t 0 nc || t.gt || (inHead && !headOk) || (inTable && gs.any fun g => !g.ok c.fsb) then mxStop s 0x20 0
  else match (if inTable then raggedAt t.m 0 0 gs else none) with
    | some i => mxStop s 0x23 i
    | none =>
      if (mx.bank mx.sel).slot ≠ c.fsb then mxStop s 0x22 0
      else if !inTable then mxStop s 5 0
      else if s.scrPoisoned k w a (16 + 16 * n) then mxStop s 0x0C 0
      else match v.allGroups k w c t l 0 gs with
        | none => mxStop s 5 0
        | some gr =>
          let u := gr.foldl (fun u g => v.mmagGroup k w c t l u g) ⟨mx, [], [], [], [], [], false⟩
          ⟨(s.modMx k fun _ => u.mx).spendPlanes k c (gr.flatMap (·.2)), runErrors r u.rows u.nans u.bads,
            flagIf (!u.nans.isEmpty) flIV ||| flagIf u.tq flTQ⟩

/-! ### MACZ, MACR, MACV (R270 to R272) -/

/-- MACZ (R270). -/
def State.mxZero (s : State) (k : Nat) (w : Crew) (c : MxCmd) (r : Nat) : MxDone :=
  let t := Tile.ofWord c.sb
  let nc := (s.coreAt k).mx.nc
  let b := t.block w.member nc
  if !t.ok w.member nc then mxStop s 0x20 0
  else if !t.fits w.gang.length nc then mxStop s 0x24 (r % 16)
  else ⟨s.modMx k fun m => { m with
      acc := (List.range (b.mb * b.nb)).foldl (fun a i => a.put (t.acc + i) (Acc.zero (c.imm.extractLsb' 0 11))) m.acc },
    [], 0⟩

/-- The bytes that MACR writes of one row of a block: the columns' codes, and zeros up to the end of the last byte
(R271). -/
def readRow (d : Word) (es : List Nat) : List Byte :=
  let c := slotBits d
  toBytes ((es.length * c + 7) / 8) (ofElems c es)

/-- MACR (R271). -/
def State.mxRead (s : State) (k : Nat) (w : Crew) (c : MxCmd) (r : Nat) : MxDone :=
  let t := Tile.ofWord c.sb
  let mx := (s.coreAt k).mx
  let b := t.block w.member mx.nc
  let cw := slotBits c.fsb
  if !readKind c.fsb then mxStop s 0x21 0
  else if !t.ok w.member mx.nc || c.sa.toNat % 16 != 0 then mxStop s 0x20 0
  else if !t.fits w.gang.length mx.nc then mxStop s 0x24 (r % 16)
  else
    let at_ := fun i => c.sa.toNat + (b.row + i) * t.str + cw * b.col / 8
    let rows := List.range (if b.nb = 0 then 0 else b.mb)
    let out := fun i => (List.range b.nb).map fun j => (mx.acc.get (Acc.zero 0) (t.acc + i * b.nb + j)).readOut c.fsb
    if rows.any fun i => (s.tileAt k w t.gt (at_ i) ((b.nb * cw + 7) / 8)).isNone then mxStop s 5 0
    else ⟨rows.foldl (fun s i =>
        match s.tileAt k w t.gt (at_ i) ((b.nb * cw + 7) / 8) with
        | some (k2, v, o) => s.scrWrite k2 v o (readRow c.fsb ((out i).map (·.1)))
        | none => s) s,
      [], rows.foldl (fun f i => (out i).foldl (fun f x => f ||| x.2) f) 0⟩

/-- MACV (R272). -/
def State.mxMove (s : State) (k : Nat) (w : Crew) (c : MxCmd) (r : Nat) : MxDone :=
  let t := Tile.ofWord c.sb
  let mx := (s.coreAt k).mx
  let b := t.block w.member mx.nc
  let i := c.sa.toNat % 2 ^ 16
  let j := c.sa.toNat / 2 ^ 16 % 2 ^ 16
  if !t.ok w.member mx.nc || 2 ^ 32 ≤ c.sa.toNat then mxStop s 0x20 0
  else if !t.fits w.gang.length mx.nc then mxStop s 0x24 (r % 16)
  else
    let x := fun l => if i < b.mb ∧ j + l < b.nb then (mx.acc.get (Acc.zero 0) (t.acc + i * b.nb + j + l)).arch else 0#128
    ⟨s.modBand k c.slot fun v =>
        if v.crew = c.crew then
          (List.range 4).foldl (fun v q => v.setV (c.imm.toNat % 128 + q) c.run fun l => (x l).extractLsb' (32 * q) 32) v
        else v, [], 0⟩

/-- One instruction, as the queue reaches it: OWNER first (R252, R263). -/
def State.mxRun (s : State) (k : Nat) (w : Crew) (c : MxCmd) (r : Nat) (gang : Option Nat) : MxDone :=
  if c.notOwner then mxStop s 0x27 0
  else if c.op = 0xB0 then s.mxLoad k w c r
  else if c.op = 0xB1 then s.mxSelect k c
  else if c.op = 0xB2 then s.mxMma k w c r gang
  else if c.op = 0xB3 then s.mxMmag k w c r
  else if c.op = 0xB4 then s.mxZero k w c r
  else if c.op = 0xB5 then s.mxRead k w c r
  else s.mxMove k w c r

/-! ### Completion (R255) -/

/-- An error of matrix or clause work: Err on the object, and a record in the context's log (R255, 15_traps.md R353). -/
def State.unitError (s : State) (group k crew slot : Nat) (p : BitVec 64) (op : Nat) (obj : DWord) (e : Nat × Nat) :
    State :=
  let s1 := s.objErr k crew obj e.1 e.2
  match s1.crew? k crew with
  | none => s1
  | some w =>
    let word := match s1.hereAt k slot with | some h => if h.band.crew = crew then s1.peekWord h p else 0 | none => 0
    s1.logRec w.task.ctx ⟨group, 0, 0, k, slot, p, unitDetail e.1 e.2 op obj 0, word, w.task.id⟩

/-- The head of a core's queue executes and completes: errors, then the flags, then the completion count (R255). -/
def State.mxFinish (s : State) (k : Nat) (c : MxCmd) (gang : Option Nat) : State :=
  let drop := fun (s : State) => s.modMx k fun m => { m with queue := m.queue.filter fun e => e.id != c.id }
  match s.crew? k c.crew with
  | none => drop s
  | some w =>
    let (r, s0) := s.draw
    let d := s0.mxRun k w c r gang
    let s1 := d.errs.foldl (fun s e => s.unitError 7 k c.crew c.slot c.p c.op c.obj e) d.st
    let s2 := s1.modBand k c.slot fun b => if b.crew = c.crew then b.raiseLate c.id d.flags else b
    (drop s2).objCount k c.crew c.obj 1 0

/-! ### Pairing of gang tiles (R260) -/

/-- What pairing says of the n-th GT = 1 MMA of a gang: wait; a member that exited having issued fewer; all have issued,
and the lowest member that disagrees with member 0. -/
inductive Pairing where
  | wait
  | exited (m : Nat)
  | all (differ : Option Nat)
  deriving DecidableEq, Repr

/-- The n-th GT = 1 MMA of a member. -/
def State.gtOf (s : State) (e : Nat × Nat) (n : Nat) : Option MxCmd :=
  ((s.coreAt e.1).mx.gts.find? fun g => g.1 == n && g.2.crew == e.2).map (·.2)
/-- The operands that must agree: all but ACC. -/
def MxCmd.gangKey (c : MxCmd) : Nat × Nat × Word × Word :=
  (c.sa.toNat, c.sb.toNat - c.sb.toNat / 2 ^ 26 % 2 ^ 14 * 2 ^ 26, c.fsa, c.fsb)
/-- The pairing of R260. -/
def State.pairing (s : State) (w : Crew) (n : Nat) (r : Nat) : Pairing :=
  let cmds := w.gang.map fun e => (e, s.gtOf e n)
  let late := (List.range w.gang.length).filter fun m => match (cmds.getD m ((0, 0), none)).2 with | none => true | _ => false
  let gone := late.filter fun m => match s.member? w m with | some (_, v) => v.gone | none => true
  if !gone.isEmpty then .exited (pick r 0 gone)
  else if !late.isEmpty then .wait
  else
    let key := fun m => (cmds.getD m ((0, 0), none)).2.map MxCmd.gangKey
    .all ((List.range w.gang.length).find? fun m => decide (key m ≠ key 0))

/-- Whether a property holds of every member's n-th GT = 1 MMA that is still queued and not one of a crew that is no
owner. -/
def State.gtAll (s : State) (w : Crew) (n : Nat) (f : Nat → MxCmd → Bool) : Bool :=
  w.gang.all fun e => match s.gtOf e n with
    | none => false
    | some c => c.notOwner || !((s.coreAt e.1).mx.queue.any fun x => x.id == c.id) || f e.1 c

/-- Whether a command stands at the head of its core's queue, accepted. -/
def State.mxAtHead (s : State) (k : Nat) (c : MxCmd) : Bool :=
  match (s.coreAt k).mx.queue with | x :: _ => x.id == c.id && x.accepted | [] => false
/-- Whether the unit of a core may accept a command: none before it waits to be accepted, and its band's earlier memory
operations are performed (R253, R254). -/
def State.mxNext (s : State) (k : Nat) (c : MxCmd) : Bool :=
  match (s.coreAt k).mx.queue.find? fun x => !x.accepted with
  | some x => x.id == c.id && s.bandPast k x.slot x.crew x.id
  | none => false

/-- A paired MMA completes at every member whose command stands at the head of its queue: they run together. -/
def State.mxPaired (s : State) (w : Crew) (n : Nat) (differ : Option Nat) : State :=
  w.gang.foldl (fun s e =>
    match s.gtOf e n, (s.coreAt e.1).mx.queue with
    | some c, x :: _ => if x.id = c.id then s.mxFinish e.1 x differ else s
    | _, _ => s) s

/-! ### Issue (R252, R253, R255) -/

/-- A crew becomes owner of a unit without one: the state takes its reset values (R252). -/
def Matrix.own (m : Matrix) (crew : Nat) : Matrix :=
  match m.owner with
  | some _ => m
  | none => { Matrix.reset with owner := some crew, queue := m.queue, gts := m.gts }

/-- A matrix instruction at issue: the object is checked, the unit's and the band's limits are met, INB counts one, and
the command joins the queue with the operands it read (R253, R255). -/
def State.mxIssue (s : State) (op : Nat) (f : FX) : Host.Outcome State Fault Refusal :=
  s.bandOp f.g fun h =>
    let so := h.band.sreg f.so.toNat
    if so ≠ BitVec.allOnes 64 ∧ h.objCode so ≠ 0 then h.bandFault s (h.objCode so) so
    else if 32 ≤ (s.coreAt h.core).mx.queue.length || decide (15 ≤ s.mxCount h) then s
    else if so ≠ BitVec.allOnes 64 ∧ s.scrBusy h so.toNat 16 = true then s
    else
      let (id, s1) := s.takeId
      let mx := (s.coreAt h.core).mx.own h.band.crew
      let sb := h.band.sreg f.sb.toNat
      let gt := op == 0xB2 && sb.getLsbD 63
      let n := h.crew.gtCount
      let c : MxCmd := ⟨id, h.slot, h.band.crew, op, h.band.sreg f.sa.toNat, sb, so, h.band.slotDesc f.fsa.toNat,
        h.band.slotDesc f.fsb.toNat, f.bnk, f.imm, h.band.running, if gt then some n else none, h.band.p, false,
        mx.owner != some h.band.crew, []⟩
      let s2 := s1.modMx h.core fun _ => { mx with
        queue := mx.queue ++ [c], gts := if gt then mx.gts ++ [(n, c)] else mx.gts }
      let s3 := if gt then s2.modCrew h.core h.band.crew fun w => { w with gtCount := n + 1 } else s2
      (h.retire s3 h.band).objCount h.core h.band.crew so (-1) 0

/-- MLDB (R266). -/
def execMldb (f : FX) (s : State) : Host.Outcome State Fault Refusal := s.mxIssue 0xB0 f
/-- MBANK (R267). -/
def execMbank (f : FX) (s : State) : Host.Outcome State Fault Refusal := s.mxIssue 0xB1 f
/-- MMA (R268). -/
def execMma (f : FX) (s : State) : Host.Outcome State Fault Refusal := s.mxIssue 0xB2 f
/-- MMAG (R269). -/
def execMmag (f : FX) (s : State) : Host.Outcome State Fault Refusal := s.mxIssue 0xB3 f
/-- MACZ (R270). -/
def execMacz (f : FX) (s : State) : Host.Outcome State Fault Refusal := s.mxIssue 0xB4 f
/-- MACR (R271). -/
def execMacr (f : FX) (s : State) : Host.Outcome State Fault Refusal := s.mxIssue 0xB5 f
/-- MACV (R272). -/
def execMacv (f : FX) (s : State) : Host.Outcome State Fault Refusal := s.mxIssue 0xB6 f

/-! ### Events of the unit -/

/-- The unit of a core accepts a command. -/
def State.mxTake (s : State) (k id : Nat) : State :=
  s.modMx k fun m => { m with queue := m.queue.map fun e => if e.id = id then { e with accepted := true } else e }

/-- MX_ACCEPT: the unit accepts the oldest command it has not accepted, once it may read its operands (R253, R254). A gang
tile's MMA is accepted with the MMAs it is paired with, all at once, so that each that is accepted completes (R254, R260;
DEDUCED, assumption log entry 78). -/
def execMxAccept (core : Nat) (s : State) : Host.Outcome State Fault Refusal :=
  match (s.coreAt core).mx.queue.find? fun c => !c.accepted with
  | none => .next s
  | some c =>
    if !s.mxNext core c then .next s
    else match c.gt, s.crew? core c.crew with
      | some n, some w =>
        if c.notOwner then .next (s.mxTake core c.id)
        else match s.pairing w n 0 with
          | .wait => .next s
          | .exited _ => .next (s.mxTake core c.id)
          | .all _ =>
            if s.gtAll w n s.mxNext then
              .next (w.gang.foldl (fun s e => match s.gtOf e n with
                | some x => if x.notOwner then s else s.mxTake e.1 x.id
                | none => s) s)
            else .next s
      | _, _ => .next (s.mxTake core c.id)

/-- MX_COMPLETE: the oldest accepted instruction executes and completes (R253, R255, R260). -/
def execMxComplete (core : Nat) (s : State) : Host.Outcome State Fault Refusal :=
  match (s.coreAt core).mx.queue with
  | [] => .next s
  | c :: _ =>
    if !c.accepted then .next s
    else match c.gt, s.crew? core c.crew with
      | some n, some w =>
        if c.notOwner then .next (s.mxFinish core c none)
        else
          let (r, s1) := s.draw
          match s1.pairing w n r with
          | .wait => .next s
          | .exited m => .next (s1.mxFinish core c (some m))
          | .all d => if s1.gtAll w n s1.mxAtHead then .next (s1.mxPaired w n d) else .next s
      | _, _ => .next (s.mxFinish core c none)

/-- The unit of a core reads operand bytes of the instruction it runs, at any time before that completes (08_memory.md
R203, R254). -/
def State.mxReads (s : State) (core k a n : Nat) : State :=
  match (s.coreAt core).mx.queue with
  | [] => s
  | c :: _ =>
    if c.accepted then s.modMx core fun m => { m with
      queue := m.queue.map fun e => if e.id = c.id then { e with seen := e.seen ++ [(k, a, (s.coreAt k).scr.read a n)] } else e }
    else s

/-- CIM_SCRUB: the scrubber reads a column of a bank; a column whose parity does not hold is marked Bad and logged (R264,
15_traps.md R353). -/
def execCimScrub (core bank mac col : Nat) (s : State) : Host.Outcome State Fault Refusal :=
  let mx := (s.coreAt core).mx
  let b := mx.bank (bank == 1)
  if !(b.parity.get 0 mac).getLsbD col || (b.bad.get 0 mac).getLsbD col then .next s
  else
    let s1 := s.modMx core fun m => m.setBank (bank == 1) (b.markBad [(col, mac)])
    match mx.owner.bind (s.crew? core) with
    | none => .next s1
    | some w => .next (s1.logRec w.task.ctx
        ⟨11, 0, 0, core, 0, 0, BitVec.ofNat 96 (5 + 9 * 2 ^ 4 + (col + mac * 2 ^ 9) * 2 ^ 8), 0, w.task.id⟩)

end Sys2Proof.Machine
end

