-- ==== Sys2Proof/Machine/Clause.lean ====
section
/-! DEFINITION. The clause array, 0xC0 to 0xC9, and its events (12_clause.md R275 to R296). -/

namespace Sys2Proof.Machine

/-! ### Rows, literals and outputs (R276, R277) -/

/-- s(c, j). -/
def ClState.cell (a : ClState) (c j : Nat) : Nat := ((a.rows.get [] c).get 127 j).toNat
/-- A row from its 1,024 states; a state of 127 is not listed. -/
def rowOf (f : Nat → Nat) : Tab Byte :=
  ((List.range 1024).map fun j => (j, BitVec.ofNat 8 (f j))).filter fun e => e.2 != 127
/-- The states of a row. -/
def rowCells (r : Tab Byte) : List Byte := (List.range 1024).map fun j => r.get 127 j
/-- Inc: the literals a row includes. -/
def incOf (r : Tab Byte) : List Nat := (r.filter fun e => decide (128 ≤ e.2.toNat)).map (·.1)
/-- Lit(j) of an input. -/
def litOf (x : BitVec 512) (j : Nat) : Bool := if j < 512 then x.getLsbD j else !x.getLsbD (j - 512)
/-- OutF of a row: an empty clause gives 1. -/
def outF (r : Tab Byte) (x : BitVec 512) : Bool := (incOf r).all (litOf x)
/-- OutI of an enabled row: an empty clause gives 0. -/
def outI (r : Tab Byte) (x : BitVec 512) : Bool := !(incOf r).isEmpty && outF r x
/-- CLASS, POL and EN of a CFG entry. -/
def cfgClass (e : BitVec 16) : Nat := (e.extractLsb' 0 8).toNat
def cfgPol (e : BitVec 16) : Bool := e.getLsbD 8
def cfgEn (e : BitVec 16) : Bool := e.getLsbD 9
/-- The enabled clauses of a class, with their entries. -/
def ClState.ofClass (a : ClState) (k : Nat) : List (Nat × BitVec 16) := a.cfg.filter fun e => cfgEn e.2 && cfgClass e.2 == k
/-- Clip. -/
def clip (x t : Int) : Int := min (max x (-t)) t
/-- A class sum over bits of its clauses. -/
def ClState.sum (a : ClState) (k : Nat) (bit : Nat → Bool) : Int :=
  (a.ofClass k).foldl (fun n e => if bit e.1 then (if cfgPol e.2 then n - 1 else n + 1) else n) 0

/-- H of R286. -/
def draw16 (seed step : BitVec 32) (c j : Nat) : Nat :=
  let x0 := seed ^^^ (step * 0x9E3779B1#32) ^^^ (BitVec.ofNat 32 c <<< 11) ^^^ BitVec.ofNat 32 j
  let x1 := (x0 ^^^ (x0 >>> 16)) * 0x7FEB352D#32
  let x2 := (x1 ^^^ (x1 >>> 15)) * 0x846CA68B#32
  (x2 ^^^ (x2 >>> 16)).toNat % 2 ^ 16

/-! ### One feedback step (R295) -/

/-- Type I on a row. -/
def typeI (a : ClState) (x : BitVec 512) (c : Nat) (r : Tab Byte) : Tab Byte :=
  let out := outF r x
  rowOf fun j =>
    let v := (r.get 127 j).toNat
    let d := draw16 a.seed a.step c j
    if out && litOf x j then (if d < a.pia.toNat then min (v + 1) 255 else v)
    else (if d < a.pib.toNat then v - 1 else v)
/-- Type II on a row. -/
def typeII (x : BitVec 512) (r : Tab Byte) : Tab Byte :=
  let out := outF r x
  rowOf fun j =>
    let v := (r.get 127 j).toNat
    if out && !litOf x j && decide (v < 128) then v + 1 else v

/-- The new rows of a class: the clauses selected for feedback (R295). A poisoned row takes no part (R288). -/
def ClState.feedClass (a : ClState) (x : BitVec 512) (y k : Nat) : List (Nat × Tab Byte) :=
  let ok := fun (c : Nat) => !a.poison.contains c
  let t : Int := (a.t.get 0 k).toNat
  let v := clip (a.sum k fun c => ok c && outF (a.rows.get [] c) x) t
  let q := if k = y then t - v else t + v
  (a.ofClass k).filterMap fun e =>
    if ok e.1 && decide ((draw16 a.seed a.step e.1 0xFFF : Nat) * 2 * t < q * 65536) then
      let r := a.rows.get [] e.1
      some (e.1, if (k == y) == !cfgPol e.2 then typeI a x e.1 r else typeII x r)
    else none

/-- One CLFB step (R295): every output is taken before anything is written. -/
def ClState.feed (a : ClState) (x : BitVec 512) (y n : Nat) : ClState :=
  let new := a.feedClass x y y ++ (if n = y then [] else a.feedClass x y n)
  { a with rows := new.foldl (fun t e => t.put e.1 e.2) a.rows, step := a.step + 1 }

/-- The poisoned rows that a step meets. -/
def ClState.feedPoison (a : ClState) (y n : Nat) : List Nat :=
  ((a.ofClass y ++ a.ofClass n).map (·.1)).filter a.poison.contains

/-! ### Operands (R290) -/

/-- A clause range. -/
def rangeFirst (x : DWord) : Nat := (x.extractLsb' 0 16).toNat
def rangeCount (x : DWord) : Nat := (x.extractLsb' 16 16).toNat
def rangeOk (x : DWord) : Bool :=
  decide (rangeFirst x ≤ 2047) && decide (1 ≤ rangeCount x) && decide (rangeFirst x + rangeCount x ≤ 2048)
  && x.extractLsb' 32 32 == 0
/-- A class range (R294). -/
def classFirst (x : DWord) : Nat := (x.extractLsb' 0 8).toNat
def classCount (x : DWord) : Nat := (x.extractLsb' 8 9).toNat
def classOk (x : DWord) : Bool :=
  decide (1 ≤ classCount x) && decide (classFirst x + classCount x ≤ 256) && x.extractLsb' 17 47 == 0

/-- A byte of a poisoned unit read as an operand: its value is open (DESIGN CHOICE, assumption log entry 32). -/
def State.softBytes (s : State) (k : Nat) (w : Crew) (a : Nat) : Nat → State × List Byte
  | 0 => (s, [])
  | n + 1 =>
    let (s1, d) := State.softBytes s k w a n
    if s.scrPoisoned k w (a + n) 1 then
      let (r, s2) := s1.draw
      (s2, d ++ [BitVec.ofNat 8 r])
    else (s1, d ++ s.scrRead k w (a + n) 1)

/-- The first poisoned entry of `size` bytes among `n` at `a`. -/
def State.poisonAt (s : State) (k : Nat) (w : Crew) (a size n : Nat) : Option Nat :=
  if s.scrPoisoned k w a (size * n) then (List.range n).find? fun i => s.scrPoisoned k w (a + size * i) size else none

/-! ### Completion (R285) -/

def State.modCl (s : State) (q : Nat) (f : ClArray → ClArray) : State :=
  s.setCluster q { s.clusterAt q with clause := f (s.clusterAt q).clause }
/-- Replaces a command of the queue. -/
def State.setCl (s : State) (q : Nat) (c : ClCmd) : State :=
  s.modCl q fun a => { a with queue := a.queue.map fun e => if e.id = c.id then c else e }
/-- Replaces the state of the array. -/
def State.putClState (s : State) (q : Nat) (st : ClState) : State := s.modCl q fun a => { a with st := st }

/-- The rows, classes or entries an instruction works on, by which its energy is counted (20_host.md R414). -/
def ClCmd.work (c : ClCmd) : Nat :=
  if c.op = 0xC3 ∨ c.op = 0xC5 then 2048
  else if c.op = 0xC0 ∨ c.op = 0xC1 ∨ c.op = 0xC2 ∨ c.op = 0xC9 then (c.sb.extractLsb' 16 16).toNat
  else if c.op = 0xC4 then (c.sb.extractLsb' 8 9).toNat
  else if c.op = 0xC6 then 256 else 1

/-- What a completion leaves: the errors in order, each in the object and in the log, then the completion count (R285,
R288). -/
def State.clEnd (s : State) (c : ClCmd) (errs : List (Nat × Nat)) : State :=
  (errs.foldl (fun s e => s.unitError 8 c.core c.crew c.slot c.p c.op c.obj e) s).objCount c.core c.crew c.obj 1 0

/-- A clause instruction completes and leaves the queue. -/
def State.clDone (s : State) (q : Nat) (c : ClCmd) (errs : List (Nat × Nat)) : State :=
  ((s.modCl q fun a => { a with queue := a.queue.filter fun e => e.id != c.id }).spend c.core c.crew 6 c.work).clEnd c errs

/-- POISON of the rows an instruction met, one error for each row; no rule says in which order (R288; DESIGN CHOICE,
assumption log entry 31). -/
def State.rowErrors (s : State) (rows : List Nat) : State × List (Nat × Nat) :=
  match rows with
  | [] => (s, [])
  | [c] => (s, [(0x0C, c)])
  | _ =>
    let (r, s1) := s.draw
    let i := r % rows.length
    (s1, (rows.drop i ++ rows.take i).map (0x0C, ·))

/-! ### The instructions -/

/-- CLCFG (R290). -/
def State.clCfg (s : State) (q : Nat) (w : Crew) (c : ClCmd) : State :=
  let a := c.sa.toNat
  let n := rangeCount c.sb
  if !rangeOk c.sb || a % 16 != 0 then s.clDone q c [(0x41, 0)]
  else if !w.holds a (2 * n) then s.clDone q c [(5, 0)]
  else
    let (s1, d) := s.softBytes c.core w a (2 * n)
    let entry := fun (i : Nat) => BitVec.ofNat 16 (fieldAt d (2 * i) 2)
    let bad := fun (i : Nat) => s.scrPoisoned c.core w (a + 2 * i) 2
    match (List.range n).find? fun i => !bad i && (entry i).extractLsb' 10 6 != 0 with
    | some i => s.clDone q c [(0x42, rangeFirst c.sb + i)]
    | none =>
      (s1.modCl q fun x => { x with st := { x.st with
          cfg := (List.range n).foldl (fun t i => t.put (rangeFirst c.sb + i) (entry i &&& 0x3FF)) x.st.cfg } }).clDone q c
        ((s.poisonAt c.core w a 2 n).map fun i => (0x0C, rangeFirst c.sb + i)).toList

/-- CLTAB (R291). -/
def State.clTab (s : State) (q : Nat) (w : Crew) (c : ClCmd) : State :=
  let a := c.sa.toNat
  if a % 16 ≠ 0 then s.clDone q c [(0x41, 0)]
  else if !w.holds a 528 then s.clDone q c [(5, 0)]
  else if (List.range 12).any fun i => !s.scrPoisoned c.core w (a + 0x204 + i) 1 && s.scrRead c.core w (a + 0x204 + i) 1 != [0]
  then s.clDone q c [(0x42, 0)]
  else
    let (s1, d) := s.softBytes c.core w a 528
    (s1.modCl q fun x => { x with st := { x.st with
        t := (List.range 256).map fun k => (k, BitVec.ofNat 16 (fieldAt d (2 * k) 2)),
        pia := BitVec.ofNat 16 (fieldAt d 0x200 2), pib := BitVec.ofNat 16 (fieldAt d 0x202 2) } }).clDone q c
      ((s.poisonAt c.core w a 2 264).map fun _ => (0x0C, 0)).toList

/-- CLSEED (R292). -/
def State.clSeed (s : State) (q : Nat) (c : ClCmd) : State :=
  (s.modCl q fun x => { x with st := { x.st with
    seed := c.sa.extractLsb' 0 32, step := c.sb.extractLsb' 0 32 } }).clDone q c []

/-- CLCNT (R290). -/
def State.clCnt (s : State) (q : Nat) (w : Crew) (c : ClCmd) : State :=
  let a := c.sa.toNat
  let n := rangeCount c.sb
  if !rangeOk c.sb || a % 16 != 0 then s.clDone q c [(0x41, 0)]
  else if !w.holds a (2 * n) then s.clDone q c [(5, 0)]
  else
    let st := (s.clusterAt q).clause.st
    let rows := (List.range n).map (· + rangeFirst c.sb)
    let s1 := s.scrWrite c.core w a (rows.flatMap fun r =>
      toBytes 2 (if st.poison.contains r then 0xFFFF else (incOf (st.rows.get [] r)).length))
    let (s2, e) := s1.rowErrors (rows.filter st.poison.contains)
    s2.clDone q c e

/-- CLINF (R293): each row as the command sees it (R282). -/
def State.clInf (s : State) (q : Nat) (w : Crew) (c : ClCmd) : State :=
  let a := c.sa.toNat
  if a % 16 ≠ 0 then s.clDone q c [(0x41, 0)]
  else if !w.holds a 256 then s.clDone q c [(5, 0)]
  else
    let st := (s.clusterAt q).clause.st
    let row := fun (r : Nat) => if c.saw.contains r then c.seen.get [] r else st.rows.get [] r
    let bit := fun (r : Nat) => cfgEn (st.cfg.get 0 r) && !st.poison.contains r && outI (row r) c.feat
    let s1 := s.scrWrite c.core w a ((List.range 256).map fun i =>
      BitVec.ofNat 8 ((List.range 8).foldl (fun n b => if bit (8 * i + b) then n + 2 ^ b else n) 0))
    let (s2, e) := s1.rowErrors st.poison
    s2.clDone q c e

/-- CLVOTE (R294, R284). -/
def State.clVote (s : State) (q : Nat) (w : Crew) (c : ClCmd) : State :=
  let a := c.sa.toNat
  if !classOk c.sb || a % 16 != 0 then s.clDone q c [(0x41, 0)]
  else if !w.holds a 256 then s.clDone q c [(5, 0)]
  else
    let st := (s.clusterAt q).clause.st
    let (s1, d) := s.softBytes c.core w a 256
    let bit := fun (r : Nat) => (d.getD (r / 8) 0).getLsbD (r % 8)
    let val := fun (p : Nat) =>
      if p < classCount c.sb then
        let k := classFirst c.sb + p
        clip (st.sum k bit) (st.t.get 0 k).toNat
      else 0
    let vd := c.imm.toNat % 128
    let s2 := s1.modBand c.core c.slot fun b =>
      if b.crew = c.crew then
        (List.range 4).foldl (fun b i => b.setV (vd + i) c.run fun l =>
          let p := 8 * (if w.paired then l % 16 else l) + 2 * i
          BitVec.ofInt 16 (val (p + 1)) ++ BitVec.ofInt 16 (val p)) b
      else b
    s2.clDone q c ((s.poisonAt c.core w a 1 256).map fun i => (0x0C, 8 * i)).toList

/-- The rows that CLLDs between a CLFB and a later CLINF write: those the CLINF sees no earlier than they leave them. -/
def loadedRows (l : List ClCmd) (r : Nat) : Bool :=
  l.any fun e => e.op == 0xC1 && decide (rangeFirst e.sb ≤ r) && decide (r < rangeFirst e.sb + rangeCount e.sb)

/-- Before a CLFB step writes: each CLINF accepted after it that no CLFNC keeps back, outside deterministic mode, may
have read any row already; a free value says which (R282, R285, R296). `pre` is what was accepted in between. -/
def readAhead (fresh : Nat) (st : ClState) (detm : ClCmd → Bool) : List ClCmd → List ClCmd → List ClCmd
  | _, [] => []
  | pre, c :: t =>
    let c1 :=
      if c.op = 0xC3 ∧ c.accepted = true ∧ detm c = false ∧ (pre.any fun e => e.op == 0xC8 && !e.noArray) = false then
        let rows := (List.range 2048).filter fun r =>
          !c.saw.contains r && !loadedRows pre r && Config.clinfReadsAhead (fresh + pre.length) r
        { c with saw := c.saw ++ rows, seen := rows.foldl (fun v r => v.put r (st.rows.get [] r)) c.seen }
      else c
    c1 :: readAhead fresh st detm (pre ++ [c]) t

/-- CLFB (R295). -/
def State.clFb (s : State) (q : Nat) (c : ClCmd) : State :=
  let y := (c.sb.extractLsb' 0 8).toNat
  let n := (c.sb.extractLsb' 8 8).toNat
  if c.sb.extractLsb' 16 48 ≠ 0 then s.clDone q c [(0x41, 0)]
  else
    let a := (s.clusterAt q).clause
    let detm := fun (e : ClCmd) => match s.ctx? e.ctx with | some x => x.detm | none => false
    let later := a.queue.filter fun e => e.id != c.id
    let s1 := { s with fresh := s.fresh + later.length + 1 }
    let s2 := s1.modCl q fun x => { x with
      st := a.st.feed c.feat y n, queue := c :: readAhead s.fresh a.st detm [] later }
    let (s3, e) := s2.rowErrors (a.st.feedPoison y n)
    s3.clDone q c e

/-- The next piece of a CLLD: a row is written when all its bytes have been read; the first row that faults ends the
command (R283, R288, R290). -/
def State.clLoad (s : State) (q : Nat) (x : Ctx) (c : ClCmd) : State :=
  if !rangeOk c.sb || c.sa.toNat % 16 != 0 then s.clDone q c [(0x41, 0)]
  else if rangeCount c.sb ≤ c.cursor then s.clDone q c []
  else
    let r := rangeFirst c.sb + c.cursor
    if 1024 ≤ c.part.length then
      (s.modCl q fun a => { a with st := { a.st with
        rows := a.st.rows.put r (rowOf fun j => (c.part.getD j 127).toNat),
        poison := a.st.poison.filter fun p => p != r } }).setCl q { c with cursor := c.cursor + 1, part := [] }
    else
      let va := (c.sa.toNat + 1024 * c.cursor + c.part.length) % 2 ^ 64
      match x.win (BitVec.ofNat 64 va) .r with
      | .error e => s.clDone q c [(fcodeOf e, 0)]
      | .ok (ia, v) =>
        match s.farRead c.core ia (pieceLen va (1024 - c.part.length)) (policy 0 (x.vcp v)) (.clause q c.id) with
        | .ok s1 d => s1.setCl q { c with part := c.part ++ d }
        | .sent s1 dst n => s1.setCl q { c with sent := [(dst, n)] }
        | .bad code aux => s.clDone q c [(code, if code = 0xC then r else aux)]
        | .hold => s

/-- The errors of a CLST so far: those of the rows done, and of the present row when it is poisoned (R288). -/
def ClCmd.errsNow (c : ClCmd) (st : ClState) : List (Nat × Nat) :=
  let r := rangeFirst c.sb + c.cursor
  c.errs ++ if c.op = 0xC2 ∧ st.poison.contains r = true then [(0x0C, r)] else []

/-- The next piece of a CLST: rows ascend; the first row that faults ends the command; a poisoned row is written as
poisoned data (R288, R290). `part` holds what is written of the present row. -/
def State.clStore (s : State) (q : Nat) (x : Ctx) (c : ClCmd) : State :=
  if !rangeOk c.sb || c.sa.toNat % 16 != 0 then s.clDone q c [(0x41, 0)]
  else if rangeCount c.sb ≤ c.cursor then s.clDone q c c.errs
  else
    let r := rangeFirst c.sb + c.cursor
    let st := (s.clusterAt q).clause.st
    let bad := st.poison.contains r
    if 1024 ≤ c.part.length then
      s.setCl q { c with cursor := c.cursor + 1, part := [], errs := c.errsNow st }
    else
      let va := (c.sa.toNat + 1024 * c.cursor + c.part.length) % 2 ^ 64
      let d := sliceOf (rowCells (st.rows.get [] r)) c.part.length (pieceLen va (1024 - c.part.length))
      match x.win (BitVec.ofNat 64 va) .w with
      | .error e => s.clDone q c (c.errsNow st ++ [(fcodeOf e, 0)])
      | .ok (ia, v) =>
        match s.farWrite c.core ia (policy 0 (x.vcp v)) d bad (.clause q c.id) with
        | .ok s1 w => s1.setCl q { c with part := c.part ++ w }
        | .sent s1 dst n => s1.setCl q { c with sent := [(dst, n)] }
        | .bad code aux => s.clDone q c (c.errsNow st ++ [(code, aux)])
        | .hold => s

/-- A response to the request of a CLLD or CLST: data, or an acknowledged write of `size` bytes; `code` is the FCODE of
what went wrong, or 0. -/
def State.clReply (s : State) (q id size code : Nat) (d : List Byte) (ia : Nat) : State :=
  match (s.clusterAt q).clause.queue.find? fun e => e.id == id with
  | none => s
  | some c =>
    let c1 := { c with sent := [] }
    if code = 0 then s.setCl q { c1 with part := c.part ++ (if c.op = 0xC1 then d else List.replicate size 0) }
    else s.clDone q c1 (c.errsNow (s.clusterAt q).clause.st
      ++ [(code, if code = 0xC then rangeFirst c.sb + c.cursor else s.remoteAux ia)])

/-- One instruction at the head of the queue, or the next piece of a CLLD or CLST: NOARRAY first (R278, R288). A CLFNC
completed when it was accepted (R296). -/
def State.clRun (s : State) (q : Nat) (w : Crew) (x : Ctx) (c : ClCmd) : State :=
  if c.noArray && !c.isFence then s.clDone q c [(0x40, 0)]
  else if c.op = 0xC0 then s.clCfg q w c
  else if c.op = 0xC1 then s.clLoad q x c
  else if c.op = 0xC2 then s.clStore q x c
  else if c.op = 0xC3 then s.clInf q w c
  else if c.op = 0xC4 then s.clVote q w c
  else if c.op = 0xC5 then s.clFb q c
  else if c.op = 0xC6 then s.clTab q w c
  else if c.op = 0xC7 then s.clSeed q c
  else if c.op = 0xC8 then s.modCl q fun a => { a with queue := a.queue.filter fun e => e.id != c.id }
  else s.clCnt q w c

/-! ### Issue (R279, R284, R285) -/

/-- The feature register: 16 bits of each lane, whatever its state (R276, R284). -/
def Band.features (b : Band) (n : Nat) : BitVec 512 :=
  BitVec.ofNat 512 (ofElems 16 (laneIds.map fun l => (b.v32 l n).toNat % 2 ^ 16))

/-- Firmware gives a context back the array state it took away in a cluster, when no context owns the array; while
another context does, the context owns none (R278). -/
def State.giveBack (s : State) (q x : Nat) : State :=
  match (s.ctx? x).bind fun v => v.arrays.find q with
  | none => s
  | some st =>
    if (s.clusterAt q).clause.owner.isSome then s
    else (s.modCl q fun a => { a with owner := some x, st := st }).modCtx x fun v => { v with arrays := v.arrays.drop q }

/-- A clause instruction at issue: its object is checked, the queue's and the band's limits are met, INB counts one, and
the command goes to the array with the operands it read. -/
def State.clIssue (s : State) (op : Nat) (f : FX) : Host.Outcome State Fault Refusal :=
  s.bandOp f.g fun h =>
    let q := clusterOf h.core
    let so := h.band.sreg f.so.toNat
    if so ≠ BitVec.allOnes 64 ∧ h.objCode so ≠ 0 then h.bandFault s (h.objCode so) so
    else if 32 ≤ ((s.clusterAt q).clause.queue.filter fun e => !e.isFence).length || decide (15 ≤ s.clCount h) then s
    else if so ≠ BitVec.allOnes 64 ∧ s.scrBusy h so.toNat 16 = true then s
    else
      let s0 := s.giveBack q h.ctxId
      let (id, s1) := s0.takeId
      let a := (s0.clusterAt q).clause
      let c : ClCmd := ⟨id, h.core, h.slot, h.band.crew, h.ctxId, op, h.band.sreg f.sa.toNat, h.band.sreg f.sb.toNat, so,
        h.band.features (f.imm.toNat % 128), f.imm, h.band.running, h.band.p, false, a.owner != some h.ctxId, [], [], 0,
        [], [], []⟩
      (h.retire (s1.modCl q fun a => { a with queue := a.queue ++ [c] }) h.band).objCount h.core h.band.crew so (-1) 0

/-- CLCFG (R290). -/
def execClcfg (f : FX) (s : State) : Host.Outcome State Fault Refusal := s.clIssue 0xC0 f
/-- CLLD (R290). -/
def execClld (f : FX) (s : State) : Host.Outcome State Fault Refusal := s.clIssue 0xC1 f
/-- CLST (R290). -/
def execClst (f : FX) (s : State) : Host.Outcome State Fault Refusal := s.clIssue 0xC2 f
/-- CLINF (R293). -/
def execClinf (f : FX) (s : State) : Host.Outcome State Fault Refusal := s.clIssue 0xC3 f
/-- CLVOTE (R294). -/
def execClvote (f : FX) (s : State) : Host.Outcome State Fault Refusal := s.clIssue 0xC4 f
/-- CLFB (R295). -/
def execClfb (f : FX) (s : State) : Host.Outcome State Fault Refusal := s.clIssue 0xC5 f
/-- CLTAB (R291). -/
def execCltab (f : FX) (s : State) : Host.Outcome State Fault Refusal := s.clIssue 0xC6 f
/-- CLSEED (R292). -/
def execClseed (f : FX) (s : State) : Host.Outcome State Fault Refusal := s.clIssue 0xC7 f
/-- CLFNC (R296). -/
def execClfnc (f : FX) (s : State) : Host.Outcome State Fault Refusal := s.clIssue 0xC8 f
/-- CLCNT (R290). -/
def execClcnt (f : FX) (s : State) : Host.Outcome State Fault Refusal := s.clIssue 0xC9 f

/-! ### Events of the array -/

/-- Whether an instruction reads or writes memory, and so waits for the band's earlier accesses (R283): all but CLFB,
CLSEED and CLFNC, which orders nothing outside the array (R296). -/
def ClCmd.usesMemory (c : ClCmd) : Bool := c.op != 0xC5 && c.op != 0xC7 && c.op != 0xC8

/-- CL_ACCEPT: the array accepts the oldest command of a core that it has not accepted, once the band's earlier accesses
are performed when it uses memory; it joins the acceptance order (R279, R283). CLLD and CLST perform the band's earlier
writes at CLUSTER first. A CLFNC completes at once (R296). A context that no longer owns the array gets NOARRAY (R278). -/
def execClAccept (cluster core : Nat) (s : State) : Host.Outcome State Fault Refusal :=
  match (s.clusterAt cluster).clause.queue.find? fun c => !c.accepted && c.core == core with
  | none => .next s
  | some c =>
    if c.usesMemory && !s.bandPast core c.slot c.crew c.id then .next s
    else
      let s0 := s.giveBack cluster c.ctx
      let none_ := c.noArray || (s0.clusterAt cluster).clause.owner != some c.ctx
      let s1 := if (c.op = 0xC1 ∨ c.op = 0xC2) ∧ none_ = false then s0.release core c.slot 2 else s0
      let s2 := s1.modCl cluster fun a => { a with
        queue := (a.queue.filter fun e => e.accepted) ++ [{ c with accepted := true, noArray := none_ }]
          ++ a.queue.filter fun e => !e.accepted && e.id != c.id }
      .next (if c.op = 0xC8 then
          (s2.spend c.core c.crew 6 c.work).clEnd c (if none_ then [(0x40, 0)] else [])
        else s2)

/-- CL_COMPLETE: the oldest accepted instruction executes and completes (R281); a CLLD or CLST moves its next
piece. -/
def execClComplete (cluster : Nat) (s : State) : Host.Outcome State Fault Refusal :=
  match (s.clusterAt cluster).clause.queue with
  | [] => .next s
  | c :: _ =>
    if !c.accepted || !c.sent.isEmpty then .next s
    else match s.crew? c.core c.crew with
      | none => .next (s.modCl cluster fun a => { a with queue := a.queue.filter fun e => e.id != c.id })
      | some w =>
        match s.ctx? c.ctx with
        | none => .next (s.clDone cluster c [])
        | some x => .next (s.clRun cluster w x c)

end Sys2Proof.Machine
end

