-- ==== Sys2Proof/Machine/Convert.lean ====
section
/-! DEFINITION. Conversion and quantisation, 0x40 to 0x45 (07_numbers.md R169 to R173). -/

namespace Sys2Proof.Machine

/-! ### CVT (R169) -/

/-- Whether a TY is a float kind. -/
def tyIsFlt (ty : Nat) : Bool := ty == 8 || ty == 9 || ty == 10

/-- Float to integer: an out-of-range value clamps and a NaN gives 0, both raising IV; a value that is out of range and
whose rounding is inexact raises IV alone (R169 gives the two flags and not their joint case: DESIGN CHOICE, assumption
log entry 79). -/
def cvtToInt (ty rm : Nat) : FNum → Nat × BitVec 9
  | .nan _ => (0, flIV)
  | .inf neg => (lowBits (tyWidth ty) (if neg then kindMin (tyWidth ty) (tySigned ty) else kindMax (tyWidth ty) (tySigned ty)), flIV)
  | .fin neg num den e =>
    let r := roundInt rm neg num den e
    if r.1 < kindMin (tyWidth ty) (tySigned ty) then (lowBits (tyWidth ty) (kindMin (tyWidth ty) (tySigned ty)), flIV)
    else if kindMax (tyWidth ty) (tySigned ty) < r.1 then (lowBits (tyWidth ty) (kindMax (tyWidth ty) (tySigned ty)), flIV)
    else (lowBits (tyWidth ty) r.1, flagIf r.2 flNX)

/-- Conv: one element of source kind `sk` to destination kind `dk`. -/
def convElem (sk dk rm : Nat) (sat ftz : Bool) (code : Nat) : Nat × BitVec 9 :=
  if sk = dk then
    if tyIsFlt sk then
      match (tyFmt sk).decode false code with
      | .nan sig => ((tyFmt sk).nanCode, flagIf sig flIV)
      | _ => (code, 0)
    else (code, 0)
  else
    let n : Int := if tySigned sk then signedOf (tyWidth sk) code else (code : Nat)
    if tyIsFlt sk then
      if tyIsFlt dk then (tyFmt dk).round rm sat ftz ((tyFmt sk).decode ftz code)
      else cvtToInt dk rm ((tyFmt sk).decode ftz code)
    else if tyIsFlt dk then (tyFmt dk).round rm sat false (.ofInt n 0)
    else fin sat (tyWidth dk) (tySigned dk) n

/-- CVT (R169). -/
def execCvt (f : FV) (s : State) : Host.Outcome State Fault Refusal :=
  let sk := f.ty.toNat
  let dk := f.sub.toNat
  s.laneOp f.g .clone fun h m => h.band.putRes dk f.vd.toNat m fun l =>
    let x := h.band.srcV sk l f.va.toNat
    let r := (List.range (min (anyCount sk) (anyCount dk))).map fun e =>
      convElem sk dk (rmOf f) (satBit f) (ftzOf f) (elemOf (anyWidth sk) e x)
    (BitVec.ofNat 64 (ofElems (anyWidth dk) (r.map (·.1))), r.foldl (fun a x => a ||| x.2) 0)

/-! ### QNT and DQNT (R170, R171) -/

/-- A word that names an unbound slot is an illegal encoding (R148), whatever its guard (02_formats.md R42); else the
lane instruction. -/
def State.slotOp (s : State) (f : FV) (op : Here → LaneMask → Band) : Host.Outcome State Fault Refusal :=
  match s.here? with
  | none => .fault .noBand
  | some h =>
    if slotKind (h.band.slotDesc (f.sub.toNat % 8)) = .unbound then .next (s.kill h 1 0 0)
    else s.laneOp f.g .clone op

/-- The scale code in B(l)[7:0]. -/
def Band.scaleCode (b : Band) (f : FV) (l : Nat) : Nat := (b.srcB32 f l).toNat % 256

/-- The NaN of a kind, or 0. -/
def NumKind.nanOf : NumKind → Nat
  | .flt f => f.nanCode
  | _ => 0

/-- QNT (R170). -/
def execQnt (f : FV) (s : State) : Host.Outcome State Fault Refusal :=
  let ty := f.ty.toNat
  s.slotOp f fun h m => h.band.putRes 0 f.vd.toNat m fun l =>
    let d := h.band.slotDesc (f.sub.toNat % 8)
    let c := slotBits d
    let k := slotKind d
    let sc := h.band.scaleCode f l
    let x := h.band.srcV ty l f.va.toNat
    let r := (List.range (min (anyCount ty) (32 / c))).map fun e =>
      if sc = 0xFF then (k.nanOf, flIV)
      else k.round (slotRm d) (slotSat d)
        (((tyFmt ty).decode false (elemOf (anyWidth ty) e x)).scale (127 - (sc : Int)))
    (BitVec.ofNat 64 (ofElems c (r.map (·.1))), r.foldl (fun a x => a ||| x.2) 0)

/-- DQNT (R171). -/
def execDqnt (f : FV) (s : State) : Host.Outcome State Fault Refusal :=
  let ty := f.ty.toNat
  s.slotOp f fun h m => h.band.putRes 0 f.vd.toNat m fun l =>
    let d := h.band.slotDesc (f.sub.toNat % 8)
    let c := slotBits d
    let k := slotKind d
    let sc := h.band.scaleCode f l
    let x := h.band.srcV 0 l f.va.toNat
    let r := (List.range (min (anyCount ty) (32 / c))).map fun e =>
      let code := elemOf c e x
      let tq := flagIf (k == .ternary && code != 0xFF && code != 0 && code != 1) flTQ
      if sc = 0xFF then ((tyFmt ty).nanCode, tq ||| flIV)
      else
        let q := (tyFmt ty).round (slotRm d) false false ((k.value code).scale ((sc : Int) - 127))
        (q.1, tq ||| q.2)
    (BitVec.ofNat 64 (ofElems (anyWidth ty) (r.map (·.1))), r.foldl (fun a x => a ||| x.2) 0)

/-! ### AMAX (R172) -/

/-- A magnitude. -/
def absNum : FNum → FNum
  | .fin _ a d e => .fin false a d e
  | .inf _ => .inf false
  | x => x

/-- The element values of a block that take part: the lanes of `m`, and in a PAIRED crew those of the half of lane `l`
(R136, R172). -/
def Band.blockVals (b : Band) (f : FV) (m : LaneMask) (paired : Bool) (l e : Nat) : List FNum :=
  let ty := f.ty.toNat
  let es := anyCount ty
  let k := 16 * 2 ^ f.sub.toNat
  (lanesOf m).flatMap fun q =>
    if paired && q / 16 != l / 16 then []
    else (List.range es).filterMap fun g =>
      if (es * q + g) / k = (es * l + e) / k then
        some ((tyFmt ty).decode false (elemOf (anyWidth ty) g (b.srcV ty q f.va.toNat)))
      else none

/-- AMAX (R172). -/
def execAmax (f : FV) (s : State) : Host.Outcome State Fault Refusal :=
  let ty := f.ty.toNat
  s.laneOp f.g .clone fun h m => h.band.putRes 0 f.vd.toNat m fun l => perFloat ty fun e =>
    let vals := h.band.blockVals f m h.crew.paired l e
    let best := vals.foldl (fun a x => (pickNum true a (absNum x)).1) (.nan false)
    (((tyFmt ty).round 0 false false best).1, snanFlag vals)

/-! ### PKT5 and UPKT5 (R173) -/

/-- The five trits PKT5 reads. -/
def Band.tritsOf (b : Band) (f : FV) (l : Nat) : List Int :=
  ((List.range 4).map fun e => signedOf 8 (elemOf 8 e ((b.v32 l f.va.toNat).setWidth 64)))
    ++ [signedOf 8 (elemOf 8 0 ((b.v32 l (f.va.toNat + 1)).setWidth 64))]

/-- PKT5 (R173). -/
def execPkt5 (f : FV) (s : State) : Host.Outcome State Fault Refusal :=
  s.laneOp f.g .clone fun h m => h.band.putRes 0 f.vd.toNat m fun l =>
    let t := h.band.tritsOf f l
    (BitVec.ofNat 64 (t5Byte t), flagIf (t.any fun x => decide (1 < x.natAbs)) flIOV)

/-- UPKT5 (R173). -/
def execUpkt5 (f : FV) (s : State) : Host.Outcome State Fault Refusal :=
  s.laneOp f.g .clone fun h m =>
    let r := fun l => t5Trits ((h.band.v32 l f.va.toNat).toNat % 256)
    (h.band.setV64 f.vd.toNat m fun l => BitVec.ofNat 64 (ofElems 8 ((r l).1.map (lowBits 8)))).raise
      (flagsOver m fun l => flagIf (r l).2 flTQ)

end Sys2Proof.Machine
end

