-- ==== Sys2Proof/Machine/Fabric.lean ====
section
/-! DEFINITION. The plane fabric: requests of other devices at this device's memory side, the answers to its own, its
timers, the rehash of a dead plane or a returning one, and members that go down (14_fabric.md R326 to R342). -/

namespace Sys2Proof.Machine

/-! ### Events for the host (15_traps.md R353, 20_host.md R405) -/

/-- The contexts of the physical function, which is told of fabric events. -/
def State.pfContexts (s : State) : List Nat := (s.ctxs.filter fun e => e.2.fn == 0).map (·.1)
/-- A record for the physical function: in the log of each of its contexts, each with vector 1, then vector 2 (20_host.md
R405; DEDUCED, assumption log entry 40). -/
def State.pfRecord (s : State) (r : LogRec) : State := (s.pfContexts.foldl (fun s x => s.logRec x r) s).send (.msix 0 2)
/-- A FABRIC record: 1 link failed, 2 rehash committed, 3 member down, 4 request dropped, 5 refused by a window. -/
def State.fabEvent (s : State) (event plane dom : Nat) : State :=
  s.pfRecord ⟨10, 0, 0, 0, 0, 0,
    BitVec.ofNat 96 (event + plane % 8 * 2 ^ 8 + dom % 256 * 2 ^ 16 + s.fab.pgen.toNat * 2 ^ 24), 0, 0⟩

/-! ### Members (R327) -/

/-- The live members by rising index, this device among them. -/
def State.liveMembers (s : State) : List Nat :=
  (List.range 256).filter fun d => d == s.domidx.toNat || (match s.fab.members.find d with | some m => m.live | none => false)
/-- The committer: the lowest-numbered live member (R335 step 6). -/
def State.committer (s : State) : Nat := s.liveMembers.headD s.domidx.toNat
/-- The other live members. -/
def State.peers (s : State) : List Nat := s.liveMembers.filter fun d => d != s.domidx.toNat
/-- The planes of a mask, ascending. -/
def planesOf (m : BitVec 8) : List Nat := (List.range 8).filter fun p => m.getLsbD p

/-! ### The target side (R332, R333, R339, R340) -/

/-- The permission a request needs of an inbound window (R339). -/
def iwBit : ReqKind → Nat
  | .read => 1 | .write => 2 | .atomic | .cas => 3
/-- The permission a request needs of the leaf (08_memory.md R184). -/
def kindNeed : ReqKind → Need
  | .read => .r | .write => .w | .atomic | .cas => .rw
/-- The code of a request kind in the target log. -/
def kindCode : ReqKind → Nat
  | .read => 0 | .write => 1 | .atomic => 2 | .cas => 3

/-- Whether inbound window `n` admits a request (R339). -/
def Fabric.admits (f : Fabric) (r : RemoteReq) (n : Nat) : Bool :=
  let lo := f.inwin.get 0 (2 * n)
  let base := (lo.extractLsb' 32 32).toNat * 65536
  let size := (((f.inwin.get 0 (2 * n + 1)).extractLsb' 0 32).toNat + 1) * 65536
  lo.getLsbD 0 && lo.getLsbD (iwBit r.kind)
    && decide ((lo.extractLsb' 8 8).toNat ≤ r.src) && decide (r.src ≤ (lo.extractLsb' 16 8).toNat)
    && decide (base ≤ r.ia) && decide (r.ia + r.size ≤ base + size)

/-- The target's log entry of a refused request: source, IA, reason, kind (R340; the layout of the host's record is
DEDUCED, assumption log entry 40). -/
def State.targetLog (s : State) (r : RemoteReq) (reason : Nat) : State :=
  let s1 := s.modFab fun f => { f with refused := f.refused ++ [(r.src, r.ia, reason, kindCode r.kind)] }
  s1.pfRecord ⟨4, 0, 0, r.src, kindCode r.kind, BitVec.ofNat 64 r.ia,
    sideDetail (if reason = 5 then 9 else 8) reason 0 r.ia 0, 0, 0⟩

/-- The source's entry. -/
def Fabric.source (f : Fabric) (src : Nat) : Source := f.sources.get ⟨0, [], []⟩ src

/-- LA past the marked numbers. -/
def slide : Nat → BitVec 16 → List (BitVec 16) → BitVec 16 × List (BitVec 16)
  | 0, la, l => (la, l)
  | n + 1, la, l => if l.contains la then slide n (la + 1) (l.erase la) else (la, l)

/-- Number `q` is accepted: marked, LA advanced, and the answer kept while the number stays within the window. -/
def Source.accept (x : Source) (q : BitVec 16) (r : Option RemoteResult) : Source :=
  let (la, l) := slide 4096 x.la (x.accepted ++ [q])
  let keep := x.answers ++ (match r with | some a => [(q, a)] | none => [])
  ⟨la, l, keep.filter fun e => decide ((la - e.1).toNat ≤ 4096) || decide ((e.1 - la).toNat < 4096)⟩

/-- What R332 makes of a number. -/
inductive Fresh where
  | accept | duplicate | drop
  deriving DecidableEq, Repr

/-- The table of R332. -/
def Source.judge (x : Source) (q : BitVec 16) : Fresh :=
  if (q - x.la).toNat < 4096 && !x.accepted.contains q then .accept
  else if x.accepted.contains q || (decide (0 < (x.la - q).toNat) && decide ((x.la - q).toNat ≤ 4096)) then .duplicate
  else .drop

/-- The reason of a walk's sub-cause (R340). -/
def reasonOf (sub : Nat) : Nat := if sub = 5 then 1 else if sub = 6 then 2 else 3

/-- An atomic at the L2 for another device, or uncached at the memory side. -/
def State.farAtomic (s : State) (ia n : Nat) (uncached : Bool) (f : List Byte → List Byte) : Res (List Byte × Bool) :=
  match s.reach none (ia / 128) 0 with
  | none => .hold
  | some s1 =>
    match s1.sideRead ia n .rw uncached with
    | .ok s2 (old, true) => .ok s2 (old, true)
    | .ok s2 (old, false) =>
      match s2.sideWrite none ia (f old) uncached with
      | .ok s3 _ => .ok (s3.cores.keys.foldl (fun s d => s.l1Evict d (ia / 128)) s3) (old, false)
      | .bad b => .bad b
      | .hold => .hold
    | .bad b => .bad b
    | .hold => .hold

/-- The acquire of a request, before it is performed: at DEVICE or wider it promotes the cores that hold its lines pinned,
and at SYSTEM it sees what the host has released (08_memory.md R199, R193). -/
def State.farAcquire (s : State) (ia n acq : Nat) : State :=
  if acq < 3 then s
  else (pieces 3 ia n).foldl (fun s p => (s.reach none (p.1 / 128) acq).getD s) (if acq = 5 then s.hostPull else s)

/-- Performs an admitted request at the memory side, after a walk of its own (08_memory.md R183): its answer, or none while
a pinned line refuses it. What it writes to host memory has completed at the host when it is answered (R334). -/
def State.serve (s0 : State) (r : RemoteReq) : Option (State × RemoteResult) :=
  let ia := s0.domidx.toNat * 2 ^ 48 + r.ia
  match s0.walk r.ia with
  | .bad sub _ => some (s0, .refused (reasonOf sub))
  | .leaf l =>
  if !l.grants (kindNeed r.kind) then some (s0, .refused (reasonOf 6))
  else
  let s := (s0.touch l.key).farAcquire ia r.size r.acq
  let cp := if r.uncached then 3 else 2
  match r.kind with
  | .read =>
    match s.iaReadMany none cp (pieces 3 ia r.size) with
    | .ok s1 (d, p) => some (s1, if p then .poisoned else .data d)
    | .bad b => some (s, .refused (reasonOf b))
    | .hold => none
  | .write =>
    match s.iaWriteMany none cp (pieces 3 ia r.size) r.data with
    | .ok s1 _ => some ((if r.poison then s1.poisonIa none ia r.size else s1).hostPush, .data [])
    | .bad b => some (s, .refused (reasonOf b))
    | .hold => none
  | .atomic | .cas =>
    match s.farAtomic ia r.size r.uncached (newBytes (r.kind == .cas) r.aop r.data r.cmp) with
    | .ok s1 (d, p) => some (s1.hostPush, if p then .poisoned else .data d)
    | .bad b => some (s, .refused (reasonOf b))
    | .hold => none

/-- The plane an answer takes: its request's, or the new one while that plane is being retired (R331, R335). -/
def Fabric.answerPlane (f : Fabric) (r : RemoteReq) (ia : Nat) : Nat :=
  match f.rehash with
  | some h => if (h.mask &&& f.live).getLsbD r.plane then f.plane ia else r.plane
  | none => r.plane

/-- Sends the answer to a request. -/
def State.answer (s : State) (r : RemoteReq) (a : RemoteResult) : State :=
  s.send (.answer r.src r.q (s.fab.answerPlane r (s.domidx.toNat * 2 ^ 48 + r.ia)) a)

/-- The result of a request at this device: by the inbound windows, then the memory side; refusals are logged. -/
def State.handle (s : State) (r : RemoteReq) : Option (State × RemoteResult) :=
  if !(List.range 32).any (s.fab.admits r) then
    some ((s.targetLog r 4).fabEvent 5 r.plane r.src, .refused 4)
  else match s.serve r with
    | none => none
    | some (s1, .refused reason) => some (s1.targetLog r reason, .refused reason)
    | some (s1, a) => some (s1, a)

/-- A number marked accepted, with the answer kept for all but reads. -/
def State.markQ (s : State) (r : RemoteReq) (a : RemoteResult) : State :=
  s.modFab fun f => { f with
    sources := f.sources.put r.src ((f.source r.src).accept r.q (if r.kind = .read then none else some a)) }

/-- A whole packet reaches this device, which refuses it for its EPOCH, accepts it, answers a duplicate, or drops it (R326,
R327, R332, R333, R341); `take` performs it, `again` says whether a duplicate is performed again. -/
def State.receive (s : State) (r : RemoteReq) (again : Bool) (take : State → Option (State × RemoteResult)) : State :=
  if !r.whole then s
  else if r.epoch ≠ s.fab.epoch then (s.targetLog r 5).answer r (.refused 5)
  else match (s.fab.source r.src).judge r.q with
    | .accept =>
      match take s with
      | none => s
      | some (s1, a) => (s1.markQ r a).answer r a
    | .duplicate =>
      if again then
        match take s with
        | none => s
        | some (s1, a) => s1.answer r a
      else s.answer r (((s.fab.source r.src).answers.find? fun e => e.1 == r.q).elim (.data []) (·.2))
    | .drop => s.fabEvent 4 r.plane r.src

/-- REMOTE_REQUEST: a request meets the inbound windows and the memory side; a duplicate read is performed again. -/
def execRemoteRequest (r : RemoteReq) (s : State) : Host.Outcome State Fault Refusal :=
  .next (s.receive r (r.kind == .read) fun s => s.handle r)

/-- A collective's message is written into the receive area, with the cycle of its arrival, unless its collective has
ended here (R343). -/
def State.collArrive (s : State) (src : Nat) (m : CollMsg) : State :=
  if decide (m.step < s.fab.teams.get 0 m.team.toNat)
      && !(s.allColls.any fun e => match e.2.coll with | some x => x.fits m | none => false) then s
  else s.modFab fun f => { f with inbox := f.inbox ++ [(s.cycle, { m with device := src })] }

/-- COLL_MESSAGE: the write of a collective's message reaches this device; no inbound window is asked (R339, R343). -/
def execCollMessage (m : CollWrite) (s : State) : Host.Outcome State Fault Refusal :=
  .next (s.receive m.req false fun s => some (s.collArrive m.req.src m.msg, .data []))

/-! ### Rehash: what a change of the outstanding requests sets off (R335, R337) -/

/-- Requests that a return stalled are sent once the old plane has drained, their timers started (R337, R336). -/
def State.unstall (s : State) : State :=
  if s.fab.reqs.any s.fab.drains then s
  else
    let go := fun (r : Req) => if r.stalled then
      { r with stalled := false, plane := s.fab.plane r.ia, sent := s.cycle } else r
    { s with fab := { s.fab with reqs := s.fab.reqs.map go },
             out := s.out ++ (s.fab.reqs.filter (·.stalled)).map fun r => .request (go r) }

/-- Whether this device's part of a rehash is over: its replays acknowledged, and the planes drained from which entries
move back. -/
def Fabric.settled (f : Fabric) : Bool := f.reqs.all fun r => !r.replay && !r.stalled && !f.drains r

/-- The map of the committed generation with dead planes replaced: for each dead plane ascending, its k-th entry goes to
survivor k mod S (R335 step 2). -/
def deadMap (pmap : List Nat) (mask keep : BitVec 8) : List Nat :=
  let live := planesOf keep
  (List.range 64).map fun e =>
    let p := pmap.getD e 0
    if mask.getLsbD p then
      live.getD (((List.range e).filter fun i => pmap.getD i 0 == p).length % live.length) p
    else p
/-- The map with returning planes' own entries back (R337). -/
def backMap (pmap : List Nat) (mask : BitVec 8) : List Nat :=
  (List.range 64).map fun e => if mask.getLsbD (e % 8) then e % 8 else pmap.getD e 0

/-- A request ends: with its answer, in REMOTE-DOWN, or in a timeout; its owner learns of it (R334, R340 to R342). -/
def State.endReq (s : State) (r : Req) (res : RemoteResult) (timeout : Bool) : State :=
  let s1 := s.modFab fun f => { f with reqs := f.reqs.filter fun x => !(x.dst == r.dst && x.q == r.q) }
  let code := if timeout then 0xB else match res with
    | .data _ => 0 | .poisoned => 0xC | .refused k => if k = 0 ∨ k = 5 then 0xA else 9
  let d := match res with | .data d => d | _ => []
  match r.owner with
  | .band c k op l =>
    match s1.hereAt c k with
    | none => s1
    | some h =>
      match (h.band.log.find? fun o => o.id == op).bind fun o => o.elems.find? fun e => e.lane == l with
      | none => s1
      | some e =>
        if e.st ≠ .sent r.dst r.q then s1
        else if timeout then s1.faulted c k op l 10 0
        else match res with
          | .data d =>
            let s2 := match h.band.log.find? fun o => o.id == op with | some o => s1.acquire c o | none => s1
            (s2.took c k op l d false).finishOp c k op
          | .poisoned => (s1.took c k op l d true).finishOp c k op
          | .refused k2 => s1.faulted c k op l (if k2 = 0 ∨ k2 = 5 then 9 else 8) k2
  | .eng c id u => s1.engReply c id u r.size code d r.ia
  | .clause q id => s1.clReply q id r.size code d r.ia
  | .coll c id => if code = 0 then s1 else s1.collLost c id code r
  | .fw => { s1 with fw := { s1.fw with job := s1.fw.job.map fun j =>
      if code ≠ 0 then { j with sent := none, failed := true }
      else if r.kind = .read then { j with sent := none, part := j.part ++ d }
      else { j with sent := none, woff := j.woff + r.size } } }

/-- Ends a list of requests in REMOTE-DOWN. -/
def State.endAll (s : State) (l : List Req) : State := l.foldl (fun s r => s.endReq r (.refused 0) false) s

/-- Step 7 of R335 at this device, with FABRIC event 2: retired planes join DEAD and leave LIVE, returned ones the other way
round. What came meanwhile is found afterwards by `State.relook`. -/
def State.install (s : State) (r : Rehash) : State :=
  (s.modFab fun f => { f with
    pmap := r.map, pgen := r.gen, rehash := none, rhb := false, rhacks := [],
    dead := (f.dead &&& ~~~r.mask) ||| (f.live &&& r.mask), live := (f.live &&& ~~~r.mask) ||| (f.dead &&& r.mask),
    reqs := f.reqs.map fun q => { q with replay := false } }).fabEvent 2 ((planesOf r.mask).headD 0) s.domidx.toNat

/-- Steps 5 and 6 of R335: the RHACK once this device has settled; the COMMIT once the committer holds every live
member's RHACK with the same mask. -/
def State.acknowledge (s : State) : State :=
  match s.fab.rehash with
  | none => s
  | some r =>
    let me := s.domidx.toNat
    let s1 :=
      if r.acked || !s.fab.settled then s
      else
        let t := s.modFab fun f => { f with rehash := some { r with acked := true } }
        if s.committer = me then
          t.modFab fun f => { f with rhacks := (f.rhacks.filter fun a => a.1 != me) ++ [(me, r.gen, r.mask)] }
        else t.send (.rhack s.committer r.gen r.mask)
    if s1.committer = me && s1.liveMembers.all fun d => s1.fab.rhacks.contains (d, r.gen, r.mask) then
      ((s1.peers.flatMap fun d => (planesOf s1.fab.working).map fun p => (d, p)).foldl
        (fun s e => s.send (.commit e.1 e.2 r.gen)) s1).install r
    else s1

/-- Steps 1 to 4 of R335 for a mask, of whose planes the live ones are retired and the dead ones return (R337; DEDUCED,
assumption log entry 41): RHB, the new map, the notices, and the replays in order of issue. -/
def State.rehashFor (s : State) (mask : BitVec 8) : State :=
  let gen := s.fab.pgen + 1
  let gone := mask &&& s.fab.live
  let back := mask &&& s.fab.dead
  let map := backMap (deadMap s.fab.pmap gone (s.fab.live &&& ~~~gone)) back
  let new := mask &&& ~~~(match s.fab.rehash with | some r => r.mask | none => 0)
  let s1 := s.modFab fun f => { f with
    rhb := true, rehash := some ⟨gen, mask, map, false, s.cycle⟩, up := (f.up ||| (new &&& back)) &&& ~~~(new &&& gone) }
  let s2 := (s1.peers.flatMap fun d => (planesOf s1.fab.working).map fun p => (d, p)).foldl
    (fun s e => s.send (.rehash e.1 e.2 gen mask)) s1
  if gone = 0 then s2
  else if s2.fab.working = 0 then s2.endAll s2.fab.reqs
  else
    let hit := fun (r : Req) => gone.getLsbD r.plane
    let go := fun (r : Req) => if hit r then
      { r with plane := map.getD (h6 r.ia) 0, sent := s.cycle, stalled := false, replay := true } else r
    { s2 with fab := { s2.fab with reqs := s2.fab.reqs.map go },
              out := s2.out ++ (s2.fab.reqs.filter hit).map fun r => .request (go r) }

/-- A mask learnt, by a failed link, a REHASH or the host: a rehash starts, merges it by union, or has it already
(R336). -/
def State.learn (s : State) (mask : BitVec 8) : State :=
  match s.fab.rehash with
  | none => (s.rehashFor mask).acknowledge
  | some r =>
    if r.mask ||| mask == r.mask then s
    else ((s.modFab fun f => { f with rhacks := f.rhacks.filter fun a => a.1 != s.domidx.toNat }).rehashFor
      (r.mask ||| mask)).acknowledge

/-- After a commit: REHASHes of the next generation that came before it, and live planes whose link of this device is
down, start the next rehash (R336). -/
def State.relook (s : State) : State :=
  if s.fab.rehash.isSome then s
  else
    let m := s.fab.early.foldl (· ||| ·) (s.fab.live &&& ~~~s.fab.up)
    if m = 0 then s else (s.modFab fun f => { f with early := [] }).learn m

/-- What follows the end of a request: stalled ones may go, this device may have settled. -/
def State.afterEnd (s : State) : State := (s.unstall.acknowledge).relook

/-! ### The initiator side (R334, R340, R342) -/

/-- REMOTE_ACK: the answer to a request of this device (R333, R334, R340). -/
def execRemoteAck (dst : Nat) (q : BitVec 16) (res : RemoteResult) (s : State) : Host.Outcome State Fault Refusal :=
  match s.fab.reqs.find? fun r => r.dst == dst && r.q == q with
  | none => .next s
  | some r => .next (s.endReq r res false).afterEnd

/-- REMOTE_TIMEOUT: FTMO cycles have passed without an answer; the timer does not run while the plane is stalled (R336,
R340, R342). -/
def execRemoteTimeout (dst : Nat) (q : BitVec 16) (s : State) : Host.Outcome State Fault Refusal :=
  match s.fab.reqs.find? fun r => r.dst == dst && r.q == q with
  | none => .next s
  | some r =>
    if r.stalled || decide (s.cycle < r.sent + s.fab.ftmo.toNat) then .next s
    else .next (s.endReq r (.refused 0) true).afterEnd

/-! ### Links and the rehash (R326, R335 to R337) -/

/-- This device's link to a plane has failed: logged, and the plane is retired unless it is dead already. -/
def State.linkDown (s : State) (p : Nat) : State :=
  if !s.fab.up.getLsbD p then s
  else
    let s1 := (s.modFab fun f => { f with up := f.up &&& ~~~(1#8 <<< p), resends := f.resends.drop p }).fabEvent 1 p s.domidx.toNat
    if s1.fab.live.getLsbD p then s1.learn (1#8 <<< p) else s1

/-- LINK_FAILURE: a link loses signal, or its switch announces that the plane is down (R326, R335). -/
def execLinkFailure (plane : Nat) (s : State) : Host.Outcome State Fault Refusal := .next (s.linkDown plane)

/-- FLIT_RESEND: the link resends a flit from its replay buffer; the sixteenth failure in a row of one flit fails the
link (R326). -/
def execFlitResend (plane : Nat) (good : Bool) (s : State) : Host.Outcome State Fault Refusal :=
  if good then .next (s.modFab fun f => { f with resends := f.resends.drop plane })
  else if s.fab.resends.get 0 plane + 1 < 16 then
    .next (s.modFab fun f => { f with resends := f.resends.put plane (f.resends.get 0 plane + 1) })
  else .next (s.linkDown plane)

/-- REHASH: a received REHASH of the next generation starts the steps or merges its mask (R335, R336), as does one that names
a return (R337); one of the generation after the one under way waits for its commit, which it has overtaken. -/
def execRehash (gen : BitVec 16) (mask : BitVec 8) (s : State) : Host.Outcome State Fault Refusal :=
  if mask = 0 then .next s
  else if gen = s.fab.pgen + 1 then .next (s.learn mask)
  else if gen = s.fab.pgen + 2 ∧ s.fab.rehash.isSome = true then .next (s.modFab fun f => { f with early := f.early ++ [mask] })
  else .next s

/-- RHACK: the committer receives a member's RHACK (R335 step 6). -/
def execRhack (src : Nat) (gen : BitVec 16) (mask : BitVec 8) (s : State) : Host.Outcome State Fault Refusal :=
  if gen ≠ s.fab.pgen + 1 then .next s
  else .next ((s.modFab fun f => { f with
    rhacks := (f.rhacks.filter fun a => a.1 != src) ++ [(src, gen, mask)] }).acknowledge).relook

/-- COMMIT: step 7 of R335. -/
def execCommit (gen : BitVec 16) (s : State) : Host.Outcome State Fault Refusal :=
  match s.fab.rehash with
  | none => .next s
  | some r => if r.gen = gen then .next (s.install r).afterEnd else .next s

/-! ### Members that go down (R336, R341) -/

/-- A member is marked down: logged, its requests end in REMOTE-DOWN, and when it was the committer the next one gets
this device's RHACK again. -/
def State.memberOff (s : State) (d : Nat) : State :=
  match s.fab.members.find d with
  | none => s
  | some m =>
    if !m.live then s
    else
      let old := s.committer
      let s1 := (s.modFab fun f => { f with members := f.members.put d { m with live := false } }).fabEvent 3 0 d
      let s2 := s1.modFab fun f => { f with
        rhacks := f.rhacks.filter fun a => a.1 != d,
        rehash := f.rehash.map fun r => if old = d then { r with acked := false, start := s.cycle } else r }
      s2.endAll (s2.fab.reqs.filter fun r => r.dst == d)

/-- RHTMO_EXPIRY: RHTMO cycles have passed at the committer: the members whose RHACK is missing are marked down, all are
told, and the rehash commits without them (R336). -/
def execRhtmoExpiry (s : State) : Host.Outcome State Fault Refusal :=
  match s.fab.rehash with
  | none => .next s
  | some r =>
    if s.committer ≠ s.domidx.toNat ∨ s.cycle < r.start + s.fab.rhtmo.toNat then .next s
    else
      let lost := s.peers.filter fun d => !s.fab.rhacks.contains (d, r.gen, r.mask)
      let s1 := lost.foldl (fun s d => s.memberOff d) s
      .next ((lost.flatMap fun d => s.peers.map fun p => (p, d)).foldl (fun s e => s.send (.memberDown e.1 e.2)) s1).afterEnd

/-- MEMBER_DOWN: a received MEMBER-DOWN marks a member down (R341). -/
def execMemberDown (domidx : Nat) (s : State) : Host.Outcome State Fault Refusal :=
  .next (s.memberOff domidx).afterEnd

end Sys2Proof.Machine
end

