-- ==== Sys2Proof/Machine/Tasks.lean ====
section
/-! DEFINITION. Tasks, bins, queues and dependency counters, 0xD0 to 0xD9 (13_tasks.md R299 to R324). -/

namespace Sys2Proof.Machine

/-! ### The task record (R299, R300, 03_assembly.md R58) -/

/-- A field of `n` bytes of a record. -/
def recU (d : List Byte) (o n : Nat) : Nat := ofBytes (sliceOf d o n)

/-- Scratchpad of a carve-out setting, in KiB (03_assembly.md R68); setting 0 may take the largest. -/
def carveKiB (c : Nat) : Nat :=
  if c = 2 then 448 else if c = 3 then 384 else if c = 4 then 256 else if c = 5 then 128 else 512

/-- The kernel header of a label id of a module (R300). -/
def Module.header (m : Module) (lid : BitVec 16) : Option KHeader :=
  match (if lid = 0xFFFF then none else m.labels[lid.toNat]?) with
  | some e => if e.entry then m.kernels[e.kidx]? else none
  | none => none

/-- What a task is launched with. -/
structure Launch where
  crew  : Nat
  gang  : Nat
  regs  : Nat
  stack : Nat
  carve : Nat
  units : Nat          -- the allotment in units of 4 KiB
  idem  : Bool
  paired : Bool
  checked : Bool
  energy : Nat
  deriving DecidableEq, Repr

/-- The allotment in 4 KiB units: SCRK, or SCRATCH rounded up and at least one unit (R299). -/
def scrUnits (scrk scratch : Nat) : Nat := if scrk = 0 then max 1 ((scratch + 4095) / 4096) else scrk

/-- The launch values of a record of KIND 1 or 2 under a header, none when R299, R300 or R58 refuses it. -/
def recLaunch (d : List Byte) (k : KHeader) : Option Launch :=
  let kind := recU d 4 1
  let crew := if recU d 5 1 = 0 then k.crew else recU d 5 1
  let gang := recU d 6 1
  let regs := recU d 7 1
  let cstk := 8 * recU d 8 2
  let carve := recU d 0xA 1
  let pf := recU d 0xB 1
  let scrk := recU d 0xC 1
  let units := scrUnits scrk k.scratch
  let ok := (kind == 1 || kind == 2) && decide (recU d 5 1 ≤ 32) && crew != 0 && (k.crew == 0 || crew == k.crew)
    && decide (1 ≤ gang) && decide (gang ≤ 16) && (kind == 2 || gang == 1) && gang == k.gang
    && (regs == 0 || regs == k.regs) && (cstk == 0 || cstk == k.stack)
    && decide (carve ≤ 5) && (k.carve == 0 || carve == k.carve) && decide (pf < 64) && decide (scrk ≤ 128)
    && (scrk == 0 || decide (k.scratch ≤ scrk * 4096)) && decide (4 * units ≤ carveKiB carve)
    && decide (recU d 0xD 1 < 16) && decide (recU d 0x14 4 / 2 ^ 18 % 2 ^ 13 = 0)
    && decide (crew * k.regs / 8 ≤ 256)
  if ok then some ⟨crew, gang, k.regs, k.stack, carve, units, pf.testBit 3, pf.testBit 4, pf.testBit 5, recU d 0xD 1⟩
  else none

/-- The launch values of a bin band (R303), none when SPAWN refuses its entry. -/
def binLaunch (k : KHeader) : Option Launch :=
  let units := scrUnits 0 k.scratch
  if decide (k.crew ≤ 1) && k.gang == 1 && decide (4 * units ≤ carveKiB k.carve) && k.fslots.all slotValid then
    some ⟨1, 1, k.regs, k.stack, k.carve, units, k.kflags.getLsbD 0, k.kflags.getLsbD 1, k.kflags.getLsbD 2, k.energy⟩
  else none

/-- The launch values of a task as its module stands now. -/
def Task.launch (t : Task) (x : Ctx) : Option Launch :=
  match (x.modules.find t.mod).bind fun m => m.header t.entry with
  | none => none
  | some k => if t.kind = 0 then binLaunch k else recLaunch t.bytes k

/-- Dependency counter of a record: DV and index. -/
def recDep (d : List Byte) : Option Nat := if (recU d 0x14 4).testBit 31 then some (recU d 0x14 4 % 2 ^ 18) else none

/-- Table `i` of the context's format slots: eight descriptors at FTBASE + 32(i − 1); table 0 leaves them unbound
(R299). -/
def State.slotTable (s : State) (x : Ctx) (i : Nat) : Option (List Word) :=
  if i = 0 then some (List.replicate 8 0)
  else if x.ftcount.toNat < i then none
  else match s.iaReadMany none 2 (pieces 3 (s.domidx.toNat * 2 ^ 48 + x.ftbase.toNat % 2 ^ 48 + 32 * (i - 1)) 32) with
    | .ok _ (d, _) =>
      let t := (List.range 8).map fun n => BitVec.ofNat 32 (recU d (4 * n) 4)
      if t.all slotValid then some t else none
    | _ => none

/-- A record enters the device: refused, or checked with what the check resolved (R300). `own` is the module that MOD 0
means. -/
def State.checkRec (s : State) (x : Ctx) (own : Nat) (d : List Byte) : Option (Nat × List Word × Launch) :=
  let m := if recU d 0 2 = 0 then own else recU d 0 2
  match (x.modules.find m).bind fun v => v.header (BitVec.ofNat 16 (recU d 2 2)) with
  | none => none
  | some k =>
    match recLaunch d k, s.slotTable x (recU d 0xE 2) with
    | some l, some fs =>
      if (match recDep d with | some i => decide (x.dccnt.toNat ≤ i) | none => false) then none else some (m, fs, l)
    | _, _ => none

/-! ### Task ids (R301) -/

/-- Mix of R301. -/
def mix (x : DWord) : BitVec 48 :=
  let a := (x ^^^ (x >>> 30)) * 0xBF58476D1CE4E5B9#64
  let b := (a ^^^ (a >>> 27)) * 0x94D049BB133111EB#64
  (b ^^^ (b >>> 31)).setWidth 48

/-- The id of the `k`-th task a band creates. -/
def Here.childId (h : Here) (k : Nat) : BitVec 48 :=
  mix (h.crew.task.id.setWidth 64 ^^^ (BitVec.ofNat 64 (32 * h.crew.member + h.band.index) <<< 40) ^^^ BitVec.ofNat 64 k)

/-! ### Bins (R302, R303) -/

/-- Lane tasks at which a bin launches (R302). -/
def State.binFull (s : State) (x : Nat) (b : Bin) : Nat :=
  match ((s.ctx? x).bind fun v => v.modules.find b.mod).bind fun m => m.header b.entry with
  | some k => if k.kflags.getLsbD 1 then 16 else 32
  | none => 32

/-- The task a launched bin becomes: its id is that of lane 0, its PRIO that of lane 0's spawner (R303). -/
def binTask (q : Nat) (b : Bin) (now : Nat) : Task :=
  ⟨(b.lanes.headD (0, 0)).2, b.ctx, b.mod, b.entry, 0, [], [], q, 0, false, b.prio, b.lanes, now⟩

/-- Launches bin `i` of a cluster: it is empty and free again at once. -/
def State.binGo (s : State) (q i : Nat) : State :=
  match (s.clusterAt q).bins.find i with
  | none => s
  | some b =>
    s.setCluster q { s.clusterAt q with
      bins := (s.clusterAt q).bins.drop i, launched := (s.clusterAt q).launched ++ [binTask q b s.cycle] }

/-- The lowest bin of a cluster that has a property. -/
def firstBin (p : Bin → Bool) (bins : Tab Bin) : Option (Nat × Bin) :=
  (List.range 64).findSome? fun i => match bins.find i with | some b => if p b then some (i, b) else none | none => none

/-- Places one lane task in a bin (R302); none when no bin is free. -/
def State.place (s : State) (q x m : Nat) (entry : BitVec 16) (prio : Nat) (a : DWord × BitVec 48) : Option State :=
  let bins := (s.clusterAt q).bins
  let put := fun (i : Nat) (b : Bin) =>
    let s1 := s.setCluster q { s.clusterAt q with bins := bins.put i b }
    if s.binFull x b ≤ b.lanes.length then s1.binGo q i else s1
  match firstBin (fun b => b.ctx == x && b.mod == m && b.entry == entry) bins with
  | some (i, b) => some (put i { b with lanes := b.lanes ++ [a] })
  | none =>
    match (List.range 64).find? fun i => (bins.find i).isNone with
    | some i => some (put i ⟨x, m, entry, [a], prio, s.cycle⟩)
    | none => none

/-- Places lane tasks in turn. -/
def State.placeAll (s : State) (q x m : Nat) (entry : BitVec 16) (prio : Nat) : List (DWord × BitVec 48) → Option State
  | [] => some s
  | a :: t => (s.place q x m entry prio a).bind fun s1 => State.placeAll s1 q x m entry prio t

/-! ### Failures (R318) -/

/-- A precise TASK fault. -/
def Here.taskFault (h : Here) (s : State) (m : LaneMask) (code : Nat) : State := h.fault s 9 (BitVec.ofNat 96 code) m

/-- The reply of a failure. -/
def failReply (code : Nat) : DWord := BitVec.ofNat 64 (code * 2 ^ 48)

/-- A failure: in the reply with RP = 1, else a precise fault. -/
def Here.taskFail (h : Here) (s : State) (f : FE) (code : Nat) : State :=
  if f.rp then h.retire s (h.band.setS f.sd.toNat (failReply code)) else h.taskFault s h.band.running code

/-- The band after a task instruction that succeeded, with its reply. -/
def Here.replied (h : Here) (f : FE) (r : DWord) : Band := if f.rp then h.band.setS f.sd.toNat r else h.band
/-- The same after one that acts as an acquire (R308). -/
def Here.acquired (h : Here) (s : State) (f : FE) (r : DWord) : Band := { h.replied f r with acqAt := s.nextId }

/-! ### SPAWN (R323) -/

/-- SPAWN: a DEVICE-scope release, so it waits for the band's earlier operations (R308); not ready while no bin takes
its tasks. It reads its label's entry (03_assembly.md R74). -/
def execSpawn (f : FC) (s : State) : Host.Outcome State Fault Refusal :=
  s.onBand fun h =>
    let m := h.band.guarded f.g
    if m = 0 then h.retire s h.band
    else if (h.label f.lid).isNone then h.fault s 3 (ctrlDetail 1 (lowest m) f.lid) m
    else if ((h.module.bind fun v => v.header f.lid).bind binLaunch).isNone then
      h.taskFault (s.cacheLabel h.core h.ctxId h.crew.task.mod f.lid) m 2
    else if !s.drained h then s
    else
      let s0 := s.cacheLabel h.core h.ctxId h.crew.task.mod f.lid
      let tasks := (lanesOf m).mapIdx fun i l => (h.band.v64 l f.va.toNat, h.childId (h.band.kids + i))
      match (s0.release h.core h.slot 3).placeAll (clusterOf h.core) h.ctxId h.crew.task.mod f.lid h.crew.task.prio tasks with
      | none => s
      | some s1 => h.retire s1 { h.band with kids := h.band.kids + tasks.length }

/-! ### Queues (R305, R319, R320) -/

/-- The queue a queue operand names: cluster and number; none when the operand is malformed or the queue is not the
context's. -/
def State.queueOf (s : State) (x : Nat) (own : Nat) (v : DWord) : Option (Nat × Nat) :=
  let n := v.toNat
  let q := if n.testBit 8 then n / 16 % 16 else own
  if 2 ^ 9 ≤ n || (!n.testBit 8 && n / 16 % 16 != 0) then none
  else if ((s.clusterAt q).queues.get ⟨none, []⟩ (n % 16)).owner = some x then some (q, n % 16) else none

def State.queueAt (s : State) (q n : Nat) : Queue := (s.clusterAt q).queues.get ⟨none, []⟩ n
def State.setQueue (s : State) (q n : Nat) (v : Queue) : State :=
  s.setCluster q { s.clusterAt q with queues := (s.clusterAt q).queues.put n v }

/-- The place of counter `i` of a context in CHIP (R307). -/
def Ctx.counterAt (x : Ctx) (i : Nat) : Nat := 0x3F00000 + 4 * (x.dcbase.toNat + i)

/-- A record enters a queue as a task: held when its counter is not 0 (R305, R307). -/
def State.enqueue (s : State) (x : Nat) (v : Ctx) (q n m : Nat) (fs : List Word) (id : BitVec 48) (d : List Byte) : State :=
  let held := match recDep d with | some i => ofBytes (s.chip.read (v.counterAt i) 4) != 0 | none => false
  let t : Task := ⟨id, x, m, BitVec.ofNat 16 (recU d 2 2), recU d 4 1, d, fs, q, n, held, recU d 0xB 1 % 8, [], s.cycle⟩
  s.setQueue q n { s.queueAt q n with tasks := (s.queueAt q n).tasks ++ [t] }

/-- The address rules of TQENQ and TQDEQ: the MEM sub-cause, or 0 (R319). -/
def Here.recCode (h : Here) (a : DWord) : Nat :=
  if a.toNat % 64 ≠ 0 then 4 else if h.crew.holds a.toNat 64 then 0 else 3

/-- TQENQ (R319): a DEVICE-scope release (R308). -/
def execTqenq (f : FE) (s : State) : Host.Outcome State Fault Refusal :=
  s.bandOp f.g fun h =>
    let a := h.band.sreg f.sa.toNat
    if h.recCode a ≠ 0 then h.bandFault s (h.recCode a) a
    else if !s.drained h then s
    else if s.scrPoisoned h.core h.crew a.toNat 64 then s.killPoison h 4 (h.crew.scrUnit a.toNat)
    else
      let d := s.scrRead h.core h.crew a.toNat 64
      match s.queueOf h.ctxId (clusterOf h.core) (h.band.sreg f.sb.toNat) with
      | none => h.taskFail s f 3
      | some (q, n) =>
        match s.checkRec h.ctx h.crew.task.mod d with
        | none => h.taskFail s f 2
        | some (m, fs, _) =>
          if 4096 ≤ (s.queueAt q n).tasks.length then
            if f.rp then h.taskFail s f 1 else s
          else
            let id := h.childId h.band.kids
            h.retire ((s.release h.core h.slot 3).enqueue h.ctxId h.ctx q n m fs id d)
              { h.replied f (id.setWidth 64) with kids := h.band.kids + 1 }

/-- The candidate of a queue: its oldest eligible record. -/
def Queue.candidate (v : Queue) : Option Task := v.tasks.find? fun t => !t.held
/-- A queue without one task. -/
def Queue.without (v : Queue) (t : Task) : Queue := { v with tasks := v.tasks.erase t }

/-- TQDEQ (R320): a DEVICE-scope acquire (R308); it waits at the LD limit (08_memory.md R218). -/
def execTqdeq (f : FE) (s : State) : Host.Outcome State Fault Refusal :=
  s.bandOp f.g fun h =>
    let a := h.band.sreg f.sa.toNat
    if h.recCode a ≠ 0 then h.bandFault s (h.recCode a) a
    else if 63 ≤ s.ldCount h || s.scrBusy h a.toNat 64 then s
    else match s.queueOf h.ctxId (clusterOf h.core) (h.band.sreg f.sb.toNat) with
      | none => h.taskFail s f 3
      | some (q, n) =>
        let v := s.queueAt q n
        match v.candidate with
        | none =>
          h.retire ((s.scrWrite h.core h.crew a.toNat (List.replicate 64 0)).refresh h.core) (h.acquired s f (failReply 4))
        | some t =>
          h.retire (((s.setQueue q n (v.without t)).scrWrite h.core h.crew a.toNat t.bytes).refresh h.core)
            (h.acquired s f (t.id.setWidth 64))

/-! ### Dependency counters (R307, R321) -/

/-- Held records of a counter that has come to 0 become eligible (R307). -/
def State.wakeHeld (s : State) (at_ : Nat) : State :=
  let free := fun (t : Task) =>
    if t.held && (match s.ctx? t.ctx, recDep t.bytes with
      | some v, some i => v.counterAt i == at_
      | _, _ => false) then { t with held := false } else t
  { s with clusters := s.clusters.map fun e =>
      (e.1, { e.2 with queues := e.2.queues.map fun v => (v.1, { v.2 with tasks := v.2.tasks.map free }) }) }

/-- A change of a counter: a DEVICE-scope release and acquire around it (R308, R321). -/
def State.counterOp (s : State) (f : FE) (g : Word → Word → Word) : Host.Outcome State Fault Refusal :=
  s.bandOp f.g fun h =>
    let i := h.band.sreg f.sa.toNat
    if 2 ^ 18 ≤ i.toNat ∨ h.ctx.dccnt.toNat ≤ i.toNat then h.taskFail s f 5
    else if !s.drained h then s
    else
      let a := h.ctx.counterAt i.toNat
      let x := BitVec.ofNat 32 (ofBytes (s.chip.read a 4))
      let y := g x ((h.band.sreg f.sb.toNat).extractLsb' 0 32)
      let s1 := s.release h.core h.slot 3
      let s2 := ({ s1 with chip := s1.chip.write 8 a (toBytes 4 y.toNat) }).refresh h.core
      h.retire (if y = 0 then s2.wakeHeld a else s2) (h.acquired s f (y.signExtend 64))

/-- DCINIT (R321). -/
def execDcinit (f : FE) (s : State) : Host.Outcome State Fault Refusal := s.counterOp f fun _ b => b
/-- DCDEC (R321). -/
def execDcdec (f : FE) (s : State) : Host.Outcome State Fault Refusal := s.counterOp f fun x _ => x - 1
/-- DCADD (R321). -/
def execDcadd (f : FE) (s : State) : Host.Outcome State Fault Refusal := s.counterOp f fun x b => x + b

/-! ### BINFL (R322) -/

/-- BINFL: launches the bin of a key, or with all ones every bin of the context on the cluster. -/
def execBinfl (f : FE) (s : State) : Host.Outcome State Fault Refusal :=
  s.bandOp f.g fun h =>
    let a := h.band.sreg f.sa.toNat
    let q := clusterOf h.core
    let m := if (a.extractLsb' 16 16).toNat = 0 then h.crew.task.mod else (a.extractLsb' 16 16).toNat
    let all := a == BitVec.allOnes 64
    if !all && 2 ^ 32 ≤ a.toNat then h.taskFail s f 2
    else
      let hit := (List.range 64).filter fun i => match (s.clusterAt q).bins.find i with
        | some b => b.ctx == h.ctxId && (all || (b.mod == m && b.entry == a.extractLsb' 0 16))
        | none => false
      h.retire (hit.foldl (fun s i => s.binGo q i) s) h.band

/-! ### TARG, TID, PROG (R324) -/

/-- TARG: argument doubleword k of the crew's record; 0 in a bin band. -/
def execTarg (f : FS) (s : State) : Host.Outcome State Fault Refusal :=
  s.bandOp f.g fun h =>
    let v := if h.crew.task.kind = 0 then 0 else BitVec.ofNat 64 (recU h.crew.task.bytes (0x18 + 8 * f.imm.toNat) 8)
    h.retire s (h.band.setS f.sd.toNat v)

/-- TID: task id, band index, gang member. -/
def execTid (f : FS) (s : State) : Host.Outcome State Fault Refusal :=
  s.bandOp f.g fun h =>
    h.retire s (h.band.setS f.sd.toNat (BitVec.ofNat 64
      (h.crew.task.id.toNat + h.band.index % 32 * 2 ^ 48 + h.crew.member % 16 * 2 ^ 56)))

/-- PROG: the crew's remaining estimate. -/
def execProg (f : FS) (s : State) : Host.Outcome State Fault Refusal :=
  s.bandOp f.g fun h =>
    let b := (h.band.srcS f).toInt
    (h.retire s h.band).modCrew h.core h.band.crew fun w => { w with prog := some (min b (2 ^ 32 - 1)).toNat }

end Sys2Proof.Machine
end

