-- ==== Sys2Proof/Machine/System.lean ====
section
/-! DEFINITION. System registers, the system instructions 0xE0 to 0xE6, hints, emulation space and illegal words
(15_traps.md R354 to R356, R383 to R390; 02_formats.md R43 to R48). -/

namespace Sys2Proof.Machine

/-! ### System registers (R354, R355) -/

/-- DEVID (00_scope.md R1). -/
def State.devid (s : State) : DWord :=
  BitVec.ofNat 64 (s.domidx.toNat + s.stepMin.toNat * 2 ^ 8 + s.stepMaj.toNat * 2 ^ 12 + 0x0940 * 2 ^ 16 + 2 ^ 40)
/-- PSTAT (14_fabric.md R329). -/
def Fabric.pstat (f : Fabric) : DWord :=
  BitVec.ofNat 64 (f.live.toNat + f.dead.toNat * 2 ^ 8 + f.pgen.toNat * 2 ^ 16 + (if f.rhb then 2 ^ 32 else 0))
/-- EBUD: the reserve in µJ, rounded toward −∞ (20_host.md R414). -/
def Ctx.ebud (x : Ctx) : DWord := BitVec.ofInt 64 (Int.fdiv x.reserve (2 ^ 32))

/-- A register by its number; 0 for a number that no register has. -/
def State.sysRead (s : State) (h : Here) (n : Nat) : DWord :=
  match n with
  | 0x000 => s.devid
  | 0x001 => BitVec.ofNat 64 h.core
  | 0x002 => BitVec.ofNat 64 (clusterOf h.core)
  | 0x003 => BitVec.ofNat 64 (h.ctxId % 64)
  | 0x004 => if h.ctx.detm then 1 else 0
  | 0x005 => s.fab.pstat
  | 0x006 => h.ctx.cerr.setWidth 64
  | 0x010 => h.band.tvec
  | 0x011 => h.band.tfrm
  | 0x012 => if h.band.tl then 1 else 0
  | 0x013 => h.band.cause
  | 0x014 => h.band.detail.extractLsb' 0 64
  | 0x015 => (h.band.detail.extractLsb' 64 32).setWidth 64
  | 0x016 => h.band.flags.setWidth 64
  | 0x017 => h.band.fen.setWidth 64
  | 0x018 => h.band.cstk
  | 0x019 => h.band.scnt.setWidth 64
  | 0x01A => h.band.icnt
  | 0x01B => if h.ctx.detm then h.band.icnt else h.band.ccnt
  | 0x01C => BitVec.ofNat 64 h.ctx.ecnt
  | 0x01D => h.ctx.ebud
  | 0x120 => h.ctx.pvbase
  | 0x121 => h.ctx.pvsize
  | 0x122 => h.ctx.chiplo
  | 0x123 => h.ctx.chiphi
  | 0x124 => h.ctx.ftbase
  | 0x125 => h.ctx.ftcount
  | 0x126 => h.ctx.dcbase
  | 0x127 => h.ctx.dccnt
  | 0x128 => h.ctx.btim
  | 0x129 => h.ctx.wdt
  | 0x12A => h.ctx.chkn.setWidth 64
  | 0x12B => h.ctx.pdrain
  | 0x12C => h.ctx.pflush
  | 0x12D => h.ctx.csave
  | 0x12E => h.ctx.csavesz
  | n =>
    if 0x030 ≤ n ∧ n ≤ 0x037 then (h.band.slotDesc (n - 0x030)).setWidth 64
    else if 0x100 ≤ n ∧ n ≤ 0x11F then h.ctx.vw.get 0 (n - 0x100)
    else 0

/-- Whether a register is privileged. -/
def sysPriv (n : Nat) : Bool := decide (0x100 ≤ n)
/-- Whether bands may write a register that is not privileged: TVEC, TFRM, FLAGS, FEN, CSTK. -/
def sysWritable (n : Nat) : Bool := n == 0x010 || n == 0x011 || n == 0x016 || n == 0x017 || n == 0x018

/-- The bits of VWn.LO and VWn.HI that are not reserved (08_memory.md R180). -/
def vwMask (n : Nat) : DWord := if n % 2 = 0 then 0x01FFFFFFFFFF01FF#64 else BitVec.allOnes 64

/-- A privileged register of the context, written. -/
def Ctx.sysWrite (x : Ctx) (n : Nat) (v : DWord) : Ctx :=
  match n with
  | 0x120 => { x with pvbase := v }
  | 0x121 => { x with pvsize := v }
  | 0x122 => { x with chiplo := v }
  | 0x123 => { x with chiphi := v }
  | 0x124 => { x with ftbase := v }
  | 0x125 => { x with ftcount := v }
  | 0x126 => { x with dcbase := v }
  | 0x127 => { x with dccnt := v }
  | 0x128 => { x with btim := v }
  | 0x129 => { x with wdt := v }
  | 0x12A => { x with chkn := v.extractLsb' 0 4 }
  | 0x12B => { x with pdrain := v }
  | 0x12C => { x with pflush := v }
  | 0x12D => { x with csave := v }
  | 0x12E => { x with csavesz := v }
  | n => if 0x100 ≤ n ∧ n ≤ 0x11F then { x with vw := x.vw.put (n - 0x100) (v &&& vwMask (n - 0x100)) } else x

/-- A register of the band, written; reserved bits are ignored (00_scope.md R6). -/
def Band.sysWrite (b : Band) (n : Nat) (v : DWord) : Band :=
  if n = 0x010 then { b with tvec := v &&& 0xFFFFFFFF#64 }
  else if n = 0x011 then { b with tfrm := v }
  else if n = 0x016 then { b with flags := v.extractLsb' 0 9 }
  else if n = 0x017 then { b with fen := v.extractLsb' 0 9 }
  else { b with cstk := v }

/-- The ILLEGAL sub-cause of a read, or 0 (R387). -/
def Here.readCode (h : Here) (n : Nat) : Nat := if sysPriv n && !h.ctx.sys then 1 else 0
/-- The ILLEGAL sub-cause of a write, or 0 (R387). -/
def Here.writeCode (h : Here) (n : Nat) (v : DWord) : Nat :=
  if sysPriv n then (if h.ctx.sys then 0 else 1)
  else if !sysWritable n then 2
  else if n = 0x018 then
    (if !h.band.tl then 5
     else if v.toNat < 8 ∨ 65536 < v.toNat ∨ v.toNat % 8 ≠ 0 ∨ h.ctx.pvsize.toNat < v.toNat then 4 else 0)
  else if n = 0x011 then (if v = BitVec.allOnes 64 ∨ v.toNat % 128 = 0 then 0 else 4)
  else 0

/-- SYSRD (R387). -/
def execSysrd (f : FY) (s : State) : Host.Outcome State Fault Refusal :=
  s.bandOp f.g fun h =>
    let n := f.sysreg.toNat
    if h.readCode n ≠ 0 then h.fault s 1 (illegalDetail (h.readCode n) n) h.band.running
    else h.retire s (h.band.setS f.sd.toNat (s.sysRead h n))

/-- SYSWR (R387). -/
def execSyswr (f : FY) (s : State) : Host.Outcome State Fault Refusal :=
  s.bandOp f.g fun h =>
    let n := f.sysreg.toNat
    let v := h.band.sreg f.sd.toNat
    if h.writeCode n v ≠ 0 then h.fault s 1 (illegalDetail (h.writeCode n v) n) h.band.running
    else if sysPriv n then (h.retire s h.band).modCtx h.ctxId fun x => x.sysWrite n v
    else h.retire s (h.band.sysWrite n v)

/-! ### FLAGC, TRAPF, TRAP, RTE, BKILL (R384 to R389) -/

/-- FLAGC (R388). -/
def execFlagc (f : FY) (s : State) : Host.Outcome State Fault Refusal :=
  s.bandOp f.g fun h => h.retire s { h.band with flags := h.band.flags &&& ~~~(f.imm.extractLsb' 0 9) }

/-- A trap-after event: the word has issued, and P is the next word (R347); without a permit it has not (R357). -/
def Here.trapAfter (h : Here) (s : State) (group : Nat) (detail : BitVec 96) : State :=
  let s1 := s.trap h h.band.advance group detail h.band.running
  match s1.hereAt h.core h.slot with
  | some h1 => if h1.band.tl && !h.band.tl then s1.retired h else s1
  | none => s1

/-- TRAPF (R384): no effect at TL = 1 (R363). -/
def execTrapf (f : FY) (s : State) : Host.Outcome State Fault Refusal :=
  s.bandOp f.g fun h =>
    let x := h.band.flags &&& h.band.fen
    if h.band.tl || x == 0 then h.retire s h.band else h.trapAfter s 5 (x.setWidth 96)

/-- TRAP (R385). -/
def execTrap (f : FY) (s : State) : Host.Outcome State Fault Refusal :=
  s.bandOp f.g fun h => h.trapAfter s 13 (f.imm.setWidth 96)

/-- RTE (R386): ILLEGAL NOTL at TL = 0; else the frame is read after the band's earlier accesses to it, and the band
resumes. -/
def execRte (f : FY) (s : State) : Host.Outcome State Fault Refusal :=
  s.bandOp f.g fun h =>
    if !h.band.tl then h.fault s 1 (illegalDetail 3 0) h.band.running
    else if h.frameOk && s.scrBusy h h.band.tfrm.toNat (frameSize h.crew.regs) then s
    else s.returnFrom h

/-- BKILL (R389). -/
def execBkill (f : FY) (s : State) : Host.Outcome State Fault Refusal :=
  s.bandOp f.g fun h => s.kill h 7 0 (f.imm.setWidth 96)

/-! ### Hints (02_formats.md R44 to R46) -/

/-- HPRIO (R45): IMM24[1:0] is the level; the guard is ignored (R44). -/
def execHprio (w : DWord) (s : State) : Host.Outcome State Fault Refusal :=
  s.onBand fun h => h.retire s { h.band with hprio := w.extractLsb' 40 2 }

/-- The line a HREUSE of a lane names, without any check (R46). -/
def Here.reuseLine (h : Here) (f : FM) (l : Nat) : Option Nat :=
  let a := h.addr f.am f.sp f.va f.sb (offBytes f) l
  if f.sp = 0 then some (h.privIa l a.toNat / 128)
  else if f.sp = 4 then (match h.ctx.win a .none with | .ok (ia, _) => some (ia / 128) | .error _ => none)
  else none

/-- HREUSE (R46): CP 0 asks the L1 to keep the line, CP 1 to evict it first. -/
def execHreuse (w : DWord) (s : State) : Host.Outcome State Fault Refusal :=
  let f := parseFM w
  s.onBand fun h =>
    let mark := fun (s : State) (l : Nat) =>
      match h.reuseLine f l with
      | none => s
      | some line =>
        match s.l1Line h.core line with
        | none => s
        | some e =>
          if f.cp = 0 then s.setL1 h.core line { e with keep := true, evict := false }
          else if f.cp = 1 then s.setL1 h.core line { e with keep := false, evict := true }
          else s
    h.retire ((lanesOf h.band.running).foldl mark s) h.band

/-- 0xF2 to 0xF7 (R44): no effect beyond the issue slot. -/
def execHintNop (_w : DWord) (s : State) : Host.Outcome State Fault Refusal := s.onBand fun h => h.retire s h.band

/-! ### Emulation space and illegal words (02_formats.md R43, R47, R48) -/

/-- A word of emulation space (R47): a precise EMULATE trap on every RUNNING lane; illegal at TL = 1 or without an
emulation handler. -/
def State.emulate (s : State) (w : DWord) : Host.Outcome State Fault Refusal :=
  s.onBand fun h =>
    if h.band.tl || (h.handlerLabel 2).isNone then s.kill h 1 0 0
    else h.fault s 2 ((w.extractLsb' 0 8).setWidth 96) h.band.running

/-- IDOT4 (R48, 15_traps.md R390): the 940 does not implement it, so it takes the course of R47. -/
def execIdot4 (w : DWord) (s : State) : Host.Outcome State Fault Refusal := s.emulate w
/-- The rest of emulation space (R47). -/
def execEmulateTrap (w : DWord) (s : State) : Host.Outcome State Fault Refusal := s.emulate w

/-- An illegal encoding kills its band and nothing else (R43). -/
def execIllenc (_w : DWord) (s : State) : Host.Outcome State Fault Refusal := s.onBand fun h => s.kill h 1 0 0

end Sys2Proof.Machine
end

