-- ==== Sys2Proof/Machine/Sched.lean ====
section
/-! DEFINITION. The scheduler: bins' timers, admission, retirement, pre-emption, watchdogs, back-offs, sampling, page
servicing, scrubbing and upsets (13_tasks.md R302 to R317, 15_traps.md R357 to R382, 20_host.md R414). -/

namespace Sys2Proof.Machine

/-! ### Energy (13_tasks.md R312, 20_host.md R414) -/

/-- The debit of an energy class, in µJ. -/
def debitOf (cls : Nat) : Nat := if cls = 0 then 0 else 2 ^ (cls - 1)
/-- Whether a reserve covers `n` µJ. -/
def Ctx.covers (x : Ctx) (n : Nat) : Bool := decide ((n : Int) * 2 ^ 32 ≤ x.reserve)
/-- A reserve changed by `d` µJ, capped at CAP. -/
def Ctx.credit (x : Ctx) (d : Int) : Ctx := { x with reserve := min (x.reserve + d * 2 ^ 32) ((x.cap : Int) * 2 ^ 32) }
/-- Settlement when a crew exits or is saved: its debit back, its use in nJ rounded up to µJ taken. -/
def State.settle (s : State) (w : Crew) : State :=
  s.modCtx w.task.ctx fun x => x.credit ((w.debit : Int) - ((w.used + 999) / 1000 : Nat))
/-- Refill over `n` cycles at B × WEIGHT ÷ Σ WEIGHT (R414), in units of 2^-32 µJ. -/
def State.refill (s : State) (n : Nat) : State :=
  let total := (s.ctxs.map fun e => e.2.weight).foldl (· + ·) 0
  { s with ctxs := s.ctxs.map fun e => (e.1, { e.2 with
      reserve := min (e.2.reserve + (s.budget * e.2.weight * n * 2 ^ 32 / (2700 * total) : Nat)) (max e.2.reserve ((e.2.cap : Int) * 2 ^ 32)) }) }

/-- `n` core cycles pass: CCNT of every resident band counts them (15_traps.md R356), and the reserves refill. -/
def State.tick (s : State) (n : Nat) : State :=
  let count := fun (b : Band) => { b with ccnt := b.ccnt + BitVec.ofNat 64 n }
  { s.refill n with
    cycle := s.cycle + n,
    cores := s.cores.map fun e => (e.1, { e.2 with bands := e.2.bands.map fun b => (b.1, count b.2) }) }

/-! ### Room on a core (13_tasks.md R309, R310) -/

/-- Band slots that no band holds. -/
def Core.freeSlots (x : Core) : List Nat := (List.range 32).filter fun k => (x.bands.find k).isNone
/-- Register granules in use (01_machine.md R15). -/
def Core.granules (x : Core) : Nat :=
  (x.bands.map fun e => match x.crews.find e.2.crew with | some w => w.regs / 8 | none => 0).foldl (· + ·) 0
/-- The carve-out a crew would run under, in KiB. -/
def Core.carveFor (x : Core) (carve units : Nat) : Option Nat :=
  if carve ≠ 0 then (if x.carve = carveKiB carve ∨ x.crews.isEmpty = true then some (carveKiB carve) else none)
  else if 4 * units ≤ x.carve then some x.carve
  else if x.crews.isEmpty then [128, 256, 384, 448, 512].find? fun k => decide (4 * units ≤ k)
  else none
/-- The lowest place that holds an allotment. -/
def Core.placeFor (x : Core) (kib units : Nat) : Option Nat :=
  ((List.range (kib / 4)).map (· * 4096)).find? fun p =>
    decide (p + units * 4096 ≤ kib * 1024)
      && x.crews.all fun e => decide (p + units * 4096 ≤ e.2.place) || decide (e.2.place + e.2.size ≤ p)
/-- Carve-out and place for a crew, when the core has room for it. -/
def Core.room (x : Core) (bands regs carve units : Nat) : Option (Nat × Nat) :=
  if x.freeSlots.length < bands ∨ 256 < x.granules + bands * regs / 8 then none
  else (x.carveFor carve units).bind fun k => (x.placeFor k units).map (k, ·)

/-- Whether a core may take a crew of a context beside those it holds (R315). -/
def State.shares (s : State) (c : Nat) (x : Ctx) : Bool :=
  (s.coreAt c).crews.all fun e => !x.detm && match s.ctx? e.2.task.ctx with | some v => !v.detm | none => true

/-- The core a task of a context in deterministic mode is bound to; member `m` of a gang (R315). -/
def Task.bound (t : Task) (m : Nat) : Nat := 16 * t.cluster + (t.id.toNat + m) % 16

/-! ### New crews (13_tasks.md R303, R304, R309, R310; 04_sweep.md R79) -/

/-- Whether lane `l` of a task's band is populated (R302). -/
def Task.hasLane (t : Task) (paired : Bool) (l : Nat) : Bool :=
  t.kind != 0 || decide ((if paired then l % 16 else l) < t.lanes.length)
/-- The argument pointer of a lane of a bin band. -/
def Task.pointer (t : Task) (paired : Bool) (l : Nat) : DWord :=
  if t.hasLane paired l then (t.lanes.getD (if paired then l % 16 else l) (0, 0)).1 else 0

/-- A band at admission: every register zero but the pointers of a bin band, every populated lane WANTING the entry, P at
−8. -/
def newBand (crew index : Nat) (t : Task) (l : Launch) (fs : List Word) : Band :=
  { crew := crew, index := index, p := -8, scnt := 0, yld := false,
    lanes := laneIds.map fun i => if t.hasLane l.paired i then ⟨.wanting, t.entry, 0, 0, 0, 0, []⟩ else Lane.gone,
    v := if t.kind = 0 then
        [(0, laneIds.map fun i => (t.pointer l.paired i).extractLsb' 0 32),
         (1, laneIds.map fun i => (t.pointer l.paired i).extractLsb' 32 32)]
      else [],
    pr := [], s := [], fs := fs, flags := 0, fen := 0, tvec := 0xFFFFFFFF, tfrm := BitVec.allOnes 64, tl := false, cause := 0,
    detail := 0, cstk := BitVec.ofNat 64 l.stack, icnt := 0, ccnt := 0, handler := 0, late := 0, trapAt := 0, permit := false,
    backoff := 64, waitTo := none, hprio := 0, yldCycle := 0, yldMark := 0, picked := 0, stall := 0, log := [], acqAt := 0,
    kids := 0, sampled := 0, park := none, hwerr := [], wdog := false, killed := false }

/-- The format slots a task runs with: those its check resolved, or for a bin band the header's (R299, R303). -/
def Task.slotsOf (t : Task) (x : Ctx) : List Word :=
  if t.kind = 0 then
    match (x.modules.find t.mod).bind fun m => m.header t.entry with
    | some k => k.fslots
    | none => List.replicate 8 0
  else t.fs

/-- Sets a core's carve-out; a new setting empties the L1, whose size changes with it (01_machine.md R18). -/
def State.setCarve (s : State) (c kib : Nat) : State :=
  if (s.coreAt c).carve = kib then s
  else (s.promote c).modCore c fun x => { x with carve := kib, l1 := [] }

/-- Bytes of the allotment that another context last wrote are cleared; a gang task's allotment is cleared whole (R310,
08_memory.md R178). -/
def State.clearAllotment (s : State) (c : Nat) (w : Crew) : State :=
  (List.range (w.size / 4096)).foldl (fun s i =>
    let page := w.place / 4096 + i
    let last := (s.coreAt c).last.get 0 page
    if w.task.kind = 2 ∨ (last ≠ 0 ∧ last ≠ w.task.ctx + 1) then
      s.modCore c fun x => { x with
        scr := x.scr.write 8 (page * 4096) (List.replicate 4096 0), last := x.last.drop page }
    else s) s

/-- Puts a crew with its bands on a core. -/
def State.seat (s : State) (c kib n : Nat) (w : Crew) (bands : List (Nat × Band)) : State :=
  (s.setCarve c kib).modCore c fun x => { x with
    crews := x.crews.put n w, bands := bands.foldl (fun t e => t.put e.1 e.2) x.bands }

/-- Admits member `m` of a task on core `c` as crew `n`: its energy debited, its allotment prepared, its bands in the
lowest free slots; its entry label is read (03_assembly.md R74), and it starts with a DEVICE-scope acquire (R308 to
R312). -/
def State.seatNew (s : State) (c n m : Nat) (gang : List (Nat × Nat)) (t : Task) (l : Launch) (x : Ctx) : State :=
  match (s.coreAt c).room l.crew l.regs l.carve l.units with
  | none => s
  | some (kib, place) =>
    let slots := (s.coreAt c).freeSlots.take l.crew
    let w : Crew :=
      { task := t, member := m, gang := gang, slots := slots, place := place, size := l.units * 4096, regs := l.regs,
        idem := l.idem, paired := l.paired, checked := l.checked, prog := none, objs := [], stamp := 0,
        rot := slots.headD 0, serial := n, since := s.cycle, count := s.cycle, debit := debitOf l.energy, used := 0, pre := none,
        gtCount := 0, gone := false }
    let bands := slots.mapIdx fun i k => (k, newBand n i t l (t.slotsOf x))
    ((((s.cacheLabel c t.ctx t.mod t.entry).seat c kib n w bands).clearAllotment c w).refresh c).modCtx t.ctx fun v => v.credit (-(debitOf l.energy : Nat))

/-! ### Choosing work (13_tasks.md R311 to R315) -/

/-- The eligible tasks of a cluster as a look sees them: for each queue its candidate for the core, and the oldest
launched bin band for the core. `want` says which tasks the core may look at. -/
def State.candidates (s : State) (q : Nat) (want : Task → Bool) : List Task :=
  let v := s.clusterAt q
  (match v.launched.find? want with | some t => [t] | none => [])
    ++ v.queues.filterMap fun e => e.2.tasks.find? fun t => !t.held && want t

/-- The highest PRIO first; ties stand in the order of the list: bin band, then queues (R313). -/
def byPrio (l : List Task) : List Task := ((List.range 8).reverse).flatMap fun p => l.filter fun t => t.prio == p

/-- Whether a task's context runs in deterministic mode. -/
def State.taskDetm (s : State) (t : Task) : Bool := match s.ctx? t.ctx with | some x => x.detm | none => false
/-- Whether a task of a context in deterministic mode is bound to a core: as the core of some member. -/
def State.boundTo (s : State) (c : Nat) (t : Task) : Bool :=
  s.taskDetm t && (if t.kind = 2 then c / 16 == t.cluster else t.bound 0 == c)

/-- Whether a task is a bin band on the run list of a core: its `queue` is 1 + the core (R377). -/
def Task.onList (t : Task) : Bool := t.kind == 0 && t.queue != 0
/-- The bin bands on a core's run list, the latest first. -/
def State.runList (s : State) (c : Nat) : List Task :=
  (s.clusterAt (clusterOf c)).launched.filter fun t => t.kind == 0 && t.queue == c + 1
/-- Whether any core may look at a task: it is bound to none, and on no run list. -/
def State.roams (s : State) (t : Task) : Bool := !s.taskDetm t && !t.onList

/-- The tasks in the order in which a core looks at them (R313): its run list, its own cluster, the other clusters in ring
order. -/
def State.look (s : State) (c : Nat) : List Task :=
  let q := clusterOf c
  s.runList c ++ byPrio (s.candidates q (s.boundTo c)) ++ byPrio (s.candidates q s.roams)
    ++ (List.range 15).flatMap fun i => byPrio (s.candidates ((q + 1 + i) % 16) s.roams)

/-- The candidates of a cluster, whichever core looks. -/
def State.heads (s : State) (q : Nat) : List Task :=
  s.candidates q s.roams ++ (List.range 16).flatMap fun i => s.runList (16 * q + i) ++ s.candidates q (s.boundTo (16 * q + i))

/-- Whether a candidate of higher PRIO of the same context waits for its energy (R312). -/
def State.outranked (s : State) (t : Task) : Bool :=
  s.clusters.any fun e => (s.heads e.1).any fun u =>
    u.ctx == t.ctx && decide (t.prio < u.prio) && match s.ctx? u.ctx with
      | some x => (match u.launch x with | some l => !x.covers (l.gang * debitOf l.energy) | none => false)
      | none => false

/-- Whether a context admits a task at all: it is open, not closing, not stopped by CHECKPOINT, and the module is not being
replaced (20_host.md R410, R415, 03_assembly.md R75). -/
def Ctx.admits (x : Ctx) (t : Task) : Bool :=
  !x.closing && !x.held && match x.modules.find t.mod with | some m => !m.old | none => true

/-- Whether core `c` has what one crew of the task needs (R309). -/
def State.fitsOn (s : State) (c : Nat) (x : Ctx) (l : Launch) : Bool :=
  ((s.coreAt c).room l.crew l.regs l.carve l.units).isSome && s.shares c x

/-- Cores of the cluster for the members of a gang task: bound ones in deterministic mode; else each member takes one of
the cores with room, and no rule says which (R311, R315; DESIGN CHOICE, assumption log entry 33). -/
def State.gangCores (s : State) (q : Nat) (t : Task) (x : Ctx) (l : Launch) : Option (State × List Nat) :=
  let free := ((List.range 16).map (· + 16 * q)).filter fun c => s.fitsOn c x l
  if x.detm then
    let cs := (List.range l.gang).map t.bound
    if cs.all free.contains then some (s, cs) else none
  else if free.length < l.gang then none
  else
    let r := (List.range l.gang).foldl (fun (a : State × List Nat × List Nat) _ =>
      let (d, s1) := a.1.draw
      let c := pick d 0 a.2.1
      (s1, a.2.1.erase c, a.2.2 ++ [c])) (s, free, [])
    some (r.1, r.2.2)

/-- Whether the core could admit the task now. -/
def State.canAdmit (s : State) (c : Nat) (t : Task) : Bool :=
  match s.ctx? t.ctx with
  | none => false
  | some x =>
    match t.launch x with
    | none => true
    | some l =>
      x.admits t && x.covers (l.gang * debitOf l.energy) && !s.outranked t
        && (if t.kind = 2 then (s.gangCores (clusterOf c) t x l).isSome else s.fitsOn c x l)

/-- Removes a task from where it waits. -/
def State.dropTask (s : State) (t : Task) : State :=
  { s with clusters := s.clusters.map fun e => (e.1, { e.2 with
      launched := e.2.launched.erase t, queues := e.2.queues.map fun v => (v.1, v.2.without t) }) }

/-- What the PRIV region of a slot holds, as the memory side has it: offset, bytes, and whether they are poisoned; of a page
that is not there nothing (08_memory.md R176, R378; DEDUCED, assumption log entry 34). -/
def State.privRead (s : State) (c : Nat) (x : Ctx) (k : Nat) : List (Nat × List Byte × Bool) :=
  let base := privIa x.pvbase.toNat x.pvsize.toNat c k 0 0
  let n := 32 * x.pvsize.toNat
  let read := fun (ia n : Nat) => match s.iaRead (some c) ia n 2 0 with | .ok _ r => [(ia - base, r.1, r.2)] | _ => []
  (pieces (n / 128 + 2) base n).flatMap fun p =>
    match read p.1 p.2 with
    | [(o, d, false)] => [(o, d, false)]
    | [] => []
    | _ => (List.range (p.2 / 8)).flatMap fun i => read (p.1 + 8 * i) 8
/-- Writes back what a PRIV region held, poison with it. -/
def State.privWrite (s : State) (c : Nat) (x : Ctx) (k : Nat) (l : List (Nat × List Byte × Bool)) : State :=
  let base := privIa x.pvbase.toNat x.pvsize.toNat c k 0 0
  l.foldl (fun s e => match s.iaWrite (some c) none (base + e.1) e.2.1 2 with
    | .ok s1 _ => if e.2.2 then s1.poisonIa (some c) (base + e.1) e.2.1.length else s1
    | _ => s) s
/-- Whether the pages are there to which `privWrite` writes. -/
def State.privFits (s : State) (c : Nat) (x : Ctx) (k : Nat) (l : List (Nat × List Byte × Bool)) : Bool :=
  let base := privIa x.pvbase.toNat x.pvsize.toNat c k 0 0
  l.all fun e => match s.walk (localPart (base + e.1)) with | .leaf l => l.w | .bad _ _ => false

/-- The slots that the bands of a saved crew take on a core: the lowest free ones, in deterministic mode its own (R379). -/
def State.slotsFor (s : State) (c : Nat) (x : Ctx) (v : Saved) : List Nat :=
  if x.detm then v.crew.slots else (s.coreAt c).freeSlots.take v.bands.length

/-- Whether a saved crew can return to a core (R379): slots, granules, its allotment under its carve-out, a free matrix
unit, a permit for each band at TL = 1, the pages of its PRIV regions; in deterministic mode its own core and slots. -/
def State.canRestore (s : State) (c : Nat) (x : Ctx) (v : Saved) : Bool :=
  let k := s.coreAt c
  let carve := (match v.crew.task.launch x with | some l => l.carve | none => 0)
  (k.room v.bands.length v.crew.regs carve (v.crew.size / 4096)).isSome && s.shares c x
    && (v.mx.isNone || k.mx.owner.isNone)
    && decide ((v.bands.filter (·.tl)).length + (k.bands.filter fun e => e.2.permit).length ≤ 4)
    && (!x.detm || (v.core == c && v.crew.slots.all fun i => k.freeSlots.contains i))
    && ((s.slotsFor c x v).zip v.priv).all fun e => s.privFits c x e.1 e.2

/-- Cores for the members of a saved gang, each able to take its member. -/
def State.restoreCores (s : State) (q : Nat) (x : Ctx) : List Saved → List Nat → Option (State × List Nat)
  | [], _ => some (s, [])
  | v :: t, used =>
    let free := ((List.range 16).map (· + 16 * q)).filter fun c => !used.contains c && s.canRestore c x v
    let (r, s1) := s.draw
    if free.isEmpty then none
    else
      let c := pick r 0 free
      (State.restoreCores s1 q x t (c :: used)).map fun e => (e.1, c :: e.2)

/-- Whether a saved crew of the run lists of the core's cluster could return to the core, with its gang: it comes first
(R313). -/
def State.crewReturns (s : State) (c : Nat) : Bool :=
  s.ctxs.any fun e => !e.2.held && e.2.saved.any fun v =>
    clusterOf v.core == clusterOf c && s.canRestore c e.2 v
      && (v.crew.gang.length == 1 || (s.restoreCores (clusterOf c) e.2 (e.2.saved.filter fun u => u.gang == v.gang) []).isSome)

/-- A task that its module no longer launches is refused at admission, with a record (15_traps.md R349). -/
def State.refuse (s : State) (c : Nat) (t : Task) : State :=
  (s.dropTask t).logRec t.ctx ⟨9, 0, 0, c, 0, 0, 2, 0, t.id⟩

/-- ADMIT_CREW: the core takes the first task of its look that it can admit, when that is a crew task or a bin band
(R309, R313). -/
def execAdmitCrew (core : Nat) (s : State) : Host.Outcome State Fault Refusal :=
  match (if core < 256 then (s.look core).find? (s.canAdmit core) else none) with
  | none => .next s
  | some t =>
    match s.ctx? t.ctx with
    | none => .next s
    | some x =>
      match t.launch x with
      | none => .next (s.refuse core t)
      | some l =>
        if t.kind = 2 || s.crewReturns core then .next s
        else
          let (n, s1) := (s.dropTask t).takeId
          .next (s1.seatNew core n 0 [(core, n)] t l x)

/-- GANG_ADMIT: the gang launcher of the core's cluster admits the first task of the core's look that it can admit, when
that is a gang task, on all its cores at once (R311). -/
def execGangAdmit (core : Nat) (s : State) : Host.Outcome State Fault Refusal :=
  match (if core < 256 then (s.look core).find? (s.canAdmit core) else none) with
  | none => .next s
  | some t =>
    match s.ctx? t.ctx with
    | none => .next s
    | some x =>
      match t.launch x with
      | none => .next s
      | some l =>
        if t.kind ≠ 2 || s.crewReturns core then .next s
        else match s.gangCores (clusterOf core) t x l with
          | none => .next s
          | some (s1, cs) =>
            let gang := cs.mapIdx fun m c => (c, s1.nextId + m)
            let s2 := { s1.dropTask t with nextId := s1.nextId + l.gang }
            .next ((gang.mapIdx fun m e => (m, e)).foldl (fun s e => s.seatNew e.2.1 e.2.2 e.1 gang t l x) s2)

/-- BIN_TIMER: BTIM cycles after its first task entered, the bin launches; timers are off with BTIM = 0 and in
deterministic mode (R302, R315). -/
def execBinTimer (cluster bin : Nat) (s : State) : Host.Outcome State Fault Refusal :=
  match (s.clusterAt cluster).bins.find bin with
  | none => .next s
  | some b =>
    match s.ctx? b.ctx with
    | none => .next s
    | some x =>
      if x.detm || x.btim == 0 || decide (s.cycle < b.since + x.btim.toNat) then .next s else .next (s.binGo cluster bin)

/-! ### Retirement (04_sweep.md R96, 02_formats.md R43) -/

/-- Whether nothing that the band issued is outstanding. -/
def State.bandIdle (s : State) (h : Here) : Bool :=
  h.band.log.isEmpty && s.engCount h == 0 && s.mxCount h == 0 && s.clCount h == 0

/-- The pins of a crew's bands end (08_memory.md R198); a slot that another crew's band holds by now is left. -/
def State.endPins (s : State) (c n : Nat) (slots : List Nat) : State :=
  slots.foldl (fun s k => match s.band? c k with
    | some b => if b.crew = n then s.flushFor c k else s
    | none => s.flushFor c k) s

/-- The crew leaves its core's matrix unit: ownership ends and the state is discarded (11_matrix.md R252). -/
def State.leaveMatrix (s : State) (c n : Nat) : State :=
  s.modMx c fun m => if m.owner = some n then { Matrix.reset with queue := m.queue, gts := m.gts } else m

/-- A crew whose bands are all gone exits: energy is settled; it is kept while another member of its gang runs
(08_memory.md R178). -/
def State.exitCrew (s : State) (c n : Nat) : State :=
  match s.crew? c n with
  | none => s
  | some w =>
    let s1 := (((s.settle w).leaveMatrix c n).endPins c n w.slots).modCrew c n fun w =>
      { w with gone := true, pre := none, debit := 0, used := 0 }
    if w.gang.all fun e => match s1.crew? e.1 e.2 with | some v => v.gone | none => true then
      w.gang.foldl (fun s e => s.modCore e.1 fun x => { x with
        crews := x.crews.drop e.2, mx := { x.mx with gts := x.mx.gts.filter fun g => g.2.crew != e.2 } }) s1
    else s1

/-- BAND_RETIRE: a band whose lanes are all EXITED gives up its slot once its outstanding work is done (R96). -/
def execBandRetire (core slot : Nat) (s : State) : Host.Outcome State Fault Refusal :=
  match s.hereAt core slot with
  | none => .next s
  | some h =>
    if !h.band.allExited || !s.bandIdle h then .next s
    else
      let s1 := s.modCore core fun x => { x with
        bands := x.bands.drop slot, samples := x.samples.filter fun e => e.1 != slot }
      if (s1.coreAt core).bands.any fun e => e.2.crew == h.band.crew then .next s1
      else .next (s1.exitCrew core h.band.crew)

/-! ### Pre-emption (15_traps.md R374 to R379) -/

/-- The bands of a crew with their slots. -/
def State.bandsOf (s : State) (c n : Nat) : List (Nat × Band) := (s.coreAt c).bands.filter fun e => e.2.crew == n
/-- The largest ICNT among a crew's bands. -/
def State.maxIcnt (s : State) (c n : Nat) : Nat := (s.bandsOf c n).foldl (fun a e => max a e.2.icnt.toNat) 0
/-- The remaining estimate R (13_tasks.md R324). -/
def State.remaining (s : State) (c n : Nat) (w : Crew) : Int :=
  match w.prog with
  | some b => b
  | none => ((if w.task.kind = 0 then 0 else recU w.task.bytes 0x10 4 : Nat) : Int) - s.maxIcnt c n
/-- Byte `p` of PDRAIN. -/
def Ctx.drainByte (x : Ctx) (p : Nat) : Nat := (x.pdrain >>> (8 * p)).toNat % 256

/-- The members of a crew's gang that are on their cores, those that have exited among them (08_memory.md R178). -/
def State.members (s : State) (w : Crew) : List (Nat × Nat × Crew) :=
  w.gang.filterMap fun e => (s.crew? e.1 e.2).map fun v => (e.1, e.2, v)
/-- The members that still run. -/
def State.mates (s : State) (w : Crew) : List (Nat × Nat × Crew) := (s.members w).filter fun e => !e.2.2.gone

/-- Chooses the action of R375 for a crew, or for its gang as a whole; `drain` allows the drain test. -/
def State.chooseAct (s : State) (w : Crew) (x : Ctx) (drain : Bool) : State :=
  let ms := s.mates w
  let v := x.drainByte w.task.prio
  let act : Nat → Nat → PreAct :=
    if drain && decide (1 ≤ v) && decide (v ≤ 31) && ms.all fun e => decide (s.remaining e.1 e.2.1 e.2.2 < 2 ^ v) then
      fun c n => .drain v (s.maxIcnt c n)
    else if ms.all fun e => e.2.2.idem && decide (s.maxIcnt e.1 e.2.1 < x.pflush.toNat) then fun _ _ => .flush
    else fun _ _ => .save s.cycle
  ms.foldl (fun s e => s.modCrew e.1 e.2.1 fun u => { u with pre := some (act e.1 e.2.1) }) s

/-- Whether every band of the crew's gang is at TL = 0 (R364). -/
def State.allTl0 (s : State) (w : Crew) : Bool :=
  (s.mates w).all fun e => (s.bandsOf e.1 e.2.1).all fun b => !b.2.tl

/-- A request for a crew's gang is held (R364); `drain` says whether its choice allows the drain test. -/
def State.holdGang (s : State) (w : Crew) (drain : Bool) : State :=
  (s.mates w).foldl (fun s e => s.modCrew e.1 e.2.1 fun u => { u with pre := some (.hold s.cycle drain) }) s

/-- A request to pre-empt a crew: held while a band is at TL = 1, else acted on at once (R364, R375). A crew that a
request has reached already is left. -/
def State.preempt (s : State) (c n : Nat) : State :=
  match s.crew? c n with
  | none => s
  | some w =>
    match s.ctx? w.task.ctx, w.pre with
    | some x, none =>
      if s.allTl0 w then s.chooseAct w x true else s.holdGang w true
    | _, _ => s

/-- The hold window of R364. -/
def Ctx.holdWindow (x : Ctx) : Nat := if x.wdt = 0 then 2 ^ 30 else x.wdt.toNat

/-- Whether some core that looks at a task admits it. -/
def State.admitted (s : State) (t : Task) : Bool := coreIds.any fun c => (s.look c).contains t && s.canAdmit c t
/-- Whether some core would admit a task if a crew and its gang were gone. -/
def State.wouldAdmit (s : State) (w : Crew) (t : Task) : Bool :=
  ((s.members w).foldl (fun s e => (s.settle e.2.2).modCore e.1 fun x => { x with
    crews := x.crews.drop e.2.1, bands := x.bands.filter fun b => b.2.crew != e.2.1 }) s).admitted t

/-- The crews of lower PRIO whose removal lets a task be admitted: core, number, crew (R374). -/
def State.holders (s : State) (t : Task) : List (Nat × Nat × Crew) :=
  s.cores.flatMap fun e => (e.2.crews.filter fun w =>
    !w.2.gone && decide (w.2.task.prio < t.prio) && s.wouldAdmit w.2 t).map fun w => (e.1, w.1, w.2)

/-- The victim: the lowest PRIO, then the youngest (R374). -/
def victimOf (l : List (Nat × Nat × Crew)) : Option (Nat × Nat × Crew) :=
  l.foldl (fun a e => match a with
    | none => some e
    | some b => if e.2.2.task.prio < b.2.2.task.prio ∨ (e.2.2.task.prio = b.2.2.task.prio ∧ b.2.2.serial < e.2.2.serial)
        then some e else some b) none

/-- PREEMPT_WAIT: a task that the core looks at has waited 100,000 cycles for resources that crews of lower PRIO hold: the
first such task for which there is a victim (R374). -/
def execPreemptWait (core : Nat) (s : State) : Host.Outcome State Fault Refusal :=
  match (s.look core).findSome? fun t =>
      if t.since + 100000 ≤ s.cycle ∧ s.admitted t = false then victimOf (s.holders t) else none with
  | none => .next s
  | some (c, n, _) => .next (s.preempt c n)

/-- DRAIN_RECHOICE: a draining crew, or a member of its gang, has retired 2 × 2^v more; the choice is made again without
the drain test (R376). -/
def execDrainRechoice (core crew : Nat) (s : State) : Host.Outcome State Fault Refusal :=
  match s.crew? core crew with
  | none => .next s
  | some w =>
    match w.pre, s.ctx? w.task.ctx with
    | some (.drain v i), some x =>
      if i + 2 * 2 ^ v ≤ s.maxIcnt core crew then
        .next (if s.allTl0 w then s.chooseAct w x false else s.holdGang w false)
      else .next s
    | _, _ => .next s

/-- PREEMPT_HOLD_EXPIRY: a held request acts: as R375 chooses once every band is at TL = 0, as a save once the window is
over (R364). -/
def execPreemptHoldExpiry (core crew : Nat) (s : State) : Host.Outcome State Fault Refusal :=
  match s.crew? core crew with
  | none => .next s
  | some w =>
    match w.pre, s.ctx? w.task.ctx with
    | some (.hold t d), some x =>
      if s.allTl0 w then .next (s.chooseAct w x d)
      else if t + x.holdWindow ≤ s.cycle then
        .next ((s.mates w).foldl (fun s e => s.modCrew e.1 e.2.1 fun u => { u with pre := some (.save s.cycle) }) s)
      else .next s
    | _, _ => .next s

/-- Fault responses of a crew under flush are discarded as a killed band's are (R377 step 2). -/
def State.discardFaults (s : State) (c n : Nat) : State :=
  (s.bandsOf c n).foldl (fun s e => s.modBand c e.1 fun b => if b.crew ≠ n then b else { b with
    log := (b.log.map fun o => { o with elems := o.elems.map fun e =>
      if e.st.isHurt then { e with st := .done [] } else e }).filter fun o => !(o.elems.all fun e => e.st.isDone) }) s

/-- A crew's bands leave their slots. -/
def State.unseat (s : State) (c n : Nat) : State :=
  s.modCore c fun x => { x with
    bands := x.bands.filter fun b => b.2.crew != n, crews := x.crews.drop n,
    mx := { x.mx with gts := x.mx.gts.filter fun g => g.2.crew != n },
    samples := x.samples.filter fun e => (match x.bands.find e.1 with | some b => b.crew != n | none => true) }

/-- Whether nothing of the crew is outstanding. -/
def State.crewIdle (s : State) (c n : Nat) : Bool :=
  (s.bandsOf c n).all fun e => match s.hereAt c e.1 with | some h => s.bandIdle h | none => true

/-- A task goes back to the head of its queue, or a bin band to the run list of its core; in deterministic mode its id
binds it already (R377 step 4). -/
def State.requeue (s : State) (c : Nat) (t : Task) : State :=
  let t1 := { t with since := s.cycle }
  if t.kind = 0 then
    let q := clusterOf c
    let t2 := if s.taskDetm t then t1 else { t1 with queue := c + 1 }
    s.setCluster q { s.clusterAt q with launched := t2 :: (s.clusterAt q).launched }
  else s.setQueue t.cluster t.queue { s.queueAt t.cluster t.queue with tasks := t1 :: (s.queueAt t.cluster t.queue).tasks }

/-- FLUSH_RESTART: an IDEM crew under flush, or its gang, members that have exited among them, discards its fault responses;
once nothing is outstanding its state goes and its record is queued again (R377). -/
def execFlushRestart (core crew : Nat) (s : State) : Host.Outcome State Fault Refusal :=
  match s.crew? core crew with
  | none => .next s
  | some w =>
    if w.pre ≠ some .flush then .next s
    else
      let ms := s.members w
      let s1 := ms.foldl (fun s e => s.discardFaults e.1 e.2.1) s
      if ms.all fun e => s1.crewIdle e.1 e.2.1 then
        .next ((ms.foldl (fun s e => (((s.settle e.2.2).leaveMatrix e.1 e.2.1).endPins e.1 e.2.1 e.2.2.slots).unseat e.1 e.2.1)
          s1).requeue core w.task)
      else .next s1

/-! ### Save and restore (R378, R379, R381) -/

/-- Whether a band's logged operations let it be saved: none of its requests is under way at another device. -/
def Band.settled (b : Band) : Bool :=
  b.log.all fun o => o.elems.all fun e => match e.st with | .sent _ _ => false | _ => true
/-- Whether a fault stands in a band's log: what waits behind it cannot be accepted before the replay. -/
def Band.stuck (b : Band) : Bool := b.log.any fun o => o.elems.any fun e => e.st.isHurt

/-- Whether a band of a crew in a slot is stuck. -/
def State.slotStuck (s : State) (c n k : Nat) : Bool := match s.band? c k with | some b => b.crew == n && b.stuck | none => false

/-- Whether the n-th GT = 1 MMA of a gang cannot be accepted before the gang issues again: a member has not issued its own,
or has it behind a command that a fault in its band's log keeps back. -/
def State.gtStuck (s : State) (w : Crew) (n : Nat) : Bool :=
  w.gang.any fun e => match s.gtOf e n with
    | none => true
    | some c => (s.coreAt e.1).mx.queue.any fun x =>
        !x.accepted && x.crew == e.2 && decide (x.id ≤ c.id) && s.slotStuck e.1 e.2 x.slot

/-- Whether the matrix instructions of a crew that are still queued cannot be accepted before it issues again; every accepted
one completes first (11_matrix.md R254; DEDUCED, assumption log entry 78). -/
def State.mxStuck (s : State) (c n : Nat) (w : Crew) : Bool :=
  match (s.coreAt c).mx.queue.find? fun e => e.crew == n with
  | none => true
  | some e => !e.accepted
      && (s.slotStuck c n e.slot || match e.gt with | some i => !e.notOwner && s.gtStuck w i | none => false)

/-- Whether the crew's engine and clause commands are complete, but for those not accepted because of a fault. -/
def State.cmdsStuck (s : State) (c n : Nat) : Bool :=
  ((s.coreAt c).eng.all fun e => e.crew != n || (!e.accepted && s.slotStuck c n e.slot))
    && (s.clusterAt (clusterOf c)).clause.queue.all fun e =>
        e.core != c || e.crew != n || e.isFence || (!e.accepted && s.slotStuck c n e.slot)

/-- Whether a crew is ready to be saved (R378 steps 2 and 4). -/
def State.saveReady (s : State) (e : Nat × Nat × Crew) : Bool :=
  (s.bandsOf e.1 e.2.1).all (fun b => b.2.settled) && s.cmdsStuck e.1 e.2.1 && s.mxStuck e.1 e.2.1 e.2.2

/-- Bytes that a saved crew takes in the save area: what R378 says it needs at most (DEDUCED, assumption log entry 34). -/
def saveBytes (bands pvsize : Nat) : Nat := 3 * 2 ^ 19 + bands * 32 * pvsize
/-- Bytes of the save area in use. -/
def Ctx.saveUsed (x : Ctx) : Nat := (x.saved.map fun v => saveBytes v.bands.length x.pvsize.toNat).foldl (· + ·) 0

/-- What a save records of one crew (R378 step 5). -/
def State.savedOf (s : State) (x : Ctx) (c n : Nat) (w : Crew) (id gang : Nat) : Saved :=
  let bands := s.bandsOf c n
  let m := (s.coreAt c).mx
  let order := w.slots.filterMap fun k => bands.find? fun e => e.1 == k
  { id := id, core := c, crew := { w with slots := order.map (·.1), pre := none, debit := 0, used := 0 },
    bands := order.map fun e => { e.2 with permit := false },
    priv := order.map fun e => s.privRead c x e.1,
    scr := s.scrRead c w 0 w.size,
    poison := ((s.coreAt c).scr.poison.filter fun u => decide (w.place ≤ u * 8) && decide (u * 8 < w.place + w.size)).map
      fun u => u - w.place / 8,
    mx := if m.owner = some n then some { m with queue := [], gts := [] } else none,
    gts := m.gts.filter fun g => g.2.crew == n,
    eng := (s.coreAt c).eng.filter fun e => e.crew == n,
    mxq := m.queue.filter fun e => e.crew == n,
    clq := (s.clusterAt (clusterOf c)).clause.queue.filter fun e => e.core == c && e.crew == n && !e.isFence,
    gang := gang }

/-- Takes a saved crew off its core, its unaccepted commands with it. -/
def State.saveOff (s : State) (c n : Nat) (w : Crew) : State :=
  let s1 := ((s.settle w).leaveMatrix c n).modCore c fun x => { x with
    eng := x.eng.filter fun e => e.crew != n,
    mx := { x.mx with queue := x.mx.queue.filter fun e => e.crew != n, gts := x.mx.gts.filter fun g => g.2.crew != n } }
  (s1.modCl (clusterOf c) fun a => { a with
    queue := a.queue.filter fun e => e.core != c || e.crew != n || e.isFence }).unseat c n

/-- CREW_SAVE: a crew, or its gang as a whole, goes to the context save area once its accepted work is complete; a save
that finds no room is not performed (R378, R379). -/
def execCrewSave (core crew : Nat) (s : State) : Host.Outcome State Fault Refusal :=
  match s.crew? core crew with
  | none => .next s
  | some w =>
    match w.pre, s.ctx? w.task.ctx with
    | some (.save _), some x =>
      let ms := s.members w
      if !ms.all s.saveReady then .next s
      else
        let need := (ms.map fun e => saveBytes (s.bandsOf e.1 e.2.1).length x.pvsize.toNat).foldl (· + ·) 0
        if 65536 * x.csavesz.toNat < x.saveUsed + need then
          .next (ms.foldl (fun s e => s.modCrew e.1 e.2.1 fun u => { u with pre := some (.retry (s.cycle + x.holdWindow)) }) s)
        else
          let s1 := ms.foldl (fun s e => s.endPins e.1 e.2.1 e.2.2.slots) s
          let vs := ms.mapIdx fun i e => s1.savedOf x e.1 e.2.1 e.2.2 (s1.nextId + 1 + i) s1.nextId
          let s2 := { s1 with nextId := s1.nextId + 1 + ms.length }
          .next ((ms.foldl (fun s e => s.saveOff e.1 e.2.1 e.2.2) s2).modCtx w.task.ctx fun v =>
            { v with saved := v.saved ++ vs })
    | _, _ => .next s

/-- SAVE_RETRY: one hold window after a save found no room, the request is made again (R379). -/
def execSaveRetry (core crew : Nat) (s : State) : Host.Outcome State Fault Refusal :=
  match s.crew? core crew with
  | none => .next s
  | some w =>
    match w.pre with
    | some (.retry t) =>
      if t ≤ s.cycle then
        .next (((s.mates w).foldl (fun s e => s.modCrew e.1 e.2.1 fun u => { u with pre := none }) s).preempt core crew)
      else .next s
    | _ => .next s

/-- SAVE_ABORTED: a save that runs longer than 2 × WDT kills the crew, and its gang, whose save it is (R381). -/
def execSaveAborted (core crew : Nat) (s : State) : Host.Outcome State Fault Refusal :=
  match s.crew? core crew with
  | none => .next s
  | some w =>
    match w.pre, s.ctx? w.task.ctx with
    | some (.save t), some x =>
      if x.wdt ≠ 0 ∧ t + 2 * x.wdt.toNat < s.cycle then
        .next ((s.mates w).foldl (fun s e =>
          (s.killCrew e.1 e.2.1 6 0 0 false).modCrew e.1 e.2.1 fun u => { u with pre := none }) s)
      else .next s
    | _, _ => .next s

/-- Re-evaluates the blocked lanes of a restored band that its moves see (R379). -/
def State.recheckLive (s : State) (c : Nat) (w : Crew) (b : Band) : Band :=
  laneIds.foldl (fun b l =>
    if (b.lane l).st = .blocked ∧ b.active l = true then
      let x := s.objRead c w (b.lane l).obj.toNat
      if (b.lane l).gen.toNat != x.gen || x.phase == 3 then b.wake l (decide (2 ≤ x.phase)) else b
    else b) b

/-- Puts a saved crew back on core `c` (R379), whose L1 gives up what the crew may have newer (08_memory.md R194). `gang`
holds the cores of all members. -/
def State.seatSaved (s : State) (c : Nat) (x : Ctx) (gang : List (Nat × Nat)) (v : Saved) : State :=
  let n := v.crew.serial
  let carve := (match v.crew.task.launch x with | some l => l.carve | none => 0)
  match (s.coreAt c).room v.bands.length v.crew.regs carve (v.crew.size / 4096) with
  | none => s
  | some (kib, place) =>
    let slots := s.slotsFor c x v
    let newSlot := fun (k : Nat) => slots.getD (v.crew.slots.idxOf k) k
    let w := { v.crew with
      slots := slots, place := place, gang := gang.set v.crew.member (c, n), rot := newSlot v.crew.rot, since := s.cycle, count := s.cycle }
    let count := (s.coreAt c).retires
    let bands := (slots.zip v.bands).map fun e => (e.1, { e.2 with
      permit := e.2.tl, park := none, yldCycle := s.cycle, yldMark := count, picked := count })
    let s1 := (s.seat c kib n w bands).scrWrite c w 0 v.scr
    let s2 := s1.modCore c fun k => { k with
      scr := v.poison.foldl (fun m u => m.mark 8 (place + 8 * u)) k.scr,
      eng := k.eng ++ v.eng.map fun e => { e with slot := newSlot e.slot },
      mx := (let m := match v.mx with
              | some m => { m with owner := some n, queue := k.mx.queue, gts := k.mx.gts }
              | none => k.mx
             { m with queue := m.queue ++ v.mxq.map fun e => { e with slot := newSlot e.slot }, gts := m.gts ++ v.gts }) }
    let s3 := s2.modCl (clusterOf c) fun a => { a with
      queue := a.queue ++ v.clq.map fun e => { e with core := c, slot := newSlot e.slot } }
    let s4 := (slots.zip v.priv).foldl (fun s e => s.privWrite c x e.1 e.2) s3
    slots.foldl (fun s k => s.modBand c k fun b => s.recheckLive c w b) (s4.refresh c)

/-- CREW_RESTORE: a saved crew, or its gang as a whole, returns to its cluster (R379, R313). A crew of a gang of one
returns to the core named. -/
def execCrewRestore (core ctx saved : Nat) (s : State) : Host.Outcome State Fault Refusal :=
  match s.ctx? ctx with
  | none => .next s
  | some x =>
    match x.saved.find? fun v => v.id == saved with
    | none => .next s
    | some v =>
      let vs := x.saved.filter fun u => u.gang == v.gang
      if clusterOf v.core ≠ clusterOf core ∨ x.held = true then .next s
      else
        let go := if vs.length = 1 then (if s.canRestore core x v then some (s, [core]) else none)
          else s.restoreCores (clusterOf core) x vs []
        match go with
        | none => .next s
        | some (s1, cs) =>
          let now := vs.zip cs
          let gang := v.crew.gang.map fun e =>
            match now.find? fun u => u.1.crew.serial == e.2 with | some u => (u.2, e.2) | none => e
          .next ((now.foldl (fun s e => s.seatSaved e.2 x gang e.1) s1).modCtx ctx fun y =>
            { y with saved := y.saved.filter fun u => u.gang != v.gang })

/-! ### Watchdog, back-off, sampling (R357, R372, R380) -/

/-- The bands of a crew in order of index, those not wholly EXITED. -/
def State.liveBands (s : State) (c : Nat) (w : Crew) (n : Nat) : List Nat :=
  w.slots.filter fun k => match s.band? c k with | some b => b.crew == n && !b.allExited | none => false

/-- WATCHDOG: no instruction of the crew has retired for WDT cycles: its lowest band that is not wholly EXITED takes the
trap at its next boundary, or the crew dies when that band is at TL = 1 (R380). During a save it is ignored (R381). -/
def execWatchdog (core crew : Nat) (s : State) : Host.Outcome State Fault Refusal :=
  match s.crew? core crew with
  | none => .next s
  | some w =>
    match s.ctx? w.task.ctx with
    | none => .next s
    | some x =>
      let saving := match w.pre with | some (.save _) => true | _ => false
      if x.wdt = 0 ∨ s.cycle < w.count + x.wdt.toNat ∨ saving = true then .next s
      else match s.liveBands core w crew with
        | [] => .next s
        | k :: _ => .next (match s.band? core k with
          | none => s
          | some b => if b.tl then s.killCrew core crew 5 12 (s.watchDetail w) false else s.setBand core k { b with wdog := true })

/-- Whether the rotation of deterministic mode passes a band over: it is gone or all EXITED, or it sleeps on objects
without outstanding bytes, or it waits its back-off, which counts instructions (13_tasks.md R316, R357; DEDUCED, assumption
log entry 46). -/
def State.passes (s : State) (c : Nat) (w : Crew) (k : Nat) : Bool :=
  match s.band? c k with
  | none => true
  | some b =>
    b.allExited || (match b.waitTo with | some t => decide ((s.coreAt c).retires < t) | none => false)
      || (b.running == 0 && b.wanting == 0 && (lanesOf b.blocked).all fun l =>
            let x := s.objRead c w (b.lane l).obj.toNat
            x.inb == 0 && x.outb == 0)

/-- The slots in the order of the rotation, from the pointer on. -/
def Crew.rotation (w : Crew) : List Nat :=
  let l := (List.range 32).filter w.slots.contains
  l.filter (fun k => decide (w.rot ≤ k)) ++ l.filter fun k => decide (k < w.rot)
/-- The slot whose turn it is: the first from the pointer on that is not passed over. When all are, no band can retire what a
back-off counts, and a free permit goes to the first that waits for one (R316, R357; DEDUCED, assumption log entry 46). -/
def State.turn (s : State) (c : Nat) (w : Crew) : Option Nat :=
  match w.rotation.find? fun k => !s.passes c w k with
  | some k => some k
  | none =>
    if (s.coreAt c).permitFree then
      w.rotation.find? fun k => match s.band? c k with | some b => b.waitTo.isSome | none => false
    else none

/-- The turn of a crew passes over the bands that R316 says; the pointer then names the band that holds it. -/
def Crew.onTurn (w : Crew) (s : State) (c : Nat) : Crew := match s.turn c w with | some k => { w with rot := k } | none => w
/-- The turns of all crews in deterministic mode, as the state now has them. -/
def State.turns (s : State) : State :=
  if s.ctxs.any fun e => e.2.detm then
    { s with cores := s.cores.map fun e => (e.1, { e.2 with crews := e.2.crews.map fun w =>
        (w.1, if s.taskDetm w.2.task then w.2.onTurn s e.1 else w.2) }) }
  else s

/-- TRAP_BACKOFF: the back-off of a band is over, and it issues again (R357). In deterministic mode that is at its turn. -/
def execTrapBackoff (core slot : Nat) (s : State) : Host.Outcome State Fault Refusal :=
  match s.hereAt core slot with
  | none => .next s
  | some h =>
    match h.band.waitTo with
    | some t =>
      if (if h.ctx.detm then s.turn core h.crew = some slot else t ≤ s.cycle) then .next (h.put s { h.band with waitTo := none })
      else .next s
    | none => .next s

/-- SAMPLE_CHECK: the oldest sample of a band is executed again; a mismatch of a lane is a pending HWERR SAMPMIS
(R372). -/
def execSampleCheck (core slot : Nat) (mismatch : Option Nat) (s : State) : Host.Outcome State Fault Refusal :=
  match (s.coreAt core).samples.find? fun e => e.1 == slot with
  | none => .next s
  | some e =>
    let s1 := s.modCore core fun x => { x with samples := x.samples.erase e }
    match mismatch with
    | none => .next s1
    | some l => .next (s1.modBand core slot fun b =>
        if b.killed then b else { b with hwerr := b.hwerr ++ [hwDetail 2 (l % 32) e.2.off] })

/-! ### Page servicing (R365, R366) -/

/-- FETCH_FAULT: the fetch at P faults: the band is parked while firmware services NOPAGE with DSVC = 1, or while the host
grants a page of MT 1; every other fetch fault, and one whose service failed, is a precise MEM trap (R365). -/
def execFetchFault (core slot : Nat) (s : State) : Host.Outcome State Fault Refusal :=
  match s.hereAt core slot with
  | none => .next s
  | some h =>
    match s.fetchWord h h.band.p.toNat with
    | .bad e => .next (s.fetchTrap h { h.band with park := none } h.band.p.toNat e h.band.running)
    | .hold => .next (s.fetchHeld h h.band h.band.p.toNat h.band.running)
    | .ok _ _ => .next s

/-- PAGE_SERVICED: the service of a local page ends: with a leaf, which is installed and, when it is of MT 1, granted by
the host, or in failure; bands parked on the page go on (R365, R366). -/
def execPageServiced (ia : Nat) (leaf : Option DWord) (s : State) : Host.Outcome State Fault Refusal :=
  let page := localPart ia / 65536
  let rest := s.served.filter fun v => v.1 != page
  let s1 : State := match leaf with
    | some e =>
      let a := localPart ia
      { s with ptes := s.ptes.put (pteKey (if (s.pte (pteKey 3 a)).getLsbD 0 && !(s.pte (pteKey 3 a)).getLsbD 1 then 4 else 3) a) e,
               served := if e.extractLsb' 7 2 = 1 then rest ++ [(page, true)] else rest }
    | none => { s with served := rest ++ [(page, false)] }
  let free := fun (b : Band) => match b.park with
    | some k => if k = page then { b with park := none } else b
    | none => b
  .next { s1 with cores := s1.cores.map fun e => (e.1, { e.2 with bands := e.2.bands.map fun b => (b.1, free b.2) }) }

/-- PATROL_SCRUB: the scrubber reads a sector and writes corrected data back: what it holds is unchanged (R369). -/
def execPatrolScrub (_sector : Nat) (s : State) : Host.Outcome State Fault Refusal := .next s

/-! ### Upsets (R368, R369, R371) -/

/-- Bytes of the private region: every slot of every core (08_memory.md R176). -/
def pvBytes (pvsize : Nat) : Nat := 256 * 32 * 32 * pvsize

/-- Whether an IA lies in a valid window of a context, or in what firmware placed for it. -/
def Ctx.keeps (x : Ctx) (ia : Nat) : Bool :=
  let within := fun (b n : Nat) => decide (b ≤ ia) && decide (ia < b + n)
  (List.range 16).any (fun n => (x.vwLo n).getLsbD 0 && within (x.iabase n) (x.vsize n))
    || within x.pvbase.toNat (pvBytes x.pvsize.toNat) || within x.ftbase.toNat (32 * x.ftcount.toNat)
    || within x.csave.toNat (65536 * x.csavesz.toNat)
/-- Whether some context keeps an IA. -/
def State.kept (s : State) (ia : Nat) : Bool := s.ctxs.any fun e => e.2.keeps ia
/-- Whether some context keeps what a mapped leaf has at an HBM address. -/
def State.keptHbm (s : State) (pa : Nat) : Bool :=
  s.ptes.any fun e =>
    let lv := e.1 / 2 ^ 48
    let n := if lv = 4 then 2 ^ 16 else 2 ^ 21
    let base := (e.2.extractLsb' 12 52).toNat * 4096
    (lv == 4 || (lv == 3 && e.2.getLsbD 1)) && e.2.getLsbD 0 && e.2.extractLsb' 7 2 == 0
      && decide (base ≤ pa) && decide (pa < base + n)
      && s.kept (s.domidx.toNat * 2 ^ 48 + (e.1 % 2 ^ 48) * n + (pa - base))
/-- Whether a context has the byte of the chip scratchpad, as CHIP space or as a counter (08_memory.md R179, 13_tasks.md
R307). -/
def State.keptChip (s : State) (a : Nat) : Bool :=
  s.ctxs.any fun e =>
    (decide (e.2.chiplo.toNat ≤ a) && decide (a < e.2.chiphi.toNat))
      || (decide (0x3F00000 + 4 * e.2.dcbase.toNat ≤ a) && decide (a < 0x3F00000 + 4 * (e.2.dcbase.toNat + e.2.dccnt.toNat)))
/-- After an uncorrectable error: vector 3 to the physical function when no context has what it struck (20_host.md R405;
DEDUCED, assumption log entry 61). -/
def State.astray (s : State) (kept : Bool) : State := if kept then s else s.send (.msix 0 3)

/-- A physical event. Uncorrectable data are marked where they lie; a band whose registers fail is killed; a corrected
error is logged with the core and slot it struck, 0 where it struck none (R369); an uncorrectable one outside any context is signalled (20_host.md R405). -/
def State.upset (s : State) : Upset → State
  | .scr c a => (s.modCore c fun x => { x with scr := x.scr.mark 8 a }).astray
      ((s.coreAt c).crews.any fun w => decide (w.2.place ≤ a) && decide (a < w.2.place + w.2.size))
  | .chip a => State.astray { s with chip := s.chip.mark 8 a } (s.keptChip a)
  | .l1 c line u =>
    match s.l1Line c line with
    | some e => (s.setL1 c line { e with poison := e.poison ||| (1#16 <<< u) }).astray (s.kept (line * 128 + 8 * u))
    | none => s
  | .l2 line u =>
    match s.l2.find line with
    | some e => State.astray { s with l2 := s.l2.put line { e with poison := e.poison ||| (1#16 <<< u) } }
        (s.kept (line * 128 + 8 * u))
    | none => s
  | .hbm pa => State.astray { s with hbm := s.hbm.mark 32 pa } (s.keptHbm pa)
  | .regs c k i =>
    match s.hereAt c k with
    | some h => if h.band.killed then s else s.killPoison h 5 i
    | none => s
  | .acc c i =>
    let (r, s1) := s.draw
    match (s.coreAt c).mx.owner with
    | none => s.astray false
    | some n =>
      let live := (s1.bandsOf c n).filter fun e => !e.2.killed
      match live[r % max 1 live.length]? with
      | some e => (match s1.hereAt c e.1 with | some h => s1.killPoison h 7 i | none => s1)
      | none => s1
  | .row q c => (s.modCl q fun a => { a with st := { a.st with
      poison := if a.st.poison.contains c then a.st.poison else a.st.poison ++ [c] } }).astray
      (s.clusterAt q).clause.owner.isSome
  | .parity c bank mac col => s.modMx c fun m =>
      let b := m.bank bank
      m.setBank bank { b with parity := b.parity.put mac (b.parity.get 0 mac ||| (1#320 <<< col)) }
  | .clone c k l => { s with clones := s.clones ++ [(c, k, l)] }
  | .corrected x unit index c k => s.logRec x ⟨11, 0, 0, c, k, 0, hwUnit 4 unit index, 0, 0⟩

end Sys2Proof.Machine
end

