-- ==== Sys2Proof/Machine/Zof.lean ====
section
/-! DEFINITION. ZOF files: the checks on one, what one holds, and the placing of its sections in a context
(03_assembly.md R64 to R73). -/

namespace Sys2Proof.Machine

/-! ### Sections (R65, R66) -/

/-- A section table entry (R66). -/
structure Sect where
  name  : Nat
  kind  : Nat
  align : Nat
  off   : Nat
  size  : Nat
  link  : Nat
  rsvd  : Nat
  deriving DecidableEq, Repr

/-- The section table: SECCOUNT entries of 32 bytes at SECTOFF. -/
def zSects (d : List Byte) : List Sect :=
  (List.range (recU d 0x14 4)).map fun i =>
    let b := recU d 0x18 8 + 32 * i
    ⟨recU d b 4, recU d (b + 4) 2, recU d (b + 6) 2, recU d (b + 8) 8, recU d (b + 16) 8, recU d (b + 24) 4,
      recU d (b + 28) 4⟩

/-- The section of a kind. -/
def zSect (l : List Sect) (k : Nat) : Option Sect := l.find? fun x => x.kind == k
/-- The size of the section of a kind, 0 without one. -/
def zSize (l : List Sect) (k : Nat) : Nat := match zSect l k with | some x => x.size | none => 0
/-- The contents of a section. -/
def Sect.bytes (x : Sect) (d : List Byte) : List Byte := if x.kind = 4 then [] else sliceOf d x.off x.size
/-- The contents of the section of a kind. -/
def zBytes (d : List Byte) (l : List Sect) (k : Nat) : List Byte := match zSect l k with | some x => x.bytes d | none => []

/-- The string at an offset of the string section, without its NUL (R71). -/
def zName (strs : List Byte) (o : Nat) : List Byte := (strs.drop o).takeWhile fun b => b != 0
/-- Whether an offset names a string. -/
def nameOk (strs : List Byte) (o : Nat) : Bool := o == 0 || decide (o < strs.length)

/-- The rules of R65. -/
def zHeaderOk (d : List Byte) : Bool :=
  decide (64 ≤ d.length) && recU d 0 4 == 0x31464F5A && recU d 4 2 == 1 && recU d 8 2 == 1 && recU d 0xA 2 == 0
    && decide (recU d 0xC 4 < 4) && decide (1 ≤ recU d 0x14 4) && decide (recU d 0x14 4 ≤ 13)
    && recU d 0x18 8 % 8 == 0 && decide (recU d 0x20 4 ≤ 65535) && decide (recU d 0x24 4 ≤ 65535)
    && recU d 0x2C 4 == 0 && recU d 0x30 8 == d.length && recU d 0x38 8 == 0
    && decide (64 ≤ recU d 0x18 8) && decide (recU d 0x18 8 + 32 * recU d 0x14 4 ≤ d.length)

/-- The rules of R66 on one entry, and the layout of R64. -/
def sectOk (d : List Byte) (l : List Sect) (x : Sect) : Bool :=
  let tab := recU d 0x18 8
  decide (1 ≤ x.kind) && decide (x.kind ≤ 11) && decide (x.align ≤ 16) && x.rsvd == 0
    && (x.kind != 1 || (decide (3 ≤ x.align) && x.size % 8 == 0))
    && (if x.kind = 8 then (match l[x.link]? with | some y => decide (1 ≤ y.kind) && decide (y.kind ≤ 3) | none => false)
        else x.link == 0)
    && (if x.kind = 4 then x.off == 0
        else if x.kind = 11 then decide (tab + 32 * l.length ≤ x.off) && x.off + x.size == d.length && x.size == 16672
        else decide (64 ≤ x.off) && decide (x.off + x.size ≤ tab))

/-- The rules of R64 and R66 on the table as a whole. -/
def zTableOk (d : List Byte) (l : List Sect) : Bool :=
  let kinds := l.map (·.kind)
  let links := (l.filter fun x => x.kind == 8).map (·.link)
  let has := fun (k : Nat) => kinds.contains k
  l.all (sectOk d l) && decide (((kinds.filter fun k => k != 8).eraseDups).length = (kinds.filter fun k => k != 8).length)
    && decide (links.eraseDups.length = links.length)
    && (recU d 0x24 4 == 0 || (has 1 && has 5 && has 9)) && (recU d 0x28 4 == 0 || has 6)
    && has 10 == (recU d 0xC 4).testBit 0 && has 11 == (recU d 0xC 4).testBit 1

/-! ### Labels and kernels (R67, R68) -/

/-- Label entry `i`. -/
def zLabel (b : List Byte) (i : Nat) : LabelEntry :=
  ⟨recU b (8 * i) 4, recU b (8 * i + 4) 1, (recU b (8 * i + 5) 1).testBit 0, recU b (8 * i + 6) 2⟩
/-- The rules of R67 on label entry `i`. -/
def labelOk (b : List Byte) (code kerns i : Nat) : Bool :=
  let e := zLabel b i
  e.offset % 8 == 0 && decide (e.offset < code) && decide (e.attr ≤ 2) && decide (recU b (8 * i + 5) 1 < 2)
    && (if e.entry then decide (e.kidx < kerns) else e.kidx == 0)

/-- Kernel header `i`. -/
def zKernel (b : List Byte) (i : Nat) : KHeader :=
  let o := 64 * i
  ⟨BitVec.ofNat 16 (recU b o 2), recU b (o + 2) 1, recU b (o + 3) 1, recU b (o + 4) 1, recU b (o + 5) 1,
    BitVec.ofNat 16 (recU b (o + 6) 2), recU b (o + 8) 4, recU b (o + 0xC) 4, recU b (o + 0x10) 1,
    (List.range 8).map fun n => BitVec.ofNat 32 (recU b (o + 0x14 + 4 * n) 4)⟩
/-- The rules of R68 on kernel header `i`. -/
def kernelOk (b : List Byte) (labels : List LabelEntry) (strs : List Byte) (i : Nat) : Bool :=
  let o := 64 * i
  let k := zKernel b i
  decide (8 ≤ k.regs) && decide (k.regs ≤ 128) && k.regs % 8 == 0 && decide (k.crew ≤ 32) && decide (1 ≤ k.gang)
    && decide (k.gang ≤ 16) && decide (k.carve ≤ 5) && decide (k.kflags.toNat < 8) && decide (k.energy ≤ 15)
    && recU b (o + 0x12) 2 == 0 && recU b (o + 0x38) 8 == 0 && nameOk strs (recU b (o + 0x34) 4)
    && (List.range 8).all (fun n => (recU b (o + 0x11) 1).testBit n || recU b (o + 0x14 + 4 * n) 4 == 0)
    && (match labels[k.entry.toNat]? with | some e => e.entry && e.kidx == i | none => false)

/-! ### Symbols and relocations (R69, R70) -/

/-- A symbol (R69). -/
structure ZSym where
  name : Nat
  kind : Nat
  bind : Nat
  sect : Nat
  val  : Nat
  size : Nat
  deriving DecidableEq, Repr

def zSym (b : List Byte) (i : Nat) : ZSym :=
  let o := 24 * i
  ⟨recU b o 4, recU b (o + 4) 1, recU b (o + 5) 1, recU b (o + 6) 2, recU b (o + 8) 8, recU b (o + 16) 8⟩
/-- The rules of R69 on a symbol: a label's VALUE is the id of one of the `nl` labels, and what is no object has SIZE 0. -/
def symOk (l : List Sect) (strs : List Byte) (nl : Nat) (y : ZSym) : Bool :=
  decide (1 ≤ y.kind) && decide (y.kind ≤ 5) && decide (y.bind ≤ 2) && nameOk strs y.name
    && (if y.kind = 2 then (match l[y.sect]? with | some x => decide (2 ≤ x.kind) && decide (x.kind ≤ 4) | none => false)
        else y.sect == 0xFFFF)
    && (y.kind != 5 || y.val == 0) && (y.kind != 1 || decide (y.val < nl)) && (y.kind == 2 || y.kind == 4 || y.size == 0)

/-- A relocation of the section with index `target` (R70). -/
structure Reloc where
  target : Nat
  off    : Nat
  sym    : Nat
  typ    : Nat
  addend : Int
  rsvd   : Nat
  deriving DecidableEq, Repr

/-- The relocations of every relocation section. -/
def zRelocs (d : List Byte) (l : List Sect) : List Reloc :=
  (l.filter fun x => x.kind == 8).flatMap fun x =>
    let b := x.bytes d
    (List.range (x.size / 24)).map fun i =>
      ⟨x.link, recU b (24 * i) 8, recU b (24 * i + 8) 4, recU b (24 * i + 12) 2,
        (BitVec.ofNat 64 (recU b (24 * i + 16) 8)).toInt, recU b (24 * i + 14) 2⟩
/-- Bytes of a relocation's container. -/
def Reloc.bytes (r : Reloc) : Nat := if r.typ = 2 then 4 else 8
/-- The rules of R70 on a relocation. -/
def relocOk (l : List Sect) (syms : List ZSym) (r : Reloc) : Bool :=
  decide (1 ≤ r.typ) && decide (r.typ ≤ 7) && r.rsvd == 0
    && (match syms[r.sym]? with | some y => y.kind == 2 || y.kind == 5 | none => false)
    && (match l[r.target]? with
        | some x => decide (r.off + r.bytes ≤ x.size) && (decide (r.typ ≤ 2) || (x.kind == 1 && r.off % 8 == 0))
        | none => false)

/-- Bits of a doubleword replaced. -/
def patchBits (w lo n v : Nat) : Nat := w % 2 ^ lo + v % 2 ^ n * 2 ^ lo + w / 2 ^ (lo + n) * 2 ^ (lo + n)
/-- The container after a relocation by `x` (R70). -/
def Reloc.value (r : Reloc) (x old : Nat) : Nat :=
  if r.typ ≤ 2 then x
  else if r.typ = 3 then patchBits old 32 32 x
  else if r.typ = 4 then patchBits old 32 32 (x / 2 ^ 32)
  else if r.typ = 5 then patchBits old 41 23 x
  else if r.typ = 6 then patchBits old 41 23 (x / 2 ^ 23)
  else patchBits old 41 18 (x / 2 ^ 46)
/-- Applies a relocation to the bytes of its section. -/
def Reloc.apply (r : Reloc) (x : Nat) (b : List Byte) : List Byte :=
  patch b r.off (toBytes r.bytes (r.value x (recU b r.off r.bytes)))

/-! ### The file (R64 to R72) -/

/-- A checked file. -/
structure Zof where
  sects   : List Sect
  labels  : List LabelEntry
  kernels : List KHeader
  syms    : List ZSym
  strs    : List Byte
  relocs  : List Reloc
  svn     : Nat
  deriving DecidableEq, Repr

/-- The strings' rules (R71). -/
def stringsOk (l : List Sect) (s : List Byte) : Bool :=
  (zSect l 9).isNone || (s.headD 1 == 0 && s.getLast? == some 0 && s.all fun b => decide (b.toNat < 128))
/-- The debug lines' rules (R71): reserved bytes zero, FILE a string, CODEOFF ascending. -/
def debugOk (b strs : List Byte) : Bool :=
  (List.range (b.length / 16)).all fun i =>
    recU b (16 * i + 14) 2 == 0 && nameOk strs (recU b (16 * i + 8) 4)
      && (i == 0 || decide (recU b (16 * (i - 1)) 4 ≤ recU b (16 * i) 4))
/-- The signature section's own fields (R72). -/
def sigOk (d : List Byte) (l : List Sect) : Bool :=
  match zSect l 11 with
  | none => true
  | some x => recU d x.off 4 == 1 && recU d (x.off + 4) 4 == recU d 0x20 4

/-- Reads a file, none when it breaks a rule of R64 to R72. -/
def parseZof (d : List Byte) : Option Zof :=
  if !zHeaderOk d then none
  else
    let l := zSects d
    let strs := zBytes d l 9
    let nl := recU d 0x24 4
    let nk := recU d 0x28 4
    let lb := zBytes d l 5
    let kb := zBytes d l 6
    let labels := (List.range nl).map (zLabel lb)
    let syms := (List.range (zSize l 7 / 24)).map (zSym (zBytes d l 7))
    let relocs := zRelocs d l
    if zTableOk d l && stringsOk l strs && sigOk d l && nameOk strs (recU d 0x10 4) && l.all (fun x => nameOk strs x.name)
        && zSize l 5 == 8 * nl && zSize l 6 == 64 * nk && zSize l 7 % 24 == 0 && zSize l 10 % 16 == 0
        && (l.all fun x => x.kind != 8 || x.size % 24 == 0)
        && (List.range nl).all (labelOk lb (zSize l 1) nk) && (List.range nk).all (kernelOk kb labels strs)
        && syms.all (symOk l strs nl) && debugOk (zBytes d l 10) strs && relocs.all (relocOk l syms) then
      some ⟨l, labels, (List.range nk).map (zKernel kb), syms, strs, relocs, recU d 0x20 4⟩
    else none

/-! ### Signature and security version (R72, 20_host.md R412) -/

/-- What verification finds: the STATUS of a failure, or 0, and the verified-object cache after it. A file whose DIGEST is
in the cache is not verified again but for its security version (DESIGN CHOICE, assumption log entry 80). -/
def Firmware.verify (f : Firmware) (sigreq : Bool) (d : List Byte) (z : Zof) : Nat × List (List Byte × Nat) :=
  match zSect z.sects 11 with
  | none => (if sigreq then 8 else 0, f.cache)
  | some x =>
    let digest := sliceOf d (x.off + 8) 48
    let keyA := recU d (x.off + 0x38) 4
    let keyB := recU d (x.off + 0x3C) 4
    let msg := d.take x.off ++ sliceOf d x.off 0x40
    let good := fun (k : Nat) => Config.keyKnown k && !f.revoked.contains k
    if Config.sha384 (d.take x.off) ≠ digest then (5, f.cache)
    else if f.cache.any fun e => e.1 == digest then
      if z.svn < f.modsvn then (7, f.cache.filter fun e => e.1 != digest) else (0, f.cache)
    else if !(good keyA && good keyB && Config.rsaVerifies keyA msg (sliceOf d (x.off + 0x40) 384)
        && Config.slhVerifies keyB msg (sliceOf d (x.off + 0x1C0) 16224)) then (5, f.cache)
    else if z.svn < f.modsvn then (6, f.cache)
    else (0, f.cache ++ [(digest, z.svn)])

/-! ### Placing (R73) -/

/-- The local pages that are mapped, as (address in the local space, bytes). -/
def State.mappedPages (s : State) : List (Nat × Nat) :=
  s.ptes.filterMap fun e =>
    let lv := e.1 / 2 ^ 48
    let i := e.1 % 2 ^ 48
    if lv = 4 ∧ e.2.getLsbD 0 = true then some (i * 2 ^ 16, 2 ^ 16)
    else if lv = 3 ∧ e.2.getLsbD 0 = true ∧ e.2.getLsbD 1 = true then some (i * 2 ^ 21, 2 ^ 21)
    else none

/-- Whether every 64 KiB page of a local range is mapped. -/
def State.allMapped (s : State) (a n : Nat) : Bool :=
  (List.range ((a % 65536 + n + 65535) / 65536)).all fun i =>
    match s.walk (a / 65536 * 65536 + 65536 * i) with | .leaf _ => true | .bad _ _ => false

/-- An address rounded up. -/
def alignUp (a n : Nat) : Nat := (a + n - 1) / n * n

/-- Where a section may begin: the mapped pages' first addresses and the ends of what is placed, in a local window that
grants what the section needs. -/
def State.places (s : State) (x : Ctx) (need : Need) (taken : List (Nat × Nat)) (size align : Nat) : List Nat :=
  (List.range 16).flatMap fun n =>
    if !((x.vwLo n).getLsbD 0 && x.grants n need && s.localIa (x.iabase n)) then []
    else
      let inside := fun (v : Nat) => decide (x.vbase n ≤ v) && decide (v + size ≤ x.vbase n + x.vsize n)
      let ia := fun (v : Nat) => localPart (x.iabase n + (v - x.vbase n))
      let starts := x.vbase n :: (s.mappedPages.map fun p => x.vbase n + (p.1 - localPart (x.iabase n)))
        ++ taken.map fun t => t.1 + t.2
      ((starts.map fun v => alignUp v align).filter fun v =>
        inside v && x.window (BitVec.ofNat 64 v) == some n && s.allMapped (ia v) size
          && taken.all fun t => decide (v + size ≤ t.1) || decide (t.1 + t.2 ≤ v)).eraseDups

/-- Places the sections of kinds 1 to 4 in turn; where firmware puts each, of the places that fit, is free. -/
def State.placeSects (s : State) (x : Ctx) : List Sect → List (Nat × Nat) → Option (State × List Nat)
  | [], _ => some (s, [])
  | y :: t, taken =>
    let need := if y.kind = 1 then Need.x else if y.kind = 2 then .r else .w
    match s.places x need taken y.size (2 ^ y.align) with
    | [] => none
    | v :: vs =>
      let a := pick (Config.firmwarePlace s.fresh) v (v :: vs)
      (State.placeSects { s with fresh := s.fresh + 1 } x t (if y.size = 0 then taken else (a, y.size) :: taken)).map fun r => (r.1, a :: r.2)

/-- Writes bytes of one line to the memory behind a local address, whatever its permissions; every copy is expelled
first. -/
def State.fwPut (s : State) (ia : Nat) (d : List Byte) : State :=
  let s1 := s.expel (ia / 128)
  match s1.walk (localPart ia) with
  | .leaf l => s1.physWrite l.mt l.pa d
  | .bad _ _ => s1
/-- Writes bytes over several lines. -/
def State.fwWrite (s : State) : List (Nat × Nat) → List Byte → State
  | [], _ => s
  | (ia, n) :: t, d => State.fwWrite (s.fwPut ia (d.take n)) t (d.drop n)

/-- The symbol of a name in the modules a context holds, but for one handle (R73 step 3); when several modules export the
name, the one that stands first in the context's table (DESIGN CHOICE, assumption log entry 80). -/
def Ctx.symbol (x : Ctx) (skip : Nat) (name : List Byte) : Option Nat :=
  ((x.modules.filter fun m => m.1 != skip).flatMap fun m => m.2.symbols).findSome? fun y =>
    if y.1 = name then some y.2 else none

/-- The address of a symbol: of a data object in a placed section, or of an import. -/
def symAddr (x : Ctx) (skip : Nat) (z : Zof) (at_ : List (Sect × Nat)) (y : ZSym) : Option Nat :=
  if y.kind = 2 then
    match z.sects[y.sect]? with
    | some t => (at_.find? fun e => e.1 == t).map fun e => e.2 + y.val
    | none => none
  else x.symbol skip (zName z.strs y.name)

/-- The bytes of a placed section after its relocations (R70, R73 step 4). -/
def sectImage (d : List Byte) (z : Zof) (addr : ZSym → Nat) (y : Sect) : List Byte :=
  if y.kind = 4 then List.replicate y.size 0
  else (z.relocs.filter fun r => z.sects[r.target]? == some y).foldl (fun b r =>
    match z.syms[r.sym]? with
    | some q => r.apply ((((addr q : Nat) : Int) + r.addend) % 2 ^ 64).toNat b
    | none => b) (y.bytes d)

/-- Whether a relocation's value is refused (R70: ABS32 at 2^32 or above). -/
def relocBad (z : Zof) (addr : ZSym → Nat) (r : Reloc) : Bool :=
  r.typ == 2 && match z.syms[r.sym]? with
    | some q => decide (2 ^ 32 ≤ ((((addr q : Nat) : Int) + r.addend) % 2 ^ 64).toNat)
    | none => false

/-- Installs a checked file as module `hd` of context `c` (R73 steps 2 to 6): the STATUS of a failure, or the state. A
section that no window has a place for is NORES (DESIGN CHOICE, assumption log entry 80). -/
def State.installModule (s : State) (c hd : Nat) (x : Ctx) (d : List Byte) (z : Zof) : Except Nat State :=
  let secs := z.sects.filter fun y => decide (1 ≤ y.kind) && decide (y.kind ≤ 4)
  let taken := (x.modules.filter fun m => m.1 != hd).flatMap fun m => m.2.spans
  match s.placeSects x secs taken with
  | none => .error 3
  | some (s1, l) =>
    let at_ := secs.zip l
    if z.syms.any fun y => y.kind == 5 && (symAddr x hd z at_ y).isNone then .error 9
    else
      let addr := fun (y : ZSym) => (symAddr x hd z at_ y).getD 0
      if z.relocs.any (relocBad z addr) then .error 4
      else
        let s2 := at_.foldl (fun s e => match x.win (BitVec.ofNat 64 e.2) .none with
          | .ok (ia, _) => s.fwWrite (pieces (e.1.size / 128 + 2) ia e.1.size) (sectImage d z addr e.1)
          | .error _ => s) s1
        let m : Module :=
          { code := ((at_.find? fun e => e.1.kind == 1).map (·.2)).getD 0, size := zSize z.sects 1, labels := z.labels,
            kernels := z.kernels,
            symbols := (z.syms.filter fun y => y.kind == 2 && y.bind == 1).map fun y => (zName z.strs y.name, addr y),
            spans := (at_.filter fun e => e.1.size != 0).map fun e => (e.2, e.1.size), old := false }
        .ok (s2.modCtx c fun v => { v with modules := v.modules.put hd m })

end Sys2Proof.Machine
end

