-- ==== Sys2Proof/Machine/Host.lean ====
section
/-! DEFINITION. The host interface: BAR0 and its rings, the sixteen commands, booting, SPDM, and the taking away of a
clause array (20_host.md R403 to R416, 12_clause.md R278, 13_tasks.md R306). -/

namespace Sys2Proof.Machine

/-! ### The ring registers (R404) -/

def State.fnAt (s : State) (n : Nat) : HostFn := s.fns.get HostFn.reset n
def State.modFn (s : State) (n : Nat) (f : HostFn → HostFn) : State := { s with fns := s.fns.put n (f (s.fnAt n)) }

/-- Whether a ring size is legal. -/
def logOk (n : BitVec 4) : Bool := decide (4 ≤ n.toNat) && decide (n.toNat ≤ 12)
/-- Whether an index lies in a ring of 2^`n` entries. -/
def indexOk (n : BitVec 4) (i : BitVec 12) : Bool := decide (i.toNat < 2 ^ n.toNat)
/-- The index after `i`. -/
def nextIndex (n : BitVec 4) (i : BitVec 12) : BitVec 12 := BitVec.ofNat 12 ((i.toNat + 1) % 2 ^ n.toNat)

/-- RLOG and REN written: a 1 in REN checks the size and the indices; 0 and then 1 clears an error. -/
def HostFn.setRen (f : HostFn) (n : BitVec 4) (en : Bool) : HostFn :=
  { f with rlog := n, ren := en,
           rerr := if en then (f.ren && f.rerr) || !(logOk n && indexOk n f.rtail && indexOk n f.rhead) else f.rerr }
/-- CLOG and CEN written. -/
def HostFn.setCen (f : HostFn) (n : BitVec 4) (en : Bool) : HostFn :=
  { f with clog := n, cen := en,
           cerr := if en then (f.cen && f.cerr) || !(logOk n && indexOk n f.chead && indexOk n f.ctail) else f.cerr }
/-- RTAIL written: an index at or beyond the ring size stops the ring. -/
def HostFn.setTail (f : HostFn) (v : BitVec 12) : HostFn :=
  { f with rtail := v, rerr := f.rerr || (f.ren && !indexOk f.rlog v) }
/-- CHEAD written. -/
def HostFn.setHead (f : HostFn) (v : BitVec 12) : HostFn :=
  { f with chead := v, cerr := f.cerr || (f.cen && !indexOk f.clog v) }

/-- RTAIL: the doorbell of function `fn` (R404, R407). -/
def execRtail (fn : Nat) (v : BitVec 12) (s : State) : Host.Outcome State Fault Refusal :=
  if fn < 16 then .next (s.modFn fn fun f => f.setTail v) else .next s
/-- REN: a write of RLOG and REN (R404). -/
def execRen (fn : Nat) (n : BitVec 4) (en : Bool) (s : State) : Host.Outcome State Fault Refusal :=
  if fn < 16 then .next (s.modFn fn fun f => f.setRen n en) else .next s
/-- CEN: a write of CLOG and CEN (R404). -/
def execCen (fn : Nat) (n : BitVec 4) (en : Bool) (s : State) : Host.Outcome State Fault Refusal :=
  if fn < 16 then .next (s.modFn fn fun f => f.setCen n en) else .next s
/-- CHEAD: the host has consumed completions (R404, R407). -/
def execChead (fn : Nat) (v : BitVec 12) (s : State) : Host.Outcome State Fault Refusal :=
  if fn < 16 then .next (s.modFn fn fun f => f.setHead v) else .next s

/-- A write of a BAR0 doubleword: the two bases are 4 KiB-aligned; read-only and unlisted offsets ignore it. -/
def HostFn.write (f : HostFn) (off : Nat) (v : DWord) : HostFn :=
  if off = 0x00 then { f with rbase := v &&& ~~~0xFFF#64 }
  else if off = 0x08 then f.setRen (v.extractLsb' 0 4) (v.getLsbD 31)
  else if off = 0x10 then f.setTail (v.extractLsb' 0 12)
  else if off = 0x20 then { f with cbase := v &&& ~~~0xFFF#64 }
  else if off = 0x28 then f.setCen (v.extractLsb' 0 4) (v.getLsbD 31)
  else if off = 0x30 then f.setHead (v.extractLsb' 0 12)
  else f
/-- A read of a BAR0 doubleword: the ring registers, FSTAT with READY, ERR and FWSVN, and zero at every other offset
(R404). -/
def State.bar0Read (s : State) (fn off : Nat) : DWord :=
  let f := s.fnAt fn
  let sized := fun (n : BitVec 4) (en : Bool) => BitVec.ofNat 64 (n.toNat + if en then 2 ^ 31 else 0)
  if off = 0x00 then f.rbase
  else if off = 0x08 then sized f.rlog f.ren
  else if off = 0x10 then f.rtail.setWidth 64
  else if off = 0x18 then f.rhead.setWidth 64
  else if off = 0x20 then f.cbase
  else if off = 0x28 then sized f.clog f.cen
  else if off = 0x30 then f.chead.setWidth 64
  else if off = 0x38 then f.ctail.setWidth 64
  else if off = 0x40 then
    BitVec.ofNat 64 ((if s.fw.ready then 1 else 0) + (if f.rerr || f.cerr then 2 else 0) + s.fw.fwsvn.toNat * 2 ^ 16)
  else 0
/-- BAR0_WRITE (R404). -/
def execBar0Write (fn off : Nat) (v : DWord) (s : State) : Host.Outcome State Fault Refusal :=
  if fn < 16 then .next (s.modFn fn fun f => f.write off v) else .next s

/-! ### Commands and completions (R405 to R407) -/

/-- Whether a function's ring has a command that may begin: firmware ready, both rings running, an entry to read and
room for a completion (R407). -/
def State.ringDue (s : State) (fn : Nat) : Bool :=
  let f := s.fnAt fn
  s.fw.ready && decide (fn < 16) && f.ren && !f.rerr && f.cen && !f.cerr && f.rhead != f.rtail
    && nextIndex f.clog f.ctail != f.chead
/-- CODE, CTX and TAG of the ring's next entry (R406). -/
def State.ringHead (s : State) (fn : Nat) : Nat × Nat × Nat :=
  let f := s.fnAt fn
  let e := s.hostMem.read (f.rbase.toNat + 64 * f.rhead.toNat) 8
  (recU e 0 2, recU e 2 2, recU e 4 4)
/-- The function whose ring is served next: round-robin, over the rings that are due (R407). -/
def State.nextRing (s : State) : Option Nat := ((List.range 16).map fun i => (s.fw.turn + i) % 16).find? s.ringDue
/-- Whether the command is the next one of the ring that is served next. -/
def State.cmdDue (s : State) (code : Nat) (c : HostCmd) : Bool :=
  s.nextRing == some c.fn && s.ringHead c.fn == (code, c.ctx.toNat, c.tag.toNat)
/-- The entry at a ring's head is read, and the next ring's turn comes. -/
def State.takeEntry (s : State) (fn : Nat) : State :=
  { s.modFn fn fun f => { f with rhead := nextIndex f.rlog f.rhead } with fw := { s.fw with turn := (fn + 1) % 16 } }

/-- The completion, then MSI-X vector 0 (R405 to R407). -/
def State.complete (s : State) (c : HostCmd) (status : Nat) (result : DWord) : State :=
  let f := s.fnAt c.fn
  let d := toBytes 4 c.tag.toNat ++ toBytes 2 status ++ [0, 0] ++ toBytes 8 result.toNat
  (({ s with hostMem := s.hostMem.write 32 (f.cbase.toNat + 16 * f.ctail.toNat) d }).modFn c.fn fun f =>
    { f with ctail := nextIndex f.clog f.ctail }).send (.msix c.fn 0)

/-- What a command came to in this step: its STATUS and RESULT, or more to do. -/
inductive HostEnd where
  | done (status : Nat) (result : DWord)
  | more (j : Job)
  deriving DecidableEq, Repr

/-- A job at its beginning. -/
def Job.start (i : Instr) (now : Nat) : Job := ⟨i, 0, now, 0, [], 0, 0, 0, none, false⟩

/-- Records a step of a command: the job, or the completion. -/
def State.hostEnd (s : State) (c : HostCmd) : HostEnd → State
  | .done st r => ({ s with fw := { s.fw with job := none } }).complete c st r
  | .more j => { s with fw := { s.fw with job := some j } }

/-- A host command: begins when it is due and no other is under way, or goes on (R407). -/
def State.hostCmd (s : State) (i : Instr) (code : Nat) (c : HostCmd) (run : State → Job → State × HostEnd) : State :=
  match s.fw.job with
  | some j =>
    if j.cmd = i then
      let r := run s j
      r.1.hostEnd c r.2
    else s
  | none =>
    if s.cmdDue code c then
      let s1 := s.takeEntry c.fn
      let r := run s1 (Job.start i s.cycle)
      r.1.hostEnd c r.2
    else s

/-- An entry whose CODE is none of the sixteen completes with BADCMD (R409). -/
def State.badCode (s : State) (fn : Nat) : State :=
  let e := s.ringHead fn
  if s.fw.job.isNone && s.nextRing == some fn && (e.1 == 0 || decide (16 < e.1)) then
    (s.takeEntry fn).complete
      ⟨fn, BitVec.ofNat 16 e.2.1, BitVec.ofNat 32 e.2.2⟩ 1 0
  else s

/-- A failed command: nothing changes. -/
def State.failed (s : State) (status : Nat) : State × HostEnd := (s, .done status 0)
/-- A command that completes at once. -/
def State.ok (s : State) (result : DWord) : State × HostEnd := (s, .done 0 result)

/-- Runs a command on the context it names: BADCTX, then DAMAGED (R406, R409). -/
def State.onCtx (s : State) (c : HostCmd) (always : Bool) (f : Nat → Ctx → State × HostEnd) : State × HostEnd :=
  match s.ctx? c.ctx.toNat with
  | none => s.failed 2
  | some x =>
    if x.fn ≠ c.fn then s.failed 2
    else if x.cerr.getLsbD 5 && !always then s.failed 11
    else f c.ctx.toNat x

/-- Runs a command of the physical function (R409). -/
def State.pfOnly (s : State) (c : HostCmd) (r : State × HostEnd) : State × HostEnd :=
  if c.fn = 0 then r else s.failed 1

/-! ### HBM pages and mappings (08_memory.md R183, R184; R408) -/

/-- The HBM that leaves use. -/
def State.hbmUsed (s : State) : List (Nat × Nat) :=
  s.ptes.filterMap fun e =>
    let lv := e.1 / 2 ^ 48
    let pa := (e.2.extractLsb' 12 52).toNat * 4096
    if e.2.extractLsb' 7 2 ≠ 0 then none
    else if lv = 4 ∧ e.2 ≠ 0 then some (pa, 2 ^ 16)
    else if lv = 3 ∧ e.2.getLsbD 1 = true then some (pa, 2 ^ 21)
    else none

/-- `n` unused HBM pages of `u` bytes, looking upward and around from `p` (DESIGN CHOICE, assumption log entry 43). -/
def freePages (u : Nat) (used : List (Nat × Nat)) : Nat → Nat → Nat → List Nat → Option (List Nat)
  | _, _, 0, acc => some acc.reverse
  | 0, _, _ + 1, _ => none
  | fuel + 1, p, n + 1, acc =>
    let a := p % 2 ^ 39
    if used.all fun r => decide (a + u ≤ r.1) || decide (r.1 + r.2 ≤ a) then
      freePages u used fuel (a + u) n (a :: acc)
    else freePages u used fuel (a + u) (n + 1) acc

/-- Allocates pages. -/
def State.takePages (s : State) (u n : Nat) : Option (State × List Nat) :=
  (freePages u s.hbmUsed (2 ^ 39 / u) (alignUp s.fw.nextPa u) n []).map fun l =>
    ({ s with fw := { s.fw with nextPa := (l.getLast?.getD s.fw.nextPa + u) % 2 ^ 39 } }, l)

/-- A leaf: V, LEAF, R, W, X, DSVC, MT and the address. -/
def leafWord (v r w x dsvc : Bool) (mt : BitVec 2) (pa : Nat) : DWord :=
  BitVec.ofNat 64 ((if v then 1 else 0) + 2 + (if r then 4 else 0) + (if w then 8 else 0) + (if x then 16 else 0)
    + (if dsvc then 64 else 0) + mt.toNat * 128 + pa)

/-- Puts a leaf for the page at a local address, with the tables above it. -/
def State.mapPage (s : State) (a : Nat) (big : Bool) (e : DWord) : State :=
  let t := (s.ptes.put (pteKey 1 a) 1).put (pteKey 2 a) 1
  { s with ptes := if big then t.put (pteKey 3 a) e else (t.put (pteKey 3 a) 1).put (pteKey 4 a) e }

/-- The leaves, present or not, that meet a local range: their key, first address and size. -/
def State.leavesIn (s : State) (a n : Nat) : List (Nat × Nat × Nat) :=
  s.ptes.filterMap fun e =>
    let lv := e.1 / 2 ^ 48
    let i := e.1 % 2 ^ 48
    let at_ := if lv = 4 then i * 2 ^ 16 else i * 2 ^ 21
    let size := if lv = 4 then 2 ^ 16 else 2 ^ 21
    if ((lv = 4 ∧ e.2 ≠ 0) ∨ (lv = 3 ∧ e.2.getLsbD 1 = true)) ∧ at_ < a + n ∧ a < at_ + size then some (e.1, at_, size)
    else none

/-- Maps `pas` at rising pages from a local address. -/
def State.mapAll (s : State) (a u : Nat) (leaf : Nat → DWord) (pas : List Nat) : State :=
  (pas.mapIdx fun i p => (i, p)).foldl (fun s e => s.mapPage (a + u * e.1) (u == 2 ^ 21) (leaf e.2)) s

/-- MAP (R408): the range must be local, aligned to its page size, and not mapped yet. With DSVC = 1 firmware may leave
the pages to be serviced on a first access (DESIGN CHOICE, assumption log entry 42). -/
def State.runMap (s : State) (a : MapArgs) : State × HostEnd :=
  let u := if a.big then 2 ^ 21 else 2 ^ 16
  let at_ := localPart a.ia
  if !s.localIa a.ia || a.len = 0 || a.len % u != 0 || a.ia % u != 0 || decide (2 ^ 48 < at_ + a.len)
      || decide (2 ≤ a.mt.toNat) || (a.mt == 1 && (a.host % u != 0 || decide (2 ^ 64 < a.host + a.len)))
      || !(s.leavesIn at_ a.len).isEmpty then s.failed 1
  else
    let r := Config.firmwarePlace s.fresh
    let v := !(a.dsvc && r % 2 == 1)
    let leaf := fun (pa : Nat) => leafWord v a.r a.w a.x a.dsvc a.mt pa
    let s1 : State := { s with
      fresh := s.fresh + 1,
      served := s.served.filter fun p => decide (p.1 * 65536 < at_) || decide (at_ + a.len ≤ p.1 * 65536) }
    if a.mt = 1 then (s1.mapAll at_ u leaf ((List.range (a.len / u)).map fun i => a.host + u * i)).ok 0
    else match s1.takePages u (a.len / u) with
      | none => s.failed 3
      | some (s2, l) => (s2.mapAll at_ u leaf l).ok 0

/-- The lines of a local range that some cache holds. -/
def State.linesIn (s : State) (a n : Nat) : List Nat :=
  let hit := fun (k : Nat) => decide (a / 128 ≤ k) && decide (k * 128 < a + n)
  (s.l2.keys.filter hit ++ s.cores.flatMap fun e => e.2.l1.keys.filter hit).eraseDups

/-- Removes entries of the page table. -/
def State.dropPtes (s : State) (l : List (Nat × Nat × Nat)) : State :=
  { s with ptes := s.ptes.filter fun e => !(l.any fun h => h.1 == e.1) }

/-- UNMAP (R411): dirty bytes go to the old pages, the lines are discarded and their pins end, then the translations go.
A page must lie wholly inside the range. -/
def State.runUnmap (s : State) (ia len : Nat) : State × HostEnd :=
  let at_ := localPart ia
  let hit := s.leavesIn at_ len
  if !s.localIa ia || len = 0 || len % 65536 != 0 || ia % 65536 != 0 || decide (2 ^ 48 < at_ + len)
      || !(hit.all fun e => decide (at_ ≤ e.2.1) && decide (e.2.1 + e.2.2 ≤ at_ + len)) then s.failed 1
  else
    let s1 := (s.linesIn ia len).foldl State.expel s
    ({ s1.dropPtes hit with
      served := s1.served.filter fun p => decide (p.1 * 65536 < at_) || decide (at_ + len ≤ p.1 * 65536) }).ok 0

/-! ### Opening and closing (R408, R410) -/

/-- A local range of whole 2 MiB pages that nothing maps, beginning at a free choice of firmware. -/
def State.openRange (s : State) (n : Nat) : Option Nat :=
  let u := alignUp n (2 ^ 21)
  let slots := 2 ^ 48 / u
  let r := Config.firmwarePlace s.fresh
  ((List.range (s.ptes.length + 1)).map fun i => (r + i) % slots * u).find? fun a => (s.leavesIn a u).isEmpty

/-- Places and maps `n` bytes for firmware, none when HBM or the address space cannot hold them. -/
def State.fwRegion (s : State) (n : Nat) : Option (State × Nat) :=
  if n = 0 then some (s, 0)
  else
    match s.openRange n with
    | none => none
    | some a =>
      match ({ s with fresh := s.fresh + 1 }).takePages (2 ^ 21) (alignUp n (2 ^ 21) / 2 ^ 21) with
      | none => none
      | some (s1, l) => some (s1.mapAll a (2 ^ 21) (leafWord true true true false false 0) l, a)

/-- Unmaps what firmware mapped. -/
def State.fwFree (s : State) (ia n : Nat) : State :=
  if n = 0 then s
  else
    let a := localPart ia
    let s1 := (s.linesIn ia n).foldl State.expel s
    s1.dropPtes (s1.leavesIn a n)

/-- A run of `n` in [0, `top`) that none of the taken runs meets, of those that begin at 0 or where one ends: firmware's
choice is free. -/
def openRun (r n top : Nat) (taken : List (Nat × Nat)) : Option Nat :=
  let ok := fun (a : Nat) => decide (a + n ≤ top) && taken.all fun t => decide (a + n ≤ t.1) || decide (t.1 + t.2 ≤ a)
  match (0 :: taken.map fun t => t.1 + t.2).filter ok with
  | [] => none
  | a :: l => some (pick r a (a :: l))

/-- The queues of QMASK in every cluster. -/
def queuesOf (m : BitVec 16) : List (Nat × Nat) :=
  (List.range 16).flatMap fun q => ((List.range 16).filter fun n => m.getLsbD n).map fun n => (q, n)

/-- A context as OPEN_CONTEXT leaves it (R408, 15_traps.md R354). -/
def newCtx (fn : Nat) (a : OpenArgs) (save : Nat) : Ctx :=
  { fn := fn, sys := false, detm := a.detm, sigreq := a.sigreq || fn != 0, closing := false, held := false, cerr := 0,
    vw := [], pvbase := 0, pvsize := BitVec.ofNat 64 a.pvsize, chiplo := 0, chiphi := 0, ftbase := 0,
    ftcount := BitVec.ofNat 64 a.ftcount, dcbase := 0, dccnt := BitVec.ofNat 64 a.dccnt, btim := 4096, wdt := 2 ^ 30,
    chkn := 8, pdrain := 0x1010101010101010, pflush := 65536, csave := 0, csavesz := BitVec.ofNat 64 save, ecnt := 0,
    reserve := (a.cap : Int) * 2 ^ 32, weight := a.weight, cap := a.cap, qmask := a.qmask, clmask := a.clmask, modules := [],
    log := [], submits := 0, saved := [], arrays := [] }

/-- The queues and clause arrays of a context are assigned; the arrays take their reset values (12_clause.md R278). -/
def State.assign (s : State) (id : Nat) (a : OpenArgs) : State :=
  let s1 := (queuesOf a.qmask).foldl (fun s e => s.setQueue e.1 e.2 ⟨some id, []⟩) s
  ((List.range 16).filter fun q => a.clmask.getLsbD q).foldl (fun s q =>
    s.modCl q fun c => { c with owner := some id, st := ClState.reset }) s1

/-- OPEN_CONTEXT (R408). -/
def State.runOpen (s : State) (c : HostCmd) (a : OpenArgs) : State × HostEnd :=
  let save := if a.savesz = 0 then 4096 else a.savesz
  let ids := (List.range 64).filter fun i => (s.ctx? i).isNone
  let free := (queuesOf a.qmask).all (fun e => (s.queueAt e.1 e.2).owner.isNone)
    && (List.range 16).all fun q => !a.clmask.getLsbD q || (s.clusterAt q).clause.owner.isNone
  if a.weight = 0 || decide (255 < a.weight) || decide (save < 24) || decide (65535 < save) || a.pvsize % 4 != 0
      || decide (2 ^ 30 ≤ a.pvsize) || decide (65535 < a.ftcount) then s.failed 1
  else if ids.isEmpty || !free then s.failed 3
  else
    let f := fun (i : Nat) => Config.firmwarePlace (s.fresh + i)
    let id := pick (f 0) 0 ids
    match openRun (f 1) a.chip 0x3F00000 (s.ctxs.map fun e => (e.2.chiplo.toNat, e.2.chiphi.toNat - e.2.chiplo.toNat)),
        openRun (f 2) a.dccnt 262144 (s.ctxs.map fun e => (e.2.dcbase.toNat, e.2.dccnt.toNat)) with
    | some chip, some dc =>
      match ({ s with fresh := s.fresh + 3 }).fwRegion (pvBytes a.pvsize) with
      | none => s.failed 3
      | some (s1, pv) =>
        match s1.fwRegion (32 * a.ftcount) with
        | none => s.failed 3
        | some (s2, ft) =>
          match s2.fwRegion (65536 * save) with
          | none => s.failed 3
          | some (s3, cs) =>
            let base := fun (v : Nat) => BitVec.ofNat 64 (s.domidx.toNat * 2 ^ 48 + v)
            let x := { newCtx c.fn a save with
              pvbase := base pv, ftbase := base ft, csave := base cs, chiplo := BitVec.ofNat 64 chip,
              chiphi := BitVec.ofNat 64 (chip + a.chip), dcbase := BitVec.ofNat 64 dc }
            let zero := s3.fwWrite (pieces (a.ftcount + 2) (base ft).toNat (32 * a.ftcount)) (List.replicate (32 * a.ftcount) 0)
            ((zero.assign id a).setCtx id x).ok (BitVec.ofNat 64 id)
    | _, _ => s.failed 3

/-- The crews of a context: core, number, crew. -/
def State.crewsOf (s : State) (x : Nat) : List (Nat × Nat × Crew) :=
  s.cores.flatMap fun e => (e.2.crews.filter fun w => w.2.task.ctx == x).map fun w => (e.1, w.1, w.2)

/-- CLOSE_CONTEXT steps 1 and 2: admission stops, queued records, bins and saved crews go, resident crews are killed
without records. -/
def State.closeBegin (s : State) (x : Nat) : State :=
  let s1 : State := { s with clusters := s.clusters.map fun e => (e.1, { e.2 with
      bins := e.2.bins.filter fun b => b.2.ctx != x,
      launched := e.2.launched.filter fun t => t.ctx != x,
      queues := e.2.queues.map fun v => (v.1, { v.2 with tasks := v.2.tasks.filter fun t => t.ctx != x }) }) }
  let s2 := s1.modCtx x fun v => { v with closing := true, saved := [] }
  (s2.crewsOf x).foldl (fun s e =>
    (s.killCrew e.1 e.2.1 0 0 0 true).modCrew e.1 e.2.1 fun w => { w with pre := none }) s2

/-- What `Core.last` holds for a page that a context wrote which is closed: no context's number (13_tasks.md R310). -/
def closedCtx : Nat := 2 ^ 16
/-- CLOSE_CONTEXT step 4: the context's resources are released and its label entries invalidated. -/
def State.closeEnd (s : State) (x : Nat) (v : Ctx) : State :=
  let s1 := ((s.fwFree v.pvbase.toNat (pvBytes v.pvsize.toNat)).fwFree v.ftbase.toNat (32 * v.ftcount.toNat)).fwFree
    v.csave.toNat (65536 * v.csavesz.toNat)
  { s1 with
    ctxs := s1.ctxs.drop x,
    clusters := s1.clusters.map fun e => (e.1, { e.2 with
      queues := e.2.queues.map fun q => (q.1, if q.2.owner = some x then ⟨none, []⟩ else q.2),
      clause := if e.2.clause.owner = some x then { e.2.clause with owner := none } else e.2.clause }),
    cores := s1.cores.map fun e => (e.1, { e.2 with
      labels := e.2.labels.filter fun l => l.1 != x,
      last := e.2.last.map fun p => (p.1, if p.2 = x + 1 then closedCtx else p.2) }) }

/-- CLOSE_CONTEXT (R410): waits until no crew of the context is left, whose bands retire once their work is done. -/
def State.runClose (s : State) (x : Nat) (v : Ctx) (j : Job) : State × HostEnd :=
  let s1 : State := if j.stage = 0 then s.closeBegin x else s
  if (s1.crewsOf x).isEmpty then ((s1.closeEnd x v).ok 0) else (s1, .more { j with stage := 1 })

/-! ### Windows, slots, modules, tasks, the log -/

/-- SET_WINDOW (R408, 08_memory.md R180). -/
def State.runWindow (s : State) (x n : Nat) (lo hi : DWord) : State × HostEnd :=
  if 16 ≤ n then s.failed 1
  else (s.modCtx x fun v => { v with vw := (v.vw.put (2 * n) (lo &&& vwMask 0)).put (2 * n + 1) (hi &&& vwMask 1) }).ok 0

/-- SET_FSTAB (R408). -/
def State.runFstab (s : State) (v : Ctx) (i : Nat) (d : List Word) : State × HostEnd :=
  if i = 0 || decide (v.ftcount.toNat < i) || d.length != 8 then s.failed 1
  else (s.fwWrite (pieces 3 (v.ftbase.toNat + 32 * (i - 1)) 32) (d.flatMap fun w => toBytes 4 w.toNat)).ok 0

/-- Marks a module as being replaced, or not (R75). -/
def Ctx.setOld (x : Ctx) (hd : Nat) (old : Bool) : Ctx :=
  { x with modules := x.modules.map fun m => (m.1, if m.1 = hd then { m.2 with old := old } else m.2) }

/-- LOAD_MODULE of a new module, under a handle that firmware chooses; NORES when none is free (DESIGN CHOICE, assumption log
entry 80). -/
def State.loadNew (s : State) (x : Nat) (v : Ctx) (d : List Byte) (z : Zof) : State × HostEnd :=
  let r := Config.firmwarePlace s.fresh
  match ((List.range 0xFFFF).map fun i => (r + i) % 0xFFFF + 1).find? fun k => (v.modules.find k).isNone with
  | none => s.failed 3
  | some k =>
    match ({ s with fresh := s.fresh + 1 }).installModule x k v d z with
    | .error e => s.failed e
    | .ok s2 => s2.ok (BitVec.ofNat 64 k)

/-- LOAD_MODULE that replaces module `hd` (R75): no new task of it is admitted; once no task of it is resident, its cached
label entries go and the new module is installed. A saved crew is not resident: it is not waited for, and runs the new code when
it returns (DESIGN CHOICE, assumption log entry 80). -/
def State.loadOver (s : State) (x hd : Nat) (v : Ctx) (d : List Byte) (z : Zof) (j : Job) : State × HostEnd :=
  let s1 := s.modCtx x fun v => v.setOld hd true
  if (s1.crewsOf x).any fun e => e.2.2.task.mod == hd then (s1, .more { j with stage := 1, part := d })
  else
    let s2 : State := { s1 with cores := s1.cores.map fun e =>
      (e.1, { e.2 with labels := e.2.labels.filter fun l => !(l.1 == x && l.2.1 == hd) }) }
    match s2.installModule x hd v d z with
    | .error e => s2.failed e
    | .ok s3 => s3.ok (BitVec.ofNat 64 hd)

/-- LOAD_MODULE (R73, R75): the file is checked, then verified, at each use anew (R412). A HANDLE that names no module is
BADCMD; a module whose replacement fails is open again (DESIGN CHOICE, assumption log entry 80). -/
def State.runLoad (s : State) (x : Nat) (v : Ctx) (addr len hd : Nat) (j : Job) : State × HostEnd :=
  let d := if j.stage = 0 then s.hostMem.read addr len else j.part
  match parseZof d with
  | none => s.failed 4
  | some z =>
    if 0xFFFF < hd ∨ (hd ≠ 0 ∧ (v.modules.find hd).isNone = true) then s.failed 1
    else
      let (st, cache) := s.fw.verify v.sigreq d z
      let s1 : State := { s with fw := { s.fw with cache := cache } }
      let r := if st ≠ 0 then s1.failed st else if hd = 0 then s1.loadNew x v d z else s1.loadOver x hd v d z j
      match r.2 with
      | .done st _ => if st = 0 then r else (r.1.modCtx x fun v => v.setOld hd false, r.2)
      | .more _ => r

/-- SUBMIT (13_tasks.md R300, R301, R306). -/
def State.runSubmit (s : State) (x : Nat) (v : Ctx) (addr : Nat) (queue : DWord) : State × HostEnd :=
  let d := s.hostMem.read addr 64
  if !queue.getLsbD 8 then s.failed 1
  else match s.queueOf x 0 queue with
    | none => s.failed 1
    | some (q, n) =>
      match s.checkRec v 0 d with
      | none => (s.logRec x ⟨9, 0, 0, 0, 0, 0, 2, 0, 0⟩).failed 10
      | some (m, fs, _) =>
        if 4096 ≤ (s.queueAt q n).tasks.length then s.failed 3
        else
          let id := mix ((BitVec.ofNat 64 x <<< 32) + BitVec.ofNat 64 v.submits)
          ((s.enqueue x v q n m fs id d).modCtx x fun v => { v with submits := v.submits + 1 }).ok (id.setWidth 64)

/-- The 48 bytes of a log record (15_traps.md R367). -/
def LogRec.bytes (r : LogRec) : List Byte :=
  toBytes 1 r.group ++ toBytes 1 r.kind ++ toBytes 2 r.status ++ toBytes 2 r.core ++ toBytes 1 r.slot ++ [0]
    ++ toBytes 8 r.p.toNat ++ toBytes 12 r.detail.toNat ++ [0, 0, 0, 0] ++ toBytes 8 r.word.toNat ++ toBytes 8 r.task.toNat

/-- READ_LOG (R408): CLEARERR leaves DAMAGED. -/
def State.runLog (s : State) (x : Nat) (v : Ctx) (buf most : Nat) (clear clearErr : Bool) : State × HostEnd :=
  let l := v.log.take most
  let s1 := { s with hostMem := s.hostMem.write 32 buf (l.flatMap LogRec.bytes) }
  (s1.modCtx x fun v => { v with
    log := if clear then v.log.drop most else v.log,
    cerr := if clearErr then v.cerr &&& 0x20 else v.cerr }).ok (BitVec.ofNat 64 l.length)

/-! ### CHECKPOINT and RESTORE (R415, 09_engines.md R243) -/

/-- Reads the next piece of `n` bytes at an IA for the job: more bytes in `part`, a request sent, or a failure. -/
def State.jobRead (s : State) (j : Job) (ia n : Nat) : State × Job :=
  let k := pieceLen ia n
  match s.farRead 0 ia k 2 .fw with
  | .ok s1 d => (s1, { j with part := j.part ++ d })
  | .sent s1 dst q => (s1, { j with sent := some (dst, q) })
  | .bad _ _ => (s, { j with failed := true })
  | .hold => (s, j)
/-- Writes the next piece of `part` at an IA. -/
def State.jobWrite (s : State) (j : Job) (ia : Nat) : State × Job :=
  let d := (j.part.drop j.woff).take (pieceLen ia (j.part.length - j.woff))
  match s.farWrite 0 ia 2 d false .fw with
  | .ok s1 _ => (s1, { j with woff := j.woff + d.length })
  | .sent s1 dst q => (s1, { j with sent := some (dst, q) })
  | .bad _ _ => (s, { j with failed := true })
  | .hold => (s, j)

/-- CHECKPOINT step 1: resident crews are saved; a band at TL = 1 holds its crew's save back for at most one hold window
(15_traps.md R364, R378). -/
def State.saveAll (s : State) (x : Nat) (v : Ctx) (since : Nat) : State :=
  (s.crewsOf x).foldl (fun s e =>
    match e.2.2.pre with
    | some (.save _) => s
    | some (.retry _) => s
    | _ =>
      if !e.2.2.gone && (s.allTl0 e.2.2 || decide (since + v.holdWindow ≤ s.cycle)) then
        s.modCrew e.1 e.2.1 fun w => { w with pre := some (.save s.cycle) }
      else s) s

/-- CHECKPOINT step 2: every L1 line of the context's local IAs is written back, then every dirty L2 line of the range
(R243 step 1). -/
def State.cleanFor (s : State) (v : Ctx) (ia len : Nat) : State :=
  let own := fun (line : Nat) =>
    decide (v.pvbase.toNat ≤ line * 128) && decide (line * 128 < v.pvbase.toNat + pvBytes v.pvsize.toNat)
    || (List.range 16).any fun n => (v.vwLo n).getLsbD 0 && decide (v.iabase n ≤ line * 128)
        && decide (line * 128 < v.iabase n + v.vsize n)
  let s1 := s.cores.keys.foldl (fun s c => ((s.coreAt c).l1.keys.filter own).foldl (fun s k => s.l1Back c k) s) s
  (s1.linesIn ia len).foldl (fun s k => s.l2Back k) s1

/-- Whether the next granule of a CHECKPOINT is copied, and its dirty bit's granule (R243 step 3). -/
def State.granuleTake (s : State) (ia : Nat) : Option Nat :=
  match s.walk (localPart ia) with
  | .leaf l => if l.mt = 0 ∧ s.granules.contains (l.pa / 4096) = true then some (l.pa / 4096) else none
  | .bad _ _ => none

/-- One step of CHECKPOINT step 3: a granule begun, its next piece read, its record's next piece written, or the next
granule. -/
def State.ckptStep (s : State) (all : Bool) (ia safe : Nat) (ckid : DWord) (j : Job) : State × Job :=
  let want := if all then 4096 else 4112
  if j.part.isEmpty then
    if all then s.jobRead j (ia + j.cursor) 4096
    else match s.granuleTake (ia + j.cursor) with
      | none => (s, { j with cursor := j.cursor + 4096 })
      | some g =>
        ({ s with granules := s.granules.erase g }, { j with part := toBytes 8 j.cursor ++ toBytes 8 ckid.toNat })
  else if j.part.length < want then
    let got := j.part.length + 4096 - want
    s.jobRead j (ia + j.cursor + got) (4096 - got)
  else if j.woff < want then s.jobWrite j (safe + j.out + j.woff)
  else (s, { j with cursor := j.cursor + 4096, part := [], woff := 0, out := j.out + want, count := j.count + 1 })

/-- CHECKPOINT (R415). A copy that a remote fault ends completes with the COUNT so far (DEDUCED, assumption log entry 44). -/
def State.runCheckpoint (s : State) (x : Nat) (v : Ctx) (all : Bool) (ia len safe : Nat) (ckid : DWord) (j : Job) :
    State × HostEnd :=
  let finish := fun (s : State) (n : Nat) => (s.modCtx x fun v => { v with held := false }).ok (BitVec.ofNat 64 n)
  if j.stage = 0 then
    if !s.localIa ia || ia % 65536 != 0 || len % 65536 != 0 || safe % 16 != 0 || decide (2 ^ 48 < localPart ia + len) then s.failed 1
    else (s.modCtx x fun v => { v with held := true }, .more { j with stage := 1 })
  else if j.stage = 1 then
    let s1 := s.saveAll x v j.since
    if (s1.crewsOf x).isEmpty then (s1.cleanFor v ia len, .more { j with stage := 2 }) else (s1, .more j)
  else if j.sent.isSome then (s, .more j)
  else if j.failed || decide (len ≤ j.cursor) then finish s (if all then j.cursor else j.count)
  else
    let r := s.ckptStep all ia safe ckid j
    (r.1, .more r.2)

/-- Whether a resident crew of the context can reach a range: through a window, or as the PRIV region of one of its bands
(R409, BUSY). -/
def State.reaches (s : State) (x : Nat) (v : Ctx) (ia len : Nat) : Bool :=
  (s.crewsOf x).any fun e => !e.2.2.gone
    && ((List.range 16).any (fun n =>
          (v.vwLo n).getLsbD 0 && decide (v.iabase n < ia + len) && decide (ia < v.iabase n + v.vsize n))
        || (s.bandsOf e.1 e.2.1).any fun b =>
          let a := privIa v.pvbase.toNat v.pvsize.toNat e.1 b.1 0 0
          decide (a < ia + len) && decide (ia < a + 32 * v.pvsize.toNat))

/-- Marks the granule of a local IA dirty (R415 step 3). -/
def State.markDirty (s : State) (ia : Nat) : State :=
  match s.walk (localPart ia) with
  | .leaf l => if l.mt = 0 then { s with granules := addGranule s.granules l.pa } else s
  | .bad _ _ => s

/-- One step of a granule of RESTORE: its bytes read from `src`, then written at `dst`. `skip` is what precedes the data. -/
def State.applyStep (s : State) (j : Job) (src skip : Nat) (dst : Option Nat) : State × Job × Bool :=
  if j.part.length < 4096 + skip then
    let r := s.jobRead j (src + j.part.length) (4096 + skip - j.part.length)
    (r.1, r.2, false)
  else match dst with
    | none => (s, { j with part := [], woff := 0 }, true)
    | some a =>
      if j.woff < 4096 + skip then
        let r := s.jobWrite { j with woff := max j.woff skip } (a + (max j.woff skip - skip))
        (r.1, r.2, false)
      else (s.markDirty a, { j with part := [], woff := 0, count := j.count + 1 }, true)

/-- RESTORE (R415): stage 1 copies the full image, stage 2 + b applies the records of block b (DEDUCED, assumption log entry
44). -/
def State.runRestore (s : State) (x : Nat) (v : Ctx) (safe ia len : Nat) (blocks : List (Nat × Nat)) (j : Job) :
    State × HostEnd :=
  if j.stage = 0 then
    if !s.localIa ia || ia % 65536 != 0 || len % 65536 != 0 || decide (2 ^ 48 < localPart ia + len) then s.failed 1
    else if s.reaches x v ia len then s.failed 12
    else (s, .more { j with stage := 1 })
  else if j.sent.isSome then (s, .more j)
  else if j.failed then s.ok (BitVec.ofNat 64 j.count)
  else if j.stage = 1 then
    if len ≤ j.cursor then (s, .more { j with stage := 2, cursor := 0 })
    else
      let (s1, k, done) := s.applyStep j (safe + j.cursor) 0 (some (ia + j.cursor))
      (s1, .more (if done then { k with cursor := k.cursor + 4096 } else k))
  else match blocks[j.stage - 2]? with
    | none => s.ok (BitVec.ofNat 64 j.count)
    | some (at_, n) =>
      if n ≤ j.cursor then (s, .more { j with stage := j.stage + 1, cursor := 0 })
      else
        let off := recU j.part 0 8
        let dst := if off % 4096 = 0 ∧ off + 4096 ≤ len then some (ia + off) else none
        let (s1, k, done) := s.applyStep j (at_ + 4112 * j.cursor) 16 dst
        (s1, .more (if done then { k with cursor := k.cursor + 1 } else k))

/-! ### The physical function's commands, ATTEST -/

/-- SET_BUDGET (R414): a lower budget pre-empts every resident crew once. -/
def State.runBudget (s : State) (c : HostCmd) (w : Nat) (weight : Option Nat) : State × HostEnd :=
  let go := fun (s : State) =>
    if w < s.budget then
      let s1 := { s with budget := w }
      (s1.cores.flatMap fun e => (e.2.crews.filter fun k => !k.2.gone).map fun k => (e.1, k.1)).foldl
        (fun s e => s.preempt e.1 e.2) s1
    else { s with budget := w }
  if w < 1200 ∨ 2000 < w then s.failed 1
  else match weight with
    | none => (go s).ok 0
    | some n =>
      s.onCtx c false fun x _ =>
        if n = 0 ∨ 255 < n then s.failed 1 else (go (s.modCtx x fun v => { v with weight := n })).ok 0

/-- PMAP as 64 entries of 3 bits, entry 0 lowest. -/
def Fabric.pmapBytes (f : Fabric) : List Byte :=
  toBytes 24 ((List.range 64).foldl (fun a e => a + f.pmap.getD e 0 % 8 * 8 ^ e) 0)

/-- PLANE_STATUS (14_fabric.md R329, R337): a return names retired planes, and waits for a rehash under way. -/
def State.runPlanes (s : State) (ret : Bool) (mask : BitVec 8) (buf : Nat) (j : Job) : State × HostEnd :=
  let s1 := { s with hostMem := s.hostMem.write 32 buf s.fab.pmapBytes }
  if !ret then s1.ok s.fab.pstat
  else if mask = 0 ∨ mask &&& s.fab.dead ≠ mask then s.failed 1
  else if s.fab.rehash.isSome then (s, .more { j with stage := 1 })
  else
    let s2 := s1.learn mask
    s2.ok s2.fab.pstat

/-- ATTEST (R413). -/
def State.runAttest (s : State) (buf : Nat) (nonce : List Byte) : State × HostEnd :=
  if nonce.length ≠ 32 then s.failed 1
  else
    let r := Config.attestReport (s.fw.measures.flatten ++ toBytes 2 s.fw.fwsvn.toNat ++ toBytes 4 s.fw.modsvn
      ++ toBytes 8 s.devid.toNat ++ nonce)
    ({ s with hostMem := s.hostMem.write 32 buf r }).ok (BitVec.ofNat 64 r.length)

/-- SET_INWIN (14_fabric.md R339). -/
def State.runInwin (s : State) (n : Nat) (lo hi : DWord) : State × HostEnd :=
  if 32 ≤ n then s.failed 1
  else (s.modFab fun f => { f with
    inwin := (f.inwin.put (2 * n) (lo &&& 0xFFFFFFFF00FFFF0F#64)).put (2 * n + 1) (hi &&& 0xFFFFFFFF#64) }).ok 0

/-- Every cached line is written back and discarded: its number holds the device's index. -/
def State.expelAll (s : State) : State :=
  (s.l2.keys ++ s.cores.flatMap fun e => e.2.l1.keys).eraseDups.foldl (fun s k => s.expel k) s

/-- The plane state at domain join (14_fabric.md R329). -/
def Fabric.joined (f : Fabric) : Fabric :=
  { f with pmap := Fabric.reset.pmap, pgen := 0, live := 0xFF, dead := 0, rhb := false, rehash := none, rhacks := [], early := [] }

/-- MEMBER_REPORT (R408, 14_fabric.md R327, R341). The first JOIN, or one that names this device, writes DEVID.DOMIDX and
the device's own EPOCH, and is this device's join of the domain: the plane state takes its first values, and a plane whose link
is down is retired anew (R329, R335; DEDUCED, assumption log entry 45). -/
def State.runMember (s : State) (join : Bool) (d : Nat) (epoch : BitVec 16) : State × HostEnd :=
  if 255 < d then s.failed 1
  else if join then
    let own := s.fab.members.isEmpty || d == s.domidx.toNat
    let s1 := if own && d != s.domidx.toNat then { s.expelAll with domidx := BitVec.ofNat 8 d } else s
    let s2 := s1.modFab fun f => { (if own then f.joined else f) with
      members := f.members.put d ⟨true, epoch⟩, epoch := if own then epoch else f.epoch }
    (if own then s2.relook else s2).ok 0
  else ((s.memberOff d).afterEnd).ok 0

/-! ### The commands -/

/-- OPEN_CONTEXT (R408). -/
def execOpenContext (c : HostCmd) (a : OpenArgs) (s : State) : Host.Outcome State Fault Refusal :=
  .next (s.hostCmd (.openContext c a) 1 c fun s _ => s.runOpen c a)
/-- CLOSE_CONTEXT (R410). -/
def execCloseContext (c : HostCmd) (s : State) : Host.Outcome State Fault Refusal :=
  .next (s.hostCmd (.closeContext c) 2 c fun s j => s.onCtx c true fun x v => s.runClose x v j)
/-- MAP (R408). -/
def execMapRange (c : HostCmd) (a : MapArgs) (s : State) : Host.Outcome State Fault Refusal :=
  .next (s.hostCmd (.mapRange c a) 3 c fun s _ => s.onCtx c false fun _ _ => s.runMap a)
/-- UNMAP (R411). -/
def execUnmapRange (c : HostCmd) (ia len : Nat) (s : State) : Host.Outcome State Fault Refusal :=
  .next (s.hostCmd (.unmapRange c ia len) 4 c fun s _ => s.onCtx c false fun _ _ => s.runUnmap ia len)
/-- SET_WINDOW (R408). -/
def execSetWindow (c : HostCmd) (n : Nat) (lo hi : DWord) (s : State) : Host.Outcome State Fault Refusal :=
  .next (s.hostCmd (.setWindow c n lo hi) 5 c fun s _ => s.onCtx c false fun x _ => s.runWindow x n lo hi)
/-- SET_FSTAB (R408). -/
def execSetFstab (c : HostCmd) (i : Nat) (d : List Word) (s : State) : Host.Outcome State Fault Refusal :=
  .next (s.hostCmd (.setFstab c i d) 6 c fun s _ => s.onCtx c false fun _ v => s.runFstab v i d)
/-- LOAD_MODULE (R73, R75). -/
def execLoadModule (c : HostCmd) (addr len handle : Nat) (s : State) : Host.Outcome State Fault Refusal :=
  .next (s.hostCmd (.loadModule c addr len handle) 7 c fun s j => s.onCtx c false fun x v => s.runLoad x v addr len handle j)
/-- SUBMIT (R306). -/
def execSubmit (c : HostCmd) (addr : Nat) (queue : DWord) (s : State) : Host.Outcome State Fault Refusal :=
  .next (s.hostCmd (.submit c addr queue) 8 c fun s _ => s.onCtx c false fun x v => s.runSubmit x v addr queue)
/-- READ_LOG (R408). -/
def execReadLog (c : HostCmd) (buf most : Nat) (clear clearErr : Bool) (s : State) : Host.Outcome State Fault Refusal :=
  .next (s.hostCmd (.readLog c buf most clear clearErr) 9 c fun s _ =>
    s.onCtx c true fun x v => s.runLog x v buf most clear clearErr)
/-- CHECKPOINT (R415). -/
def execCheckpoint (c : HostCmd) (all : Bool) (ia len safe : Nat) (ckid : DWord) (s : State) :
    Host.Outcome State Fault Refusal :=
  .next (s.hostCmd (.checkpoint c all ia len safe ckid) 10 c fun s j =>
    s.onCtx c false fun x v => s.runCheckpoint x v all ia len safe ckid j)
/-- RESTORE (R415). -/
def execRestoreImage (c : HostCmd) (safe ia len : Nat) (blocks : List (Nat × Nat)) (s : State) :
    Host.Outcome State Fault Refusal :=
  .next (s.hostCmd (.restoreImage c safe ia len blocks) 11 c fun s j =>
    s.onCtx c false fun x v => s.runRestore x v safe ia len blocks j)
/-- SET_BUDGET (R414). -/
def execSetBudget (c : HostCmd) (watts : Nat) (weight : Option Nat) (s : State) : Host.Outcome State Fault Refusal :=
  .next (s.hostCmd (.setBudget c watts weight) 12 c fun s _ => s.pfOnly c (s.runBudget c watts weight))
/-- PLANE_STATUS (14_fabric.md R337). -/
def execPlaneStatus (c : HostCmd) (ret : Bool) (mask : BitVec 8) (buf : Nat) (s : State) : Host.Outcome State Fault Refusal :=
  .next (s.hostCmd (.planeStatus c ret mask buf) 13 c fun s j => s.pfOnly c (s.runPlanes ret mask buf j))
/-- ATTEST (R413). -/
def execAttest (c : HostCmd) (buf : Nat) (nonce : List Byte) (s : State) : Host.Outcome State Fault Refusal :=
  .next (s.hostCmd (.attest c buf nonce) 14 c fun s _ => s.runAttest buf nonce)
/-- SET_INWIN (14_fabric.md R339). -/
def execSetInwin (c : HostCmd) (n : Nat) (lo hi : DWord) (s : State) : Host.Outcome State Fault Refusal :=
  .next (s.hostCmd (.setInwin c n lo hi) 15 c fun s _ => s.pfOnly c (s.runInwin n lo hi))
/-- MEMBER_REPORT (R408). -/
def execMemberReport (c : HostCmd) (join : Bool) (domidx : Nat) (epoch : BitVec 16) (s : State) :
    Host.Outcome State Fault Refusal :=
  .next (s.hostCmd (.memberReport c join domidx epoch) 16 c fun s _ => s.pfOnly c (s.runMember join domidx epoch))

/-! ### Boot, SPDM, clause arrays -/

/-- The stages in turn: each is measured before it runs, and must verify (R412). -/
def bootStages : Nat → Firmware → List (List Byte) → Firmware
  | _, f, [] => { f with ready := true }
  | i, f, d :: t =>
    let g := { f with measures := f.measures.set i (Config.sha384 d) }
    if Config.stageVerifies d then
      bootStages (i + 1) { g with fwsvn := BitVec.ofNat 16 (max g.fwsvn.toNat (Config.stageSvn d).1),
                                  modsvn := max g.modsvn (Config.stageSvn d).2 } t
    else g

/-- BOOT: the boot ROM measures and verifies the firmware stages; firmware then accepts commands (R412, R404). A boot of
another firmware image, while no command is under way, raises the counters as its manifest says, and leaves the rest of the
device as it stands (R412: 'A firmware update then raises MODSVN'; DEDUCED, assumption log entry 82). -/
def execBoot (stages : List (List Byte)) (s : State) : Host.Outcome State Fault Refusal :=
  if s.fw.job.isSome || stages.isEmpty || decide (8 < stages.length) then .next s
  else .next { s with fw := bootStages 0 s.fw stages }

/-- SPDM_REQUEST: codes 0 to 6 are the seven requests of R413 in its order; another is not answered. -/
def execSpdmRequest (code : Nat) (body : List Byte) (s : State) : Host.Outcome State Fault Refusal :=
  if 6 < code then .next s
  else .next (s.send (.spdm (Config.spdmAnswer code s.fw.measures.flatten body)))

/-- TAKE_CLAUSE_ARRAY: once every accepted instruction is complete, firmware writes the array's state to the save area of
the context that owned it, and pre-empts that context's crews on the cluster (12_clause.md R278). -/
def execTakeClauseArray (cluster : Nat) (s : State) : Host.Outcome State Fault Refusal :=
  let a := (s.clusterAt cluster).clause
  match a.owner with
  | none => .next s
  | some x =>
    if a.queue.any (·.accepted) then .next s
    else
      let s1 := (s.modCtx x fun v => { v with arrays := v.arrays.put cluster a.st }).modCl cluster fun a =>
        { a with owner := none, st := ClState.reset }
      .next (((s1.crewsOf x).filter fun e => clusterOf e.1 == cluster).foldl (fun s e => s.preempt e.1 e.2.1) s1)

end Sys2Proof.Machine
end

