-- ==== Sys2Proof/Machine/Scalar.lean ====
section
/-! DEFINITION. The scalar instructions 0x60 to 0x6F and the predicate instructions 0x70 to 0x75 (05_integer.md R137 to
R140). -/

namespace Sys2Proof.Machine

/-- A scalar instruction: S[SD] takes a function of S[SA], B and the old S[SD]. -/
def State.scalarOp (s : State) (f : FS) (op : DWord → DWord → DWord → DWord) : Host.Outcome State Fault Refusal :=
  s.bandOp f.g fun h => h.retire s (h.band.setS f.sd.toNat
    (op (h.band.sreg f.sa.toNat) (h.band.srcS f) (h.band.sreg f.sd.toNat)))

/-- SADD (R137). -/
def execSadd (f : FS) (s : State) : Host.Outcome State Fault Refusal := s.scalarOp f fun a b _ => a + b
/-- SSUB (R137). -/
def execSsub (f : FS) (s : State) : Host.Outcome State Fault Refusal := s.scalarOp f fun a b _ => a - b
/-- SMUL (R137). -/
def execSmul (f : FS) (s : State) : Host.Outcome State Fault Refusal := s.scalarOp f fun a b _ => a * b
/-- SAND (R137). -/
def execSand (f : FS) (s : State) : Host.Outcome State Fault Refusal := s.scalarOp f fun a b _ => a &&& b
/-- SOR (R137). -/
def execSor (f : FS) (s : State) : Host.Outcome State Fault Refusal := s.scalarOp f fun a b _ => a ||| b
/-- SXOR (R137). -/
def execSxor (f : FS) (s : State) : Host.Outcome State Fault Refusal := s.scalarOp f fun a b _ => a ^^^ b
/-- SSHL (R137): 0 when B is 64 or more. -/
def execSshl (f : FS) (s : State) : Host.Outcome State Fault Refusal :=
  s.scalarOp f fun a b _ => if 64 ≤ b.toNat then 0 else a <<< b.toNat
/-- SSHR (R137): logical, or arithmetic with SUB 1. -/
def execSshr (f : FS) (s : State) : Host.Outcome State Fault Refusal :=
  s.scalarOp f fun a b _ =>
    if f.sub = 1 then a.sshiftRight (min b.toNat 64)
    else if 64 ≤ b.toNat then 0 else a >>> b.toNat
/-- SMOV (R137). -/
def execSmov (f : FS) (s : State) : Host.Outcome State Fault Refusal := s.scalarOp f fun _ b _ => b
/-- SCMP (R137): SUB[2:0] compares, SUB[3] unsigned. -/
def execScmp (f : FS) (s : State) : Host.Outcome State Fault Refusal :=
  s.scalarOp f fun a b _ =>
    if (if f.sub.getLsbD 3 then cmpInt (f.sub.toNat % 8) a.toNat b.toNat else cmpInt (f.sub.toNat % 8) a.toInt b.toInt)
    then 1 else 0
/-- SSEL (R137): S[SA] when the old S[SD] is not 0, else B. -/
def execSsel (f : FS) (s : State) : Host.Outcome State Fault Refusal := s.scalarOp f fun a b d => if d ≠ 0 then a else b
/-- SMIN (R137): SUB[0] unsigned. -/
def execSmin (f : FS) (s : State) : Host.Outcome State Fault Refusal :=
  s.scalarOp f fun a b _ =>
    if f.sub.getLsbD 0 then (if a.toNat ≤ b.toNat then a else b) else (if a.toInt ≤ b.toInt then a else b)
/-- SMAX (R137): SUB[0] unsigned. -/
def execSmax (f : FS) (s : State) : Host.Outcome State Fault Refusal :=
  s.scalarOp f fun a b _ =>
    if f.sub.getLsbD 0 then (if a.toNat ≤ b.toNat then b else a) else (if a.toInt ≤ b.toInt then b else a)
/-- SMOVI (R137). -/
def execSmovi (f : FS) (s : State) : Host.Outcome State Fault Refusal := s.scalarOp f fun _ _ _ => f.imm.signExtend 64
/-- SMOVH (R137): chunk k of S[SD] takes the immediate, other bits kept. -/
def execSmovh (f : FS) (s : State) : Host.Outcome State Fault Refusal :=
  s.scalarOp f fun _ _ d =>
    let k := f.sub.toNat
    if k = 2 then (d &&& BitVec.ofNat 64 (2 ^ 46 - 1)) ||| ((f.imm.extractLsb' 0 18).setWidth 64 <<< 46)
    else (d &&& ~~~(BitVec.ofNat 64 (2 ^ 23 - 1) <<< (23 * k))) ||| (f.imm.setWidth 64 <<< (23 * k))

/-- SRDL (R138): one lane's vector register; SUB 0 the lane of S[SB][4:0], SUB 1 Leader. -/
def execSrdl (f : FS) (s : State) : Host.Outcome State Fault Refusal :=
  s.bandOp f.g fun h =>
    let l := if f.sub = 1 then h.band.leader else (h.band.sreg f.sb.toNat).toNat % 32
    h.retire s (h.band.setS f.sd.toNat ((h.band.v32 l (f.imm.toNat % 128)).setWidth 64))

/-! ### Predicates (R140) -/

/-- PLOP (R140): the truth table in SUB[3:0]. -/
def execPlop (f : FV) (s : State) : Host.Outcome State Fault Refusal :=
  s.laneOp f.g .clone fun h m => h.band.setPred f.vd.toNat m (maskOf fun l =>
    f.sub.getLsbD (2 * (if (h.band.pred f.va.toNat).getLsbD l then 1 else 0)
      + (if (h.band.pred f.vb.toNat).getLsbD l then 1 else 0)))
/-- PSET (R140). -/
def execPset (f : FI) (s : State) : Host.Outcome State Fault Refusal :=
  s.laneOp f.g .clone fun h m => h.band.setPred f.vd.toNat m f.imm
/-- PTOV (R140). -/
def execPtov (f : FV) (s : State) : Host.Outcome State Fault Refusal :=
  s.laneOp f.g .clone fun h m => h.band.setV f.vd.toNat m fun l =>
    if (h.band.pred f.va.toNat).getLsbD l then 1 else 0
/-- VTOP (R140). -/
def execVtop (f : FV) (s : State) : Host.Outcome State Fault Refusal :=
  s.laneOp f.g .clone fun h m => h.band.setPred f.vd.toNat m (maskOf fun l => h.band.v32 l f.va.toNat != 0)
/-- SPRD (R140). -/
def execSprd (f : FV) (s : State) : Host.Outcome State Fault Refusal :=
  s.laneOp f.g .clone fun h m => h.band.setPred f.vd.toNat m ((h.band.sreg (f.vb.toNat % 64)).extractLsb' 0 32)

end Sys2Proof.Machine
end

