-- ==== Sys2Proof/Machine/Dispatch.lean ====
section
/-! DEFINITION. The dispatch: one arm per row of the opcode table, each one call of that row's meaning. -/

namespace Sys2Proof.Machine

open Sys2Proof

def exec (i : Instr) (s : State) : Host.Outcome State Fault Refusal :=
  match i with
  | .nop f => Sys2Proof.Machine.execNop f s
  | .lbl f => Sys2Proof.Machine.execLbl f s
  | .go f => Sys2Proof.Machine.execGo f s
  | .goi f => Sys2Proof.Machine.execGoi f s
  | .call f => Sys2Proof.Machine.execCall f s
  | .calli f => Sys2Proof.Machine.execCalli f s
  | .ret f => Sys2Proof.Machine.execRet f s
  | .exit f => Sys2Proof.Machine.execExit f s
  | .yieldBand f => Sys2Proof.Machine.execYieldBand f s
  | .lblid f => Sys2Proof.Machine.execLblid f s
  | .swcnt f => Sys2Proof.Machine.execSwcnt f s
  | .cens f => Sys2Proof.Machine.execCens f s
  | .iadd f => Sys2Proof.Machine.execIadd f s
  | .isub f => Sys2Proof.Machine.execIsub f s
  | .imul f => Sys2Proof.Machine.execImul f s
  | .imulh f => Sys2Proof.Machine.execImulh f s
  | .imad f => Sys2Proof.Machine.execImad f s
  | .imadw f => Sys2Proof.Machine.execImadw f s
  | .imin f => Sys2Proof.Machine.execImin f s
  | .imax f => Sys2Proof.Machine.execImax f s
  | .iabs f => Sys2Proof.Machine.execIabs f s
  | .ineg f => Sys2Proof.Machine.execIneg f s
  | .iaddc f => Sys2Proof.Machine.execIaddc f s
  | .icmp f => Sys2Proof.Machine.execIcmp f s
  | .isel f => Sys2Proof.Machine.execIsel f s
  | .lea f => Sys2Proof.Machine.execLea f s
  | .isad f => Sys2Proof.Machine.execIsad f s
  | .mov f => Sys2Proof.Machine.execMov f s
  | .vand f => Sys2Proof.Machine.execVand f s
  | .vor f => Sys2Proof.Machine.execVor f s
  | .vxor f => Sys2Proof.Machine.execVxor f s
  | .vnot f => Sys2Proof.Machine.execVnot f s
  | .shl f => Sys2Proof.Machine.execShl f s
  | .shr f => Sys2Proof.Machine.execShr f s
  | .sar f => Sys2Proof.Machine.execSar f s
  | .rot f => Sys2Proof.Machine.execRot f s
  | .bfe f => Sys2Proof.Machine.execBfe f s
  | .bfi f => Sys2Proof.Machine.execBfi f s
  | .popc f => Sys2Proof.Machine.execPopc f s
  | .clz f => Sys2Proof.Machine.execClz f s
  | .brev f => Sys2Proof.Machine.execBrev f s
  | .prmb f => Sys2Proof.Machine.execPrmb f s
  | .movi f => Sys2Proof.Machine.execMovi f s
  | .iaddi f => Sys2Proof.Machine.execIaddi f s
  | .fadd f => Sys2Proof.Machine.execFadd f s
  | .fmul f => Sys2Proof.Machine.execFmul f s
  | .ffma f => Sys2Proof.Machine.execFfma f s
  | .fmin f => Sys2Proof.Machine.execFmin f s
  | .fmax f => Sys2Proof.Machine.execFmax f s
  | .fcmp f => Sys2Proof.Machine.execFcmp f s
  | .fsfu f => Sys2Proof.Machine.execFsfu f s
  | .frnd f => Sys2Proof.Machine.execFrnd f s
  | .fclass f => Sys2Proof.Machine.execFclass f s
  | .fdiv f => Sys2Proof.Machine.execFdiv f s
  | .cvt f => Sys2Proof.Machine.execCvt f s
  | .qnt f => Sys2Proof.Machine.execQnt f s
  | .dqnt f => Sys2Proof.Machine.execDqnt f s
  | .amax f => Sys2Proof.Machine.execAmax f s
  | .pkt5 f => Sys2Proof.Machine.execPkt5 f s
  | .upkt5 f => Sys2Proof.Machine.execUpkt5 f s
  | .shfl f => Sys2Proof.Machine.execShfl f s
  | .scan f => Sys2Proof.Machine.execScan f s
  | .rdc f => Sys2Proof.Machine.execRdc f s
  | .cmpct f => Sys2Proof.Machine.execCmpct f s
  | .vote f => Sys2Proof.Machine.execVote f s
  | .sadd f => Sys2Proof.Machine.execSadd f s
  | .ssub f => Sys2Proof.Machine.execSsub f s
  | .smul f => Sys2Proof.Machine.execSmul f s
  | .sand f => Sys2Proof.Machine.execSand f s
  | .sor f => Sys2Proof.Machine.execSor f s
  | .sxor f => Sys2Proof.Machine.execSxor f s
  | .sshl f => Sys2Proof.Machine.execSshl f s
  | .sshr f => Sys2Proof.Machine.execSshr f s
  | .smov f => Sys2Proof.Machine.execSmov f s
  | .scmp f => Sys2Proof.Machine.execScmp f s
  | .ssel f => Sys2Proof.Machine.execSsel f s
  | .srdl f => Sys2Proof.Machine.execSrdl f s
  | .smin f => Sys2Proof.Machine.execSmin f s
  | .smax f => Sys2Proof.Machine.execSmax f s
  | .smovi f => Sys2Proof.Machine.execSmovi f s
  | .smovh f => Sys2Proof.Machine.execSmovh f s
  | .plop f => Sys2Proof.Machine.execPlop f s
  | .pset f => Sys2Proof.Machine.execPset f s
  | .ptov f => Sys2Proof.Machine.execPtov f s
  | .vtop f => Sys2Proof.Machine.execVtop f s
  | .pcnt f => Sys2Proof.Machine.execPcnt f s
  | .sprd f => Sys2Proof.Machine.execSprd f s
  | .ld f => Sys2Proof.Machine.execLd f s
  | .st f => Sys2Proof.Machine.execSt f s
  | .lds f => Sys2Proof.Machine.execLds f s
  | .sts f => Sys2Proof.Machine.execSts f s
  | .pref f => Sys2Proof.Machine.execPref f s
  | .cctl f => Sys2Proof.Machine.execCctl f s
  | .fence f => Sys2Proof.Machine.execFence f s
  | .fencex f => Sys2Proof.Machine.execFencex f s
  | .waitc f => Sys2Proof.Machine.execWaitc f s
  | .ldtr f => Sys2Proof.Machine.execLdtr f s
  | .atom f => Sys2Proof.Machine.execAtom f s
  | .acas f => Sys2Proof.Machine.execAcas f s
  | .atoms f => Sys2Proof.Machine.execAtoms f s
  | .red f => Sys2Proof.Machine.execRed f s
  | .cpyLin f => Sys2Proof.Machine.execCpyLin f s
  | .cpy2d f => Sys2Proof.Machine.execCpy2d f s
  | .cpyRowg f => Sys2Proof.Machine.execCpyRowg f s
  | .cpyRows f => Sys2Proof.Machine.execCpyRows f s
  | .cpyMrow f => Sys2Proof.Machine.execCpyMrow f s
  | .cpyFill f => Sys2Proof.Machine.execCpyFill f s
  | .cpyZc f => Sys2Proof.Machine.execCpyZc f s
  | .cpyZd f => Sys2Proof.Machine.execCpyZd f s
  | .collAr f => Sys2Proof.Machine.execCollAr f s
  | .collRs f => Sys2Proof.Machine.execCollRs f s
  | .collAg f => Sys2Proof.Machine.execCollAg f s
  | .collBc f => Sys2Proof.Machine.execCollBc f s
  | .ckpt f => Sys2Proof.Machine.execCkpt f s
  | .binit f => Sys2Proof.Machine.execBinit f s
  | .barv f => Sys2Proof.Machine.execBarv f s
  | .bwait f => Sys2Proof.Machine.execBwait f s
  | .bexp f => Sys2Proof.Machine.execBexp f s
  | .btest f => Sys2Proof.Machine.execBtest f s
  | .mldb f => Sys2Proof.Machine.execMldb f s
  | .mbank f => Sys2Proof.Machine.execMbank f s
  | .mma f => Sys2Proof.Machine.execMma f s
  | .mmag f => Sys2Proof.Machine.execMmag f s
  | .macz f => Sys2Proof.Machine.execMacz f s
  | .macr f => Sys2Proof.Machine.execMacr f s
  | .macv f => Sys2Proof.Machine.execMacv f s
  | .clcfg f => Sys2Proof.Machine.execClcfg f s
  | .clld f => Sys2Proof.Machine.execClld f s
  | .clst f => Sys2Proof.Machine.execClst f s
  | .clinf f => Sys2Proof.Machine.execClinf f s
  | .clvote f => Sys2Proof.Machine.execClvote f s
  | .clfb f => Sys2Proof.Machine.execClfb f s
  | .cltab f => Sys2Proof.Machine.execCltab f s
  | .clseed f => Sys2Proof.Machine.execClseed f s
  | .clfnc f => Sys2Proof.Machine.execClfnc f s
  | .clcnt f => Sys2Proof.Machine.execClcnt f s
  | .spawn f => Sys2Proof.Machine.execSpawn f s
  | .tqenq f => Sys2Proof.Machine.execTqenq f s
  | .tqdeq f => Sys2Proof.Machine.execTqdeq f s
  | .dcinit f => Sys2Proof.Machine.execDcinit f s
  | .dcdec f => Sys2Proof.Machine.execDcdec f s
  | .dcadd f => Sys2Proof.Machine.execDcadd f s
  | .binfl f => Sys2Proof.Machine.execBinfl f s
  | .targ f => Sys2Proof.Machine.execTarg f s
  | .tid f => Sys2Proof.Machine.execTid f s
  | .prog f => Sys2Proof.Machine.execProg f s
  | .trapf f => Sys2Proof.Machine.execTrapf f s
  | .trap f => Sys2Proof.Machine.execTrap f s
  | .rte f => Sys2Proof.Machine.execRte f s
  | .sysrd f => Sys2Proof.Machine.execSysrd f s
  | .syswr f => Sys2Proof.Machine.execSyswr f s
  | .flagc f => Sys2Proof.Machine.execFlagc f s
  | .bkill f => Sys2Proof.Machine.execBkill f s
  | .hprio w => Sys2Proof.Machine.execHprio w s
  | .hreuse w => Sys2Proof.Machine.execHreuse w s
  | .hintNop w => Sys2Proof.Machine.execHintNop w s
  | .idot4 w => Sys2Proof.Machine.execIdot4 w s
  | .emulateTrap w => Sys2Proof.Machine.execEmulateTrap w s
  | .illenc w => Sys2Proof.Machine.execIllenc w s
  | .skip => Sys2Proof.Machine.execSkip s
  | .labelCacheFill core ctx handle lid => Sys2Proof.Machine.execLabelCacheFill core ctx handle lid s
  | .bandRetire core slot => Sys2Proof.Machine.execBandRetire core slot s
  | .memOpComplete core slot op lanes => Sys2Proof.Machine.execMemOpComplete core slot op lanes s
  | .memFaultResponse core slot op lanes => Sys2Proof.Machine.execMemFaultResponse core slot op lanes s
  | .pinExpiry core line => Sys2Proof.Machine.execPinExpiry core line s
  | .collectorWindow core => Sys2Proof.Machine.execCollectorWindow core s
  | .engAccept core => Sys2Proof.Machine.execEngAccept core s
  | .engWritePerformed core cmd n => Sys2Proof.Machine.execEngWritePerformed core cmd n s
  | .engComplete core cmd => Sys2Proof.Machine.execEngComplete core cmd s
  | .teamAbort team aux => Sys2Proof.Machine.execTeamAbort team aux s
  | .collMessage m => Sys2Proof.Machine.execCollMessage m s
  | .collTimeout core cmd => Sys2Proof.Machine.execCollTimeout core cmd s
  | .mxAccept core => Sys2Proof.Machine.execMxAccept core s
  | .mxComplete core => Sys2Proof.Machine.execMxComplete core s
  | .cimScrub core bank mac col => Sys2Proof.Machine.execCimScrub core bank mac col s
  | .clAccept cluster core => Sys2Proof.Machine.execClAccept cluster core s
  | .clComplete cluster => Sys2Proof.Machine.execClComplete cluster s
  | .binTimer cluster bin => Sys2Proof.Machine.execBinTimer cluster bin s
  | .admitCrew core => Sys2Proof.Machine.execAdmitCrew core s
  | .gangAdmit core => Sys2Proof.Machine.execGangAdmit core s
  | .preemptWait core => Sys2Proof.Machine.execPreemptWait core s
  | .drainRechoice core crew => Sys2Proof.Machine.execDrainRechoice core crew s
  | .flushRestart core crew => Sys2Proof.Machine.execFlushRestart core crew s
  | .crewSave core crew => Sys2Proof.Machine.execCrewSave core crew s
  | .crewRestore core ctx saved => Sys2Proof.Machine.execCrewRestore core ctx saved s
  | .preemptHoldExpiry core crew => Sys2Proof.Machine.execPreemptHoldExpiry core crew s
  | .saveRetry core crew => Sys2Proof.Machine.execSaveRetry core crew s
  | .saveAborted core crew => Sys2Proof.Machine.execSaveAborted core crew s
  | .watchdog core crew => Sys2Proof.Machine.execWatchdog core crew s
  | .trapBackoff core slot => Sys2Proof.Machine.execTrapBackoff core slot s
  | .sampleCheck core slot mismatch => Sys2Proof.Machine.execSampleCheck core slot mismatch s
  | .fetchFault core slot => Sys2Proof.Machine.execFetchFault core slot s
  | .pageServiced ia leaf => Sys2Proof.Machine.execPageServiced ia leaf s
  | .patrolScrub sector => Sys2Proof.Machine.execPatrolScrub sector s
  | .linkFailure plane => Sys2Proof.Machine.execLinkFailure plane s
  | .flitResend plane good => Sys2Proof.Machine.execFlitResend plane good s
  | .remoteRequest r => Sys2Proof.Machine.execRemoteRequest r s
  | .remoteAck dst q r => Sys2Proof.Machine.execRemoteAck dst q r s
  | .remoteTimeout dst q => Sys2Proof.Machine.execRemoteTimeout dst q s
  | .rehash gen mask => Sys2Proof.Machine.execRehash gen mask s
  | .rhack src gen mask => Sys2Proof.Machine.execRhack src gen mask s
  | .commit gen => Sys2Proof.Machine.execCommit gen s
  | .rhtmoExpiry => Sys2Proof.Machine.execRhtmoExpiry s
  | .memberDown domidx => Sys2Proof.Machine.execMemberDown domidx s
  | .boot stages => Sys2Proof.Machine.execBoot stages s
  | .rtail fn v => Sys2Proof.Machine.execRtail fn v s
  | .ren fn log en => Sys2Proof.Machine.execRen fn log en s
  | .cen fn log en => Sys2Proof.Machine.execCen fn log en s
  | .chead fn v => Sys2Proof.Machine.execChead fn v s
  | .bar0Write fn off v => Sys2Proof.Machine.execBar0Write fn off v s
  | .openContext c a => Sys2Proof.Machine.execOpenContext c a s
  | .closeContext c => Sys2Proof.Machine.execCloseContext c s
  | .mapRange c a => Sys2Proof.Machine.execMapRange c a s
  | .unmapRange c ia len => Sys2Proof.Machine.execUnmapRange c ia len s
  | .setWindow c n lo hi => Sys2Proof.Machine.execSetWindow c n lo hi s
  | .setFstab c n descs => Sys2Proof.Machine.execSetFstab c n descs s
  | .loadModule c addr len handle => Sys2Proof.Machine.execLoadModule c addr len handle s
  | .submit c addr queue => Sys2Proof.Machine.execSubmit c addr queue s
  | .readLog c buf most clear clearErr => Sys2Proof.Machine.execReadLog c buf most clear clearErr s
  | .checkpoint c all ia len safe ckid => Sys2Proof.Machine.execCheckpoint c all ia len safe ckid s
  | .restoreImage c safe ia len blocks => Sys2Proof.Machine.execRestoreImage c safe ia len blocks s
  | .setBudget c watts weight => Sys2Proof.Machine.execSetBudget c watts weight s
  | .planeStatus c ret mask buf => Sys2Proof.Machine.execPlaneStatus c ret mask buf s
  | .attest c buf nonce => Sys2Proof.Machine.execAttest c buf nonce s
  | .setInwin c n lo hi => Sys2Proof.Machine.execSetInwin c n lo hi s
  | .memberReport c join domidx epoch => Sys2Proof.Machine.execMemberReport c join domidx epoch s
  | .spdmRequest code body => Sys2Proof.Machine.execSpdmRequest code body s
  | .takeClauseArray cluster => Sys2Proof.Machine.execTakeClauseArray cluster s

end Sys2Proof.Machine
end

