-- ==== Sys2Proof/Machine/Issue.lean ====
section
/-! DEFINITION. How a band's next word issues: the turn, the fetch, the interlocks of 05_integer.md R112, the stop points
of 08_memory.md R188, and the order of what is due at a boundary (15_traps.md R348); the moves that are not words; and the
machine's choice when the agenda names none. -/

namespace Sys2Proof.Machine

/-! ### The registers a word names (05_integer.md R112) -/

/-- Vector and scalar registers that a word reads or writes; `all` for RTE, which writes them all. -/
structure Use where
  v   : List Nat
  s   : List Nat
  all : Bool
  deriving DecidableEq, Repr

def Use.none : Use := ⟨[], [], false⟩
def Use.add (a b : Use) : Use := ⟨a.v ++ b.v, a.s ++ b.s, a.all || b.all⟩
def Use.vs (l : List Nat) : Use := ⟨l, [], false⟩
def Use.ss (l : List Nat) : Use := ⟨[], l, false⟩

/-- A register, or a pair at the 64-bit kinds. -/
def vGroup (ty : BitVec 4) (r : BitVec 7) : List Nat := if tyPair ty.toNat then [r.toNat, r.toNat + 1] else [r.toNat]
/-- A register and the next. -/
def vPair (r : BitVec 7) : List Nat := [r.toNat, r.toNat + 1]
/-- The group of an access width. -/
def vData (w : BitVec 3) (r : BitVec 7) : List Nat := (List.range (max 1 (widthBytes w / 4))).map (· + r.toNat)
/-- Operand B of F-V; `one` where it is a single register at every TY. -/
def useB (f : FV) (one : Bool) : Use :=
  if f.bk = 0 then .vs (if one then [f.vb.toNat] else vGroup f.ty f.vb)
  else if f.bk = 1 then .ss [f.vb.toNat] else .none
/-- The address registers of F-M. -/
def useAddr (am : BitVec 2) (sp : BitVec 3) (va : BitVec 7) (sb : BitVec 6) : Use :=
  ⟨if am = 1 then [] else if am = 0 ∧ sp = 4 then vPair va else [va.toNat], if am = 0 then [] else [sb.toNat], false⟩
/-- Operands of F-S. -/
def useFS (f : FS) : Use := .ss ([f.sd.toNat, f.sa.toNat] ++ if f.im then [] else [f.sb.toNat])
/-- VD and VA of a kind. -/
def useDA (f : FV) : Use := .vs (vGroup f.ty f.vd ++ vGroup f.ty f.va)
/-- The scalars of an F-X word. -/
def useFX (f : FX) : Use := .ss [f.sa.toNat, f.sb.toNat, f.so.toNat]
/-- The scalars of an F-E word with a reply. -/
def useFE (f : FE) (l : List (BitVec 6)) : Use := .ss ((l.map (·.toNat)) ++ if f.rp then [f.sd.toNat] else [])

/-- The registers of each word. -/
def useOf : Instr → Use
  | .goi f | .calli f => .vs [f.va.toNat]
  | .lblid f => if f.ty2 = 0 then .vs [f.vd.toNat] else .ss [f.vd.toNat]
  | .swcnt f | .cens f | .tid f | .targ f | .smovi f | .smovh f => .ss [f.sd.toNat]
  | .iadd f | .isub f | .imul f | .imulh f | .imin f | .imax f | .vand f | .vor f | .vxor f | .shl f | .shr f | .sar f
  | .rot f | .prmb f | .fadd f | .fmul f | .fmin f | .fmax f | .fdiv f | .iaddc f | .isel f => (useDA f).add (useB f false)
  | .imad f | .ffma f => ((useDA f).add (useB f false)).add (.vs (vGroup f.ty f.vc))
  | .imadw f => (Use.vs (vPair f.vd ++ [f.va.toNat] ++ vPair f.vc)).add (useB f true)
  | .iabs f | .ineg f | .vnot f | .popc f | .clz f | .brev f | .frnd f | .fclass f | .fsfu f | .amax f | .cmpct f => useDA f
  | .icmp f | .fcmp f => (Use.vs (vGroup f.ty f.va)).add (useB f false)
  | .lea f => (Use.vs (vPair f.vd ++ vPair f.va)).add (useB f true)
  | .isad f => (Use.vs [f.vd.toNat, f.va.toNat, f.vc.toNat]).add (useB f false)
  | .mov f => (Use.vs (vGroup f.ty f.vd)).add (useB f false)
  | .bfe f | .bfi f => ((useDA f).add (useB f true)).add (.vs [f.vc.toNat])
  | .movi f => .vs (if f.ty2 = 0 then [f.vd.toNat] else vPair f.vd)
  | .iaddi f => .vs [f.vd.toNat, f.va.toNat]
  | .cvt f => .vs (vGroup f.ty f.va ++ vGroup (BitVec.ofNat 4 f.sub.toNat) f.vd)
  | .qnt f | .dqnt f => (Use.vs [f.vd.toNat, f.va.toNat]).add (useB f true)
  | .pkt5 f => .vs (f.vd.toNat :: vPair f.va)
  | .upkt5 f => .vs (f.va.toNat :: vPair f.vd)
  | .shfl f => (useDA f).add (if f.sub = 4 then .none else useB f true)
  | .scan f | .rdc f => .vs ((if f.sub.toNat / 16 % 2 = 1 then vPair f.vd else vGroup f.ty f.vd) ++ vGroup f.ty f.va)
  | .vote f => if f.sub = 3 then .vs [f.vd.toNat] else .none
  | .sadd f | .ssub f | .smul f | .sand f | .sor f | .sxor f | .sshl f | .sshr f | .scmp f | .ssel f | .smin f
  | .smax f => useFS f
  | .smov f => .ss (f.sd.toNat :: if f.im then [] else [f.sb.toNat])
  | .prog f => if f.im then .none else .ss [f.sb.toNat]
  | .srdl f => ⟨[f.imm.toNat], f.sd.toNat :: if f.sub = 1 then [] else [f.sb.toNat], false⟩
  | .ptov f | .pcnt f => .vs [f.vd.toNat]
  | .vtop f => .vs [f.va.toNat]
  | .sprd f => .ss [f.vb.toNat]
  | .ld f | .st f | .ldtr f => (Use.vs (vData f.w f.vt)).add (useAddr f.am f.sp f.va f.sb)
  | .pref f | .cctl f => useAddr f.am f.sp f.va f.sb
  | .lds f | .sts f => .ss [f.vt.toNat, f.sb.toNat]
  | .atom f | .acas f => (Use.vs (vData f.w f.vt ++ vData f.w f.vx)).add (useAddr f.am f.sp f.va f.sb)
  | .red f => (Use.vs (vData f.w f.vx)).add (useAddr f.am f.sp f.va f.sb)
  | .atoms f => .ss [f.vt.toNat, f.vx.toNat, f.sb.toNat]
  | .cpyLin f | .cpy2d f | .cpyRowg f | .cpyRows f | .cpyMrow f | .cpyFill f | .cpyZc f | .cpyZd f
  | .collAr f | .collRs f | .collAg f | .collBc f | .ckpt f => useFE f [f.sa, f.sb, f.so]
  | .binit f => useFE f [f.sa, f.so]
  | .barv f => useFE f [f.so]
  | .bexp f => useFE f [f.sa, f.sb, f.so]
  | .btest f => useFE f [f.so]
  | .bwait f => .ss [f.so.toNat, f.sa.toNat]
  | .mldb f | .mma f | .mmag f | .macz f | .macr f | .clcfg f | .clld f | .clst f | .clseed f | .clcnt f => useFX f
  | .mbank f | .clfnc f => .ss [f.so.toNat]
  | .macv f | .clvote f => (useFX f).add (.vs ((List.range 4).map (· + f.imm.toNat)))
  | .clinf f => ⟨[f.imm.toNat], [f.sa.toNat, f.so.toNat], false⟩
  | .clfb f => ⟨[f.imm.toNat], [f.sb.toNat, f.so.toNat], false⟩
  | .cltab f => .ss [f.sa.toNat, f.so.toNat]
  | .spawn f => .vs (vPair f.va)
  | .tqenq f | .tqdeq f | .dcadd f | .dcinit f => useFE f [f.sa, f.sb]
  | .dcdec f | .binfl f => useFE f [f.sa]
  | .sysrd f | .syswr f => .ss [f.sd.toNat]
  | .rte _ => ⟨[], [], true⟩
  | .idot4 w => let f := parseFV w; (Use.vs [f.vd.toNat, f.va.toNat]).add (useB f true)
  | _ => .none

/-- Whether two uses share a register. -/
def Use.meets (a b : Use) : Bool :=
  (a.all && !(b.v.isEmpty && b.s.isEmpty)) || a.v.any b.v.contains || a.s.any b.s.contains

/-- The destination of a logged operation. -/
def MemOp.dest (o : MemOp) : Use :=
  match o.kind with
  | .load | .loadT | .atom | .cas => .vs ((List.range (max 1 (o.size / 4))).map (· + o.dst))
  | .loadS | .atomS => .ss [o.dst]
  | _ => .none

/-- Whether a command of the band counts for the interlocks of a word: for RTE, which restores what was outstanding at
trap entry as it stands, those that the handler issued (15_traps.md R386, R387; DEDUCED, assumption log entry 9). -/
def Band.minds (b : Band) (rte : Bool) (crew id : Nat) : Bool := b.crew == crew && (!rte || decide (b.trapAt ≤ id))

/-- The registers that outstanding engine, matrix and clause work of a band will write (09_engines.md R232, 11_matrix.md
R272, 12_clause.md R284). -/
def State.unitDest (s : State) (h : Here) (rte : Bool) : Use :=
  let e := ((s.coreAt h.core).eng.filter fun c => c.slot == h.slot && c.rp && h.band.minds rte c.crew c.id).map (·.sd)
  let four := fun (imm : BitVec 17) => (List.range 4).map (· + imm.toNat)
  let m := ((s.coreAt h.core).mx.queue.filter fun c => c.slot == h.slot && c.op == 0xB6 && h.band.minds rte c.crew c.id).flatMap
    fun c => four c.imm
  let k := ((s.clusterAt (clusterOf h.core)).clause.queue.filter fun c =>
    c.core == h.core && c.slot == h.slot && c.op == 0xC4 && h.band.minds rte c.crew c.id).flatMap fun c => four c.imm
  ⟨m ++ k, e, false⟩

/-! ### Stop points (08_memory.md R188) -/

/-- Whether a memory-side fault stands in an operation. -/
def MemOp.faulty (o : MemOp) : Bool := o.elems.any fun e => e.st.isFaulted
/-- The lanes of an operation that faulted. -/
def MemOp.faultLanes (o : MemOp) : LaneMask :=
  maskOf fun l => o.elems.any fun e => e.lane == l && e.st.isFaulted

/-- The operations that cannot complete before a replay. -/
def State.stuckOps (s : State) (h : Here) : List MemOp :=
  let held := s.heldBack h
  h.band.log.filter fun o => held.any fun x => x.1.id == o.id

/-- Whether the fault of an operation has returned: every element of it is done, has faulted, or waits behind what
faulted and meets no fault of its own (DEDUCED, assumption log entry 47). -/
def State.returned (s : State) (h : Here) (o : MemOp) : Bool :=
  o.faulty &&
  (let held := s.heldBack h
   o.elems.all fun e => e.st.isDone || e.st.isHurt
    || (held.any fun x => x.1.id != o.id && s.waits h o e x.1 x.2)
    || (names held o e && match s.perform h o e with | .bad _ _ => false | _ => true))

/-- The fault that a word's registers meet: stop point 1. -/
def State.stopReg (s : State) (h : Here) (u : Use) : Option MemOp :=
  h.band.log.find? fun o => u.meets o.dest && s.returned h o

/-- The ORD code of an access (02_formats.md R35). -/
def ordOf : Instr → BitVec 2
  | .ld f | .st f | .lds f | .sts f | .ldtr f => f.ord
  | .atom f | .acas f | .atoms f | .red f => f.ord
  | _ => 0

/-- Stop points 2 and 3: a fence, an access whose ORD is not plain, what acts as a release of the band's memory
operations, and a WAITC that would wait: its guard holds in Leader, and its class keeps operations that no wait ends. -/
def State.stopWord (s : State) (h : Here) : Instr → Bool
  | .fence _ | .fencex _ | .barv _ | .spawn _ | .tqenq _ | .tqdeq _ | .dcinit _ | .dcdec _ | .dcadd _ => true
  | .waitc f =>
    let l := s.stuckOps h
    h.band.leads f.g && !s.waitMet h f.imm
      && (decide ((f.imm.extractLsb' 0 6).toNat < (l.filter fun o => o.kind.isLd).length)
        || decide ((f.imm.extractLsb' 6 6).toNat < (l.filter fun o => !o.kind.isLd).length))
  | i => ordOf i != 0

/-- Whether nothing of the band can go on before a replay: every logged operation is stuck, and every command waits
unaccepted behind them. -/
def State.allStuck (s : State) (h : Here) : Bool :=
  decide ((s.stuckOps h).length = h.band.log.length)
    && ((s.coreAt h.core).eng.all fun c => c.slot != h.slot || c.crew != h.band.crew || !c.accepted)
    && ((s.coreAt h.core).mx.queue.all fun c => c.slot != h.slot || c.crew != h.band.crew || !c.accepted)
    && (s.clusterAt (clusterOf h.core)).clause.queue.all fun c =>
        c.core != h.core || c.slot != h.slot || c.crew != h.band.crew || !c.accepted

/-- The band whose fault in operation `id` is taken: its faulted elements are held until RTE issues them again. -/
def Band.take (b : Band) (id : Nat) : Band :=
  let taken := fun (e : Elem) => if e.st.isFaulted then { e with st := .taken } else e
  { b with log := b.log.map fun o => if o.id = id then { o with elems := o.elems.map taken } else o }

/-- The replay-exact trap for operation `o` (R188, 15_traps.md R352, R358). -/
def State.replayTrap (s : State) (h : Here) (o : MemOp) : State :=
  let first := o.elems.find? fun e => e.st.isFaulted
  let (sub, reason) := match first with
    | some e => (match e.st with | .faulted a b => (a, b) | _ => (0, 0))
    | none => (0, 0)
  let ia := match first with | some e => h.elemIa e | none => 0
  let dist := ((h.band.p.toInt - o.p.toInt) / 8).toNat
  s.trap h (h.band.take o.id) 4 (sideDetail sub reason o.faultLanes ia dist) o.faultLanes

/-! ### What is due at a boundary (15_traps.md R348) -/

/-- The WATCHDOG trap; the crew's count restarts at it (15_traps.md R380). -/
def State.watchTrap (s : State) (h : Here) : State :=
  let t := s.trap h { h.band with wdog := false } 12 (s.watchDetail h.crew) (maskOf fun l => (h.band.lane l).st != .exited)
  match t.band? h.core h.slot with
  | some b => if b.waitTo.isSome then t else t.modCrew h.core h.band.crew fun w => { w with count := s.cycle }
  | none => t

/-- A pending HWERR, for a band with a RUNNING lane; then a pending WATCHDOG. Neither is taken at TL = 1 (R364). -/
def State.asyncTrap (s : State) (h : Here) : Option State :=
  let watch := if h.band.wdog then some (s.watchTrap h) else none
  if h.band.tl then none
  else match h.band.hwerr with
    | d :: t => if h.band.running = 0 then watch else some (s.trap h { h.band with hwerr := t } 11 d h.band.running)
    | [] => watch

/-- The first of the band's operations whose fault has returned, while it may be taken. -/
def State.dueFault (s : State) (h : Here) : Option MemOp := if h.band.tl then none else h.band.log.find? (s.returned h)

/-! ### Issue -/

/-- What a step of a band changes: whether its word issued, it moved or wrapped, gave up its turn, trapped, parked, waited or died. -/
def bandMark (b : Band) : BitVec 64 × BitVec 32 × BitVec 64 × Bool × Bool × Bool × Option Nat × Option Nat :=
  (b.p, b.scnt, b.icnt, b.yld, b.tl, b.killed, b.waitTo, b.park)
/-- Whether the band of a slot has moved between two states. -/
def State.moved (s t : State) (c k : Nat) : Bool := (s.band? c k).map bandMark != (t.band? c k).map bandMark

/-- The state that an outcome of `exec` leaves; a stop leaves the state. -/
def stateOf (s : State) : Host.Outcome State Fault Refusal → State
  | .next t => t
  | _ => s

/-- Issues a word that has been read: the stop points, what is due, the interlocks, then its meaning. A word that cannot
issue and that no wait would free takes the replay (R188). -/
def State.issueWord (s : State) (h : Here) (i : Instr) : State :=
  let u := useOf i
  match (if h.band.tl then none else s.stopReg h u) with
  | some o => s.replayTrap h o
  | none =>
    match (if s.stopWord h i then s.dueFault h else none) with
    | some o => s.replayTrap h o
    | none =>
      match s.asyncTrap h with
      | some t => t
      | none =>
        let live := (s.liveOps h).filter fun o => !u.all || decide (h.band.trapAt ≤ o.id)
        let busy := live.any (fun o => u.meets o.dest) || u.meets (s.unitDest h u.all)
        let t := if busy then s else stateOf s (exec i s)
        if s.moved t h.core h.slot then t
        else match s.dueFault h with
          | some o => if s.allStuck h then s.replayTrap h o else t
          | none => t

/-- A band with a RUNNING lane: it runs off the end of the code section (04_sweep.md R84), or its word is fetched and
issued; what is due comes before a fetch that faults, which is FETCH_FAULT's (15_traps.md R348, R365); poison kills the band
(R368). -/
def State.issueRunning (s : State) (h : Here) : State :=
  let due := fun (t : Unit → State) => match s.asyncTrap h with | some u => u | none => t ()
  if h.codeSize ≤ h.band.p.toNat then due fun _ => h.fault s 3 (ctrlDetail 4 h.band.leader 0xFFFF) h.band.running
  else match s.fetchWord h h.band.p.toNat with
    | .hold => due fun _ => stateOf s (execFetchFault h.core h.slot s)
    | .bad _ => due fun _ => stateOf s (execFetchFault h.core h.slot s)
    | .ok s1 (_, true) =>
      let ia := (h.codeIa h.band.p.toNat).getD 0
      s1.killPoison h (s1.iaUnit h.core ia) ia
    | .ok s1 (w, false) => s1.issueWord h (decodeFor h.crew.regs w)

/-- A band without a RUNNING lane: stop point 4, what is due, then the sequencer's move (04_sweep.md R82). -/
def State.issueIdle (s : State) (h : Here) : State :=
  match s.dueFault h with
  | some o => s.replayTrap h o
  | none =>
    if h.band.allExited then s
    else match s.asyncTrap h with
      | some t => t
      | none => stateOf s (execSkip s)

/-- Whether a crew's bands issue: not while a flush or a save has stopped them (15_traps.md R377, R378). -/
def Crew.issues (w : Crew) : Bool := match w.pre with | some .flush => false | some (.save _) => false | _ => true

/-- The slot after `k` in the rotation. -/
def Crew.nextSlot (w : Crew) (k : Nat) : Nat :=
  let l := (List.range 32).filter w.slots.contains
  ((l.find? fun j => decide (k < j)).getD (l.headD k))

/-- One issue of a band, whoever chose it. A band parked by a fetch issues nothing, but takes what is due (15_traps.md R365,
R380). -/
def State.issueBand (s : State) (h : Here) : State :=
  if h.band.park.isSome then (s.asyncTrap h).getD s
  else if h.band.running = 0 then s.issueIdle h
  else s.issueRunning h

/-! ### The choice between bands (04_sweep.md R90, R108, 13_tasks.md R314, R316) -/

/-- The pipe of a word: true for the vector pipe, false for the memory pipe, none for LBL, which takes no issue slot
(01_machine.md R13, 04_sweep.md R90, 05_integer.md R111, R140, 07_numbers.md R160). Hints and emulation space, of which no rule
names the pipe, count as system instructions (DESIGN CHOICE, assumption log entry 76). -/
def pipeOf (w : DWord) : Option Bool :=
  let op := (w.extractLsb' 0 8).toNat
  if op = 1 then none
  else some (op == 0 || op == 2 || op == 3 || op == 7 || (op == 9 && (w.extractLsb' 30 2) == 0)
    || (decide (0x10 ≤ op) && decide (op < 0x60)) || (decide (0x70 ≤ op) && decide (op < 0x80)))

/-- The pipe of the word that a band would issue; none when it would issue none. -/
def State.wordPipe (s : State) (h : Here) : Option Bool :=
  if h.band.running = 0 ∨ h.codeSize ≤ h.band.p.toNat then none
  else match s.fetchWord h h.band.p.toNat with | .ok _ (w, _) => pipeOf w | _ => none

/-- Whether the band in slot `j` has a word that is ready now, and the word's pipe. -/
def State.readyWord (s : State) (c j : Nat) : Option Bool :=
  match s.hereAt c j with
  | none => none
  | some h =>
    if h.crew.issues && h.band.waitTo.isNone && decide (h.band.stall ≤ s.cycle)
        && { s with cur := some (c, j) }.moved ({ s with cur := some (c, j) }.issueBand h) c j then s.wordPipe h
    else none

/-- Whether a band comes before another for a pipe: a higher HPRIO, then the older crew, then the lower slot (R314). -/
def comesFirst (a b : Nat × Band) : Bool :=
  decide (b.2.hprio < a.2.hprio) || (b.2.hprio == a.2.hprio
    && (decide (a.2.crew < b.2.crew) || (a.2.crew == b.2.crew && decide (a.1 < b.1))))

/-- Whether YLD keeps a band from being selected beside the ready bands of its core: for 32 cycles, until each of the others
has been selected (R108). -/
def State.defers (s : State) (b : Nat × Band) (others : List (Nat × Band)) : Bool :=
  b.2.yld && decide (s.cycle < b.2.yldCycle + 32) && others.any fun e => e.1 != b.1 && decide (e.2.picked ≤ b.2.yldMark)

/-- Whether a pipe may select the band in slot `k` in normal mode: its word is ready, YLD does not defer it, and no ready
band for the same pipe comes first (R108, R314). What is no word of a pipe needs no selection. -/
def State.selects (s : State) (h : Here) : Bool :=
  match s.wordPipe h with
  | none => true
  | some p =>
    let me := (h.slot, h.band)
    let others := (s.coreAt h.core).bands.filter fun e => e.1 != h.slot && (s.readyWord h.core e.1).isSome
    decide (h.band.stall ≤ s.cycle) && !s.defers me others
      && others.all fun e => s.readyWord h.core e.1 != some p || !comesFirst e me || s.defers e (me :: others)

/-- What a band of a crew in deterministic mode does out of its turn: it takes an asynchronous event that is due, and asleep a
fault that has returned; it issues nothing (15_traps.md R348, R380, 08_memory.md R188). -/
def State.outOfTurn (s : State) (h : Here) : State :=
  if h.band.waitTo.isSome || h.band.allExited then s
  else match (if h.band.running = 0 ∧ s.passes h.core h.crew h.slot = true then s.dueFault h else none) with
    | some o => s.replayTrap h o
    | none => (s.asyncTrap h).getD s

/-- A pipe selects the band in a slot. In deterministic mode only the band whose turn it is issues; YIELD forfeits the
turn (04_sweep.md R108, 13_tasks.md R316). In normal mode the selection marks the band. -/
def State.issue (s0 : State) (c k : Nat) : State :=
  let s := { s0 with cur := some (c, k) }
  match s.hereAt c k with
  | none => s0
  | some h =>
    if !h.crew.issues then s0
    else if h.ctx.detm then
      if s.turn c h.crew ≠ some k then s.outOfTurn h
      else
        let pass := fun (t : State) => t.modCrew c h.band.crew fun w => { w with rot := w.nextSlot k }
        if h.band.yld then (pass s0).modBand c k fun b => { b with yld := false }
        else
          let h1 := { h with band := { h.band with waitTo := none } }
          let t := (h1.put s h1.band).issueBand h1
          if (match t.band? c k with | some b => b.icnt != h.band.icnt | none => false) then pass t else t
    else if h.band.waitTo.isSome || !s.selects h then s0
    else
      let h1 := { h with band := { h.band with picked := (s.coreAt c).retires } }
      (h1.put s h1.band).issueBand h1

/-! ### Moves (DESIGN CHOICE, assumption log entries 1 and 4) -/

/-- Whether a constructor is an event that a move of the agenda may bring: not a word, which only a fetch issues, and
not the sequencer's SKIP. -/
def isEvent : Instr → Bool
  | .labelCacheFill .. | .bandRetire .. | .memOpComplete .. | .memFaultResponse .. | .pinExpiry .. | .collectorWindow ..
  | .engAccept .. | .engWritePerformed .. | .engComplete .. | .teamAbort .. | .collMessage .. | .collTimeout ..
  | .mxAccept .. | .mxComplete .. | .cimScrub .. | .clAccept .. | .clComplete .. | .binTimer .. | .admitCrew ..
  | .gangAdmit .. | .preemptWait .. | .drainRechoice .. | .flushRestart .. | .crewSave .. | .crewRestore ..
  | .preemptHoldExpiry .. | .saveRetry .. | .saveAborted .. | .watchdog .. | .trapBackoff .. | .sampleCheck ..
  | .fetchFault .. | .pageServiced .. | .patrolScrub .. | .linkFailure .. | .flitResend .. | .remoteRequest ..
  | .remoteAck .. | .remoteTimeout .. | .rehash .. | .rhack .. | .commit .. | .rhtmoExpiry | .memberDown .. | .boot ..
  | .rtail .. | .ren .. | .cen .. | .chead .. | .bar0Write .. | .openContext .. | .closeContext .. | .mapRange ..
  | .unmapRange .. | .setWindow .. | .setFstab .. | .loadModule .. | .submit .. | .readLog .. | .checkpoint ..
  | .restoreImage .. | .setBudget .. | .planeStatus .. | .attest .. | .setInwin .. | .memberReport .. | .spdmRequest ..
  | .takeClauseArray .. => true
  | _ => false

/-- One move. -/
def State.move (s : State) : Action → State
  | .issue c k => s.issue c k
  | .happen i => if isEvent i then stateOf s (exec i s) else s
  | .stall c k n => s.modBand c k fun b => { b with stall := s.cycle + n }
  | .tick n => s.tick n
  | .mxReads c k a n => s.mxReads c k a n
  | .evictL1 c line => s.l1Evict c line
  | .evictL2 line => s.l2Drop line
  | .upset u => s.upset u
  | .badCode fn => s.badCode fn

/-- Performs one move, after which the turns of deterministic mode stand as R316 says. -/
def State.perf (s : State) (a : Action) : State := (s.move a).turns

/-- The bands by HPRIO, then age, then slot (13_tasks.md R314). -/
def State.ready (s : State) : List (Nat × Nat) :=
  let all := s.cores.flatMap fun e => e.2.bands.map fun b => (e.1, b)
  (all.mergeSort fun a b => !comesFirst b.2 a.2).map fun x => (x.1, x.2.1)

/-- Whether the band in a slot can do something, were it selected. -/
def State.could (s : State) (c k : Nat) : Bool :=
  match s.hereAt c k with
  | none => false
  | some h =>
    if h.ctx.detm then s.moved (s.issue c k) c k
    else h.crew.issues && h.band.waitTo.isNone
      && { s with cur := some (c, k) }.moved ({ s with cur := some (c, k) }.issueBand h) c k && s.selects h

/-- The events of the device's own parts that may be due. -/
def State.events (s : State) : List Instr :=
  (match s.fw.job with | some j => [j.cmd] | none => [])
  ++ (s.cores.flatMap fun e =>
    (e.2.bands.flatMap fun b =>
      (b.2.log.flatMap fun o =>
        let m := maskOf fun l => o.elems.any fun x => x.lane == l
        [Instr.memOpComplete e.1 b.1 o.id m, .memFaultResponse e.1 b.1 o.id m])
      ++ [.bandRetire e.1 b.1, .trapBackoff e.1 b.1])
    ++ ((e.2.l1.filter fun x => !x.2.pins.isEmpty).map fun x => .pinExpiry e.1 x.1) ++ [.engAccept e.1]
    ++ (e.2.eng.flatMap fun c => [.engWritePerformed e.1 c.id 1, .engComplete e.1 c.id, .collTimeout e.1 c.id])
    ++ [.mxAccept e.1, .mxComplete e.1]
    ++ (e.2.crews.flatMap fun w => [.drainRechoice e.1 w.1, .preemptHoldExpiry e.1 w.1, .flushRestart e.1 w.1,
        .crewSave e.1 w.1, .saveRetry e.1 w.1, .saveAborted e.1 w.1, .watchdog e.1 w.1]))
  ++ (s.clusters.flatMap fun e =>
    (((List.range 16).map fun c => Instr.clAccept e.1 (16 * e.1 + c)) ++ [.clComplete e.1])
    ++ e.2.bins.map fun b => .binTimer e.1 b.1)
  ++ (s.ctxs.flatMap fun x => x.2.saved.flatMap fun v =>
    (List.range 16).map fun c => .crewRestore (16 * clusterOf v.core + c) x.1 v.id)
  ++ (let busy := (s.clusters.filter fun e => !e.2.launched.isEmpty || e.2.queues.any fun v => !v.2.tasks.isEmpty).map (·.1)
      if busy.isEmpty then [] else
        (coreIds.filter (fun c => busy.contains (clusterOf c)) ++ coreIds.filter fun c => !busy.contains (clusterOf c)).flatMap
          fun c => [.admitCrew c, .gangAdmit c, .preemptWait c])
  ++ (s.fab.reqs.map fun r => .remoteTimeout r.dst r.q) ++ [.rhtmoExpiry]

/-- The move the machine makes when the agenda names none: the first band that can move, else the first event that
changes anything, else an entry that is no command, else a cycle passes. -/
def State.idle (s : State) : State :=
  match s.ready.find? fun e => s.could e.1 e.2 with
  | some e => s.issue e.1 e.2
  | none =>
    match s.events.find? fun i => s.move (.happen i) != s with
    | some i => s.move (.happen i)
    | none =>
      match (List.range 16).find? fun fn => s.badCode fn != s with
      | some fn => s.badCode fn
      | none => s.tick 1

/-- One step: the agenda's next move, or the machine's own choice. -/
def State.advance (s : State) : State :=
  match s.agenda with
  | [] => s.idle.turns
  | a :: t => State.perf { s with agenda := t } a

/-! ### Placing a word at the next fetch -/

/-- The context, crew and band that `place` builds: context 0, one crew of one band of 128 registers, whose 32 lanes are
RUNNING at P = 0 of a module of 64 words at address 0. -/
def probeCtx : Ctx :=
  { fn := 0, sys := false, detm := false, sigreq := false, closing := false, held := false, cerr := 0,
    vw := [(0, 0x0F), (1, 0)], pvbase := 0, pvsize := 64, chiplo := 0, chiphi := 0x10000, ftbase := 0, ftcount := 0,
    dcbase := 0, dccnt := 16, btim := 4096, wdt := 2 ^ 30, chkn := 8, pdrain := 0x1010101010101010, pflush := 65536,
    csave := 0, csavesz := 4096, ecnt := 0, reserve := 0, weight := 1, cap := 0, qmask := 0, clmask := 0,
    modules := [(1, { code := 0, size := 512, labels := [], kernels := [], symbols := [], spans := [], old := false })],
    log := [], submits := 0, saved := [], arrays := [] }
def probeTask : Task := ⟨0, 0, 1, 0, 1, [], [], 0, 0, false, 0, [], 0⟩
def probeCrew : Crew :=
  { task := probeTask, member := 0, gang := [(0, 0)], slots := [0], place := 0, size := 65536, regs := 128, idem := false,
    paired := false, checked := false, prog := none, objs := [], stamp := 0, rot := 0, serial := 0, since := 0, count := 0, debit := 0,
    used := 0, pre := none, gtCount := 0, gone := false }
def probeBand : Band :=
  { newBand 0 0 probeTask ⟨1, 1, 128, 64, 0, 16, false, false, false, 0⟩ (List.replicate 8 0) with
    p := 0, lanes := List.replicate 32 ⟨.running, 0xFFFF, 0, 0, 0, 0, []⟩ }

/-- Stores a word where the next step fetches: at address 0 of a mapped page, for a band that is about to issue it; its
line is in L2, as the fetch leaves it (DESIGN CHOICE, assumption log entry 2). -/
def State.place8 (s : State) (w : Nat) : State :=
  let s1 : State := { s with
    agenda := [], cur := some (0, 0), nextId := max s.nextId 1,
    ctxs := s.ctxs.put 0 probeCtx,
    cores := s.cores.put 0 { Core.reset with bands := [(0, probeBand)], crews := [(0, probeCrew)] } }
  let s2 := (s1.mapPage 0 false (0x3F#64)).fwPut (s.domidx.toNat * 2 ^ 48) (toBytes 8 w)
  match s2.reach (some 0) (s.domidx.toNat * 2 ^ 41) 0 with
  | none => s2
  | some s3 => match s3.l2Get (s.domidx.toNat * 2 ^ 41) .x with | .ok s4 _ => s4 | _ => s3

end Sys2Proof.Machine
end

