-- ==== Sys2Proof/Safety.lean ====
section
/-! DEFINITION. The terms in which claims about the machine are made: the canonical form of every memory, and what a
word leaves as it was. -/

namespace Sys2Proof.Machine

/-- Every memory of the device has its canonical form, and every line that a cache holds has its 128 bytes. -/
def State.wf (s : State) : Bool :=
  s.hbm.wf && s.chip.wf && s.hostMem.wf && (s.l2.all fun e => e.2.data.length == 128)
    && s.cores.all fun e => e.2.scr.wf && e.2.l1.all fun x => x.2.data.length == 128

/-- Every crew is the member of its own gang that it says it is, on its own core; a saved crew has a place in its gang. -/
def State.gangsKnown (s : State) : Bool :=
  (s.cores.all fun e => e.2.crews.all fun w => w.2.gang[w.2.member]? == some (e.1, w.1))
    && s.ctxs.all fun x => x.2.saved.all fun v => decide (v.crew.member < v.crew.gang.length)

/-- Every byte of every memory reads as before: HBM, CHIP, the host's memory, each core's scratchpad, and the lines that
the L1s and the L2 hold. -/
structure SameBytes (s t : State) : Prop where
  hbm  : ∀ a, t.hbm.at a = s.hbm.at a
  chip : ∀ a, t.chip.at a = s.chip.at a
  host : ∀ a, t.hostMem.at a = s.hostMem.at a
  scr  : ∀ c a, (t.coreAt c).scr.at a = (s.coreAt c).scr.at a
  l1   : ∀ c, (t.coreAt c).l1 = (s.coreAt c).l1
  l2   : t.l2 = s.l2

/-- A core apart from its bands and crews, the count of retired instructions, the replay queue and the units' queues
that `eng` and `mx` replace. -/
def Core.except (x : Core) (y : Core) : Prop :=
  y = { x with bands := y.bands, crews := y.crews, retires := y.retires, samples := y.samples }

/-- A state beside the band of `h`: no other core, no other band or crew of its core, no other context and nothing else
of the device has changed; of its crew and its context, only what counts retirement and energy; of its core, only the
count of retired instructions and the replay queue. -/
structure Beside (h : Here) (s t : State) : Prop where
  device : t = { s with cores := t.cores, ctxs := t.ctxs }
  bytes  : SameBytes s t
  cores  : ∀ c, c ≠ h.core → t.coreAt c = s.coreAt c
  core   : (s.coreAt h.core).except (t.coreAt h.core)
  bands  : ∀ k, k ≠ h.slot → t.band? h.core k = s.band? h.core k
  crews  : ∀ n, n ≠ h.band.crew → t.crew? h.core n = s.crew? h.core n
  crew   : ∃ w, t.crew? h.core h.band.crew = some w ∧ w = { h.crew with since := w.since, count := w.count, used := w.used }
  ctxs   : ∀ x, x ≠ h.ctxId → t.ctx? x = s.ctx? x
  ctx    : ∃ x, t.ctx? h.ctxId = some x ∧ x = { h.ctx with ecnt := x.ecnt }

/-- A band beside the vector registers `vs`, the predicates `ps`, the scalar registers `ss`, its lanes and its FLAGS: no
other register has changed and no other field has, but for P, ICNT, YLD and the CHECKED count. -/
structure BandFrame (b b' : Band) (vs ps ss : List Nat) : Prop where
  v     : ∀ n, n ∉ vs → ∀ l, b'.v32 l n = b.v32 l n
  pr    : ∀ n, n ∉ ps → b'.pred n = b.pred n
  s     : ∀ n, n ∉ ss → b'.sreg n = b.sreg n
  rest  : b' = { b with v := b'.v, pr := b'.pr, s := b'.s, lanes := b'.lanes, flags := b'.flags, p := b'.p,
                        icnt := b'.icnt, yld := b'.yld, sampled := b'.sampled }

/-- The word goes on to the next: P advances by 8, ICNT counts one, YLD is cleared (04_sweep.md R108, 15_traps.md
R356). -/
def Band.Next (b b' : Band) : Prop := b'.p = b.p + 8 ∧ b'.icnt = b.icnt + 1 ∧ b'.yld = false

/-- The current band is `h`, one of its lanes is RUNNING, and no clone mismatch is armed for it (15_traps.md R371). -/
structure Ready (s : State) (h : Here) : Prop where
  here    : s.here? = some h
  running : h.band.running ≠ 0
  clones  : ∀ e ∈ s.clones, ¬(e.1 = h.core ∧ e.2.1 = h.slot)

/-- Word `i` issues and goes on: the next state differs from `s` in the band only; of the band only the registers named
have changed, and `post` holds of it. Its lanes are as they were. -/
def Runs (i : Instr) (s : State) (h : Here) (vs ps ss : List Nat) (post : Band → Prop) : Prop :=
  ∃ t b, exec i s = .next t ∧ Beside h s t ∧ t.band? h.core h.slot = some b ∧ BandFrame h.band b vs ps ss
    ∧ b.lanes = h.band.lanes ∧ h.band.Next b ∧ post b

/-- Word `i` issues from `s` and may move lanes: as `Runs`, but `post` says what becomes of the lanes, and P stays at the
word when no lane is RUNNING any more (04_sweep.md R81, R82). `s1` is the state once the core has cached the label entries
that the word reads (03_assembly.md R74). -/
def Issues (i : Instr) (s s1 : State) (h : Here) (vs ps ss : List Nat) (post : Band → Prop) : Prop :=
  ∃ t b, exec i s = .next t ∧ Beside h s1 t ∧ t.band? h.core h.slot = some b ∧ BandFrame h.band b vs ps ss
    ∧ b.p = (if b.running = 0 then h.band.p else h.band.p + 8) ∧ b.icnt = h.band.icnt + 1 ∧ b.yld = false ∧ post b

/-- The label that a lane's register names for GOI and CALLI (04_sweep.md R104). -/
def Here.named (h : Here) (va : BitVec 7) (l : Nat) : BitVec 16 := (h.band.v32 l va.toNat).extractLsb' 0 16

/-- The code of what a lane meets at a target label: 1 where the module has none of that id, 2 where it is a handler's, 0
where it is a target (04_sweep.md R97). -/
def Here.MeetsLabel (h : Here) (x : BitVec 16) (code : Nat) : Prop :=
  (h.label x = none → code = 1) ∧ ∀ e, h.label x = some e → code = if e.attr = 2 then 2 else 0

/-! ### Results of the lane instructions -/

/-- The lanes on which a word acts (02_formats.md R28). -/
def Here.lanes (h : Here) (g : Guard) (l : Nat) : Prop := (h.band.guarded g).getLsbD l = true

/-- The vector registers of a destination of a kind (02_formats.md R29, R30). -/
def destV (ty : BitVec 4) (r : BitVec 7) : List Nat := if tyPair ty.toNat then [r.toNat, r.toNat + 1] else [r.toNat]

/-- Register `n` holds `x l` in the lanes the word acts on, and its old value in the others (05_integer.md R116). -/
def Writes32 (h : Here) (g : Guard) (n : Nat) (x : Nat → Word) (b : Band) : Prop :=
  ∀ l, l < 32 → (h.lanes g l → b.v32 l n = x l) ∧ (¬h.lanes g l → b.v32 l n = h.band.v32 l n)

/-- The pair at `n` holds `x l` in the lanes the word acts on, and its old value in the others. -/
def Writes64 (h : Here) (g : Guard) (n : Nat) (x : Nat → DWord) (b : Band) : Prop :=
  ∀ l, l < 32 → (h.lanes g l → b.v64 l n = x l) ∧ (¬h.lanes g l → b.v64 l n = h.band.v64 l n)

/-- A register, or a pair at the 64-bit kinds, holds `x l` in the lanes the word acts on, and its old value in the
others. -/
def WritesTy (h : Here) (g : Guard) (ty : BitVec 4) (n : Nat) (x : Nat → DWord) (b : Band) : Prop :=
  if tyPair ty.toNat then Writes64 h g n x b else Writes32 h g n (fun l => (x l).extractLsb' 0 32) b

/-- Predicate `n` holds `x l` in the lanes the word acts on, and its old value in the others; a write of p0 is discarded
(02_formats.md R29, 05_integer.md R116). -/
def WritesP (h : Here) (g : Guard) (n : Nat) (x : Nat → Prop) (b : Band) : Prop :=
  ∀ l, l < 32 → n ≠ 0 → (h.lanes g l → ((b.pred n).getLsbD l = true ↔ x l))
    ∧ (¬h.lanes g l → (b.pred n).getLsbD l = (h.band.pred n).getLsbD l)

/-- Fin of 05_integer.md R115 on a kind of width `w`: the value of the kind that agrees with `x` modulo 2^w, or under
saturation the value of the kind nearest to `x`. -/
def FinOf (sat : Bool) (w : Nat) (signed : Bool) (x v : Int) : Prop :=
  kindMin w signed ≤ v ∧ v ≤ kindMax w signed
    ∧ if sat then v = max (kindMin w signed) (min (kindMax w signed) x) else (v - x) % 2 ^ w = 0

/-- Whether saturation clamps `x` (05_integer.md R115). -/
def Clamps (sat : Bool) (w : Nat) (signed : Bool) (x : Int) : Prop :=
  sat = true ∧ (x < kindMin w signed ∨ kindMax w signed < x)

/-- FLAGS gain `f` when `c` holds and are otherwise as they were. -/
def RaisesIf (h : Here) (c : Prop) (f : BitVec 9) (b : Band) : Prop :=
  (c → b.flags = h.band.flags ||| f) ∧ (¬c → b.flags = h.band.flags)

/-- Each element of VD holds Fin of `x`, in the lanes the word acts on; the other lanes keep their registers; IOV is
raised when an element clamps (05_integer.md R114 to R116). -/
def FinResult (f : FV) (h : Here) (x : Nat → Nat → Int) (b : Band) : Prop :=
  (∀ l, l < 32 →
    (h.lanes f.g l → ∀ e, e < tyCount f.ty.toNat →
      FinOf (satBit f) (tyWidth f.ty.toNat) (tySigned f.ty.toNat) (x l e)
        (elemVal f.ty.toNat e (b.srcV f.ty.toNat l f.vd.toNat)))
    ∧ (¬h.lanes f.g l → ∀ n, n ∈ destV f.ty f.vd → b.v32 l n = h.band.v32 l n))
  ∧ RaisesIf h (∃ l, l < 32 ∧ h.lanes f.g l ∧ ∃ e, e < tyCount f.ty.toNat ∧
      Clamps (satBit f) (tyWidth f.ty.toNat) (tySigned f.ty.toNat) (x l e)) flIOV b

/-- Operand A, B or C of an integer instruction, element `e` of lane `l`, read as its kind reads it (05_integer.md
R114, 02_formats.md R34). -/
def Here.opA (h : Here) (f : FV) (l e : Nat) : Int := elemVal f.ty.toNat e (h.band.srcV f.ty.toNat l f.va.toNat)
def Here.opB (h : Here) (f : FV) (l e : Nat) : Int := elemVal f.ty.toNat e (h.band.srcB f f.ty.toNat l)
def Here.opC (h : Here) (f : FV) (l e : Nat) : Int := elemVal f.ty.toNat e (h.band.srcV f.ty.toNat l f.vc.toNat)

/-- Bit `i` of VD in lane `l` is `bit l i` in the lanes the word acts on; the other lanes keep their registers. -/
def BitsResult (f : FV) (h : Here) (bit : Nat → Nat → Prop) (b : Band) : Prop :=
  ∀ l, l < 32 →
    (h.lanes f.g l → ∀ i, i < tyWidth f.ty.toNat → ((b.srcV f.ty.toNat l f.vd.toNat).getLsbD i = true ↔ bit l i))
    ∧ (¬h.lanes f.g l → ∀ n, n ∈ destV f.ty f.vd → b.v32 l n = h.band.v32 l n)

/-- FLAGS are as they were. -/
def KeepsFlags (h : Here) (b : Band) : Prop := b.flags = h.band.flags

/-- An integer instruction that gives every element Fin of an exact integer of its operands (05_integer.md R118). -/
def IntegerOp (i : FV → Instr) (x : FV → Int → Int → Int → Int) : Prop :=
  ∀ s h f, Ready s h → (i f).wf = true →
    Runs (i f) s h (destV f.ty f.vd) [] []
      (FinResult f h fun l e => x f (h.opA f l e) (h.opB f l e) (h.opC f l e))

/-- A lane instruction of F-V that leaves `post` and changes the registers and predicates named. -/
def LaneOp (i : FV → Instr) (vs ps : FV → List Nat) (post : FV → Here → Band → Prop) : Prop :=
  ∀ s h f, Ready s h → (i f).wf = true → Runs (i f) s h (vs f) (ps f) [] (post f h)

/-- The comparisons of 02_formats.md R39 by their codes. -/
def Compares (c : Nat) (a b : Int) : Prop :=
  (c = 0 ∧ a = b) ∨ (c = 1 ∧ a ≠ b) ∨ (c = 2 ∧ a < b) ∨ (c = 3 ∧ a ≤ b) ∨ (c = 4 ∧ b < a) ∨ (c = 5 ∧ b ≤ a)

/-- A 32-bit operand read signed at TY 0 and unsigned at TY 1 (05_integer.md R120, R125). -/
def readBy (ty : BitVec 4) (x : Word) : Int := if ty = 0 then x.toInt else (x.toNat : Int)

/-- A band-level instruction of F-S: it executes when its guard holds in Leader and then leaves in S[SD] a value that
`r a b d` holds of, for S[SA], operand B and the old S[SD]; otherwise it has no effect (02_formats.md R28, 05_integer.md
R137). -/
def ScalarResult (i : FS → Instr) (r : FS → DWord → DWord → DWord → DWord → Prop) : Prop :=
  ∀ s h f, Ready s h → (i f).wf = true →
    Runs (i f) s h [] [] [f.sd.toNat] (fun b => KeepsFlags h b
      ∧ (h.band.leads f.g = true →
          r f (h.band.sreg f.sa.toNat) (h.band.srcS f) (h.band.sreg f.sd.toNat) (b.sreg f.sd.toNat))
      ∧ (h.band.leads f.g = false → b.sreg f.sd.toNat = h.band.sreg f.sd.toNat))

/-- A 64-bit value read unsigned or signed. -/
def read64 (unsigned : Bool) (x : DWord) : Int := if unsigned then (x.toNat : Int) else x.toInt

/-- Lane `k` is one that the word acts on, in the half of lane `l` when the crew is PAIRED (05_integer.md R136). -/
def Here.mate (h : Here) (g : Guard) (l k : Nat) : Bool :=
  (h.band.guarded g).getLsbD k && (!h.crew.paired || k / 16 == l / 16)

/-- The lanes the word acts on, of the half of lane `l` when the crew is PAIRED, ascending. -/
def Here.mates (h : Here) (g : Guard) (l : Nat) : List Nat := (List.range 32).filter (h.mate g l)

/-- A label that lanes may be moved to (04_sweep.md R97). -/
def Here.Target (h : Here) (x : BitVec 16) : Prop := ∃ e, h.label x = some e ∧ e.attr ≠ 2

/-- In a PAIRED crew, each primary lane moves with its shadow, to the same target (15_traps.md R373). -/
def Here.Agrees (h : Here) (g : Guard) (t : Nat → BitVec 16) : Prop :=
  h.crew.paired = true → ∀ l, l < 16 → (h.lanes g l ↔ h.lanes g (l + 16)) ∧ (h.lanes g l → t l = t (l + 16))

/-- The lanes the word acts on become `x l`; the others are as they were; no register changes but those named. -/
def LanesBecome (h : Here) (g : Guard) (x : Nat → Lane) (b : Band) : Prop :=
  ∀ l, l < 32 → (h.lanes g l → b.lane l = x l) ∧ (¬h.lanes g l → b.lane l = h.band.lane l)

/-! ### Numbers -/

/-- The rational number a value stands for; none for NaN and the infinities. -/
def FNum.rat? : FNum → Option Rat
  | .fin neg num den e => some ((if neg then -1 else 1) * ((num : Rat) / den) * 2 ^ e)
  | _ => none

/-- The sign a value carries. -/
def FNum.sign? : FNum → Option Bool
  | .fin neg _ _ _ => some neg
  | .inf neg => some neg
  | .nan _ => none

/-- `q` is the value of code `c` of format `f`, and is what rounding `v` to the values of `f` by mode `rm` gives
(07_numbers.md R149): nearest with ties to an even code, toward zero, toward minus infinity, toward plus infinity. -/
def RoundsTo (f : Fmt) (rm : Nat) (v : Rat) (c : Nat) (q : Rat) : Prop :=
  (f.decode false c).rat? = some q ∧
  ∀ c' q', c' < 2 ^ (f.eb + f.mb + 1) → (f.decode false c').rat? = some q' →
    if rm = 0 then (v - q).abs ≤ (v - q').abs ∧ ((v - q).abs = (v - q').abs → q' ≠ q → c % 2 = 0)
    else if rm = 1 then q.abs ≤ v.abs ∧ (q'.abs ≤ v.abs → q'.abs ≤ q.abs)
    else if rm = 2 then q ≤ v ∧ (q' ≤ v → q' ≤ q)
    else v ≤ q ∧ (v ≤ q' → q ≤ q')

/-- The values that R149 and R150 round into. -/
def floatFormats : List Fmt :=
  [fmtE4M3, fmtE5M2, fmtE2M3, fmtE3M2, fmtE2M1, fmtBF16, fmtF16, fmtF32]

/-- `n` is the value `v` rounded to an integer by mode `rm` (07_numbers.md R149). -/
def RoundsInt (rm : Nat) (v : Rat) (n : Int) : Prop :=
  if rm = 0 then (v - n).abs ≤ 1 / 2 ∧ ((v - n).abs = 1 / 2 → n % 2 = 0)
  else if rm = 1 then 0 ≤ n * v ∧ n.natAbs ≤ v.abs ∧ v.abs < n.natAbs + 1
  else if rm = 2 then (n : Rat) ≤ v ∧ v < n + 1
  else v ≤ n ∧ (n : Rat) < v + 1

/-- Mode `rm` takes a magnitude of that sign away from zero: RD below zero, RU above it (07_numbers.md R149). -/
def awayFrom (rm : Nat) (neg : Bool) : Prop := (rm = 2 ∧ neg = true) ∨ (rm = 3 ∧ neg = false)

/-- A magnitude rounds to at least `m`, whose next lower neighbour is `m - u`; on a tie under RNE `up` says which of the
two it takes (07_numbers.md R149). -/
def Reaches (rm : Nat) (neg up : Bool) (m u v : Rat) : Prop :=
  (rm = 0 ∧ (if up then m - u / 2 ≤ v else m - u / 2 < v)) ∨ (rm ≠ 0 ∧ awayFrom rm neg ∧ m - u < v)
    ∨ (rm ≠ 0 ∧ ¬awayFrom rm neg ∧ m ≤ v)

/-- What a code below the sign bit of a float kind stands for, as a magnitude (07_numbers.md R145). -/
def Fmt.magnitude (f : Fmt) (c : Nat) : Rat :=
  if c < 2 ^ f.mb then (c : Rat) * 2 ^ (1 - (f.bias : Int) - f.mb)
  else (2 ^ f.mb + c % 2 ^ f.mb : Nat) * 2 ^ ((c / 2 ^ f.mb : Nat) - (f.bias : Int) - f.mb)

/-- A value overflows when it rounds to the code after the largest finite one; that code is even where the largest is
odd (07_numbers.md R149). -/
def Fmt.Overflows (f : Fmt) (rm : Nat) (neg : Bool) (v : Rat) : Prop :=
  Reaches rm neg (f.top % 2 == 1) (f.magnitude (f.top + 1)) (f.magnitude (f.top + 1) - f.magnitude f.top) v.abs

/-- A value is tiny when, rounded to the kind's precision, it stays below the smallest normal value (07_numbers.md
R149). -/
def Fmt.Tiny (f : Fmt) (rm : Nat) (neg : Bool) (v : Rat) : Prop :=
  ¬Reaches rm neg true (2 ^ (1 - (f.bias : Int))) (2 ^ (-(f.bias : Int) - f.mb)) v.abs

/-- The code without its sign that an overflow leaves (07_numbers.md R149, R150). -/
def Fmt.over (f : Fmt) (rm : Nat) (sat neg : Bool) (c : Nat) : Prop :=
  (sat = true ∨ f.nan = none → c = f.top)
  ∧ (sat = false → f.ieee = false → ∀ n, f.nan = some n → c = n)
  ∧ (sat = false → f.ieee = true → (rm = 0 ∨ awayFrom rm neg → c = (2 ^ f.eb - 1) * 2 ^ f.mb)
      ∧ (rm ≠ 0 → ¬awayFrom rm neg → c = f.top))

/-- Every element `e` of VD, of `w` bits, is `(x l e).1` in the lanes the word acts on, the bits above the `n` elements
are 0, the other lanes keep their registers; and FLAGS gain each flag that some element of some such lane raises
(07_numbers.md R154). -/
def ElemResults (h : Here) (g : Guard) (ty : BitVec 4) (vd : BitVec 7) (w n : Nat) (x : Nat → Nat → Nat × BitVec 9)
    (b : Band) : Prop :=
  (∀ l, l < 32 →
    (h.lanes g l → (∀ e, e < n → elemOf w e (b.srcV ty.toNat l vd.toNat) = (x l e).1 % 2 ^ w)
      ∧ (b.srcV ty.toNat l vd.toNat).toNat < 2 ^ (w * n))
    ∧ (¬h.lanes g l → ∀ n, n ∈ destV ty vd → b.v32 l n = h.band.v32 l n))
  ∧ ∀ i, i < 9 → (b.flags.getLsbD i = true ↔
      h.band.flags.getLsbD i = true
        ∨ ∃ l, l < 32 ∧ h.lanes g l ∧ ∃ e, e < n ∧ ((x l e).2).getLsbD i = true)

/-- Element `e` of operand A, B or C of a float instruction in lane `l`, a subnormal read as a zero of its sign under FTZ
(07_numbers.md R162). -/
def Here.fltA (h : Here) (f : FV) (l e : Nat) : FNum := fElem f e (h.band.srcV f.ty.toNat l f.va.toNat)
def Here.fltB (h : Here) (f : FV) (l e : Nat) : FNum := fElem f e (h.band.srcF f l)
def Here.fltC (h : Here) (f : FV) (l e : Nat) : FNum := fElem f e (h.band.srcV f.ty.toNat l f.vc.toNat)

/-- A float instruction: each element is the exact result of `op`, rounded once into the kind; its flags are those of the
operation and of the rounding (07_numbers.md R162). -/
def FloatOp (i : FV → Instr) (op : FV → FNum → FNum → FNum → FNum × BitVec 9) : Prop :=
  LaneOp i (fun f => [f.vd.toNat]) (fun _ => []) (fun f h b =>
    ElemResults h f.g 0 f.vd (anyWidth f.ty.toNat) (anyCount f.ty.toNat) (fun l e =>
      let r := op f (h.fltA f l e) (h.fltB f l e) (h.fltC f l e)
      let q := (tyFmt f.ty.toNat).round (rmOf f) false (ftzOf f) r.1
      (q.1, r.2 ||| q.2)) b)

/-! ### Memory -/

/-! #### What is outstanding -/

/-- Element `e` of `o` is in the log of the band of `h` and not performed. -/
def Here.Pending (h : Here) (o : MemOp) (e : Elem) : Prop := o ∈ h.band.log ∧ e ∈ o.elems ∧ e.st.isDone = false

/-- The elements that are held until RTE: those in which a fault stands, and those that wait for such an element, but for what
the handler issued, which RTE's reissue will follow (08_memory.md R189, R190, 15_traps.md R391). -/
inductive Here.Held (s : State) (h : Here) : MemOp → Elem → Prop
  | hurt {o e} : h.Pending o e → e.st.isHurt = true → Here.Held s h o e
  | behind {o e p d} : h.Pending o e → Here.Held s h p d → s.waits h o e p d = true
      → ¬(h.band.tl = true ∧ h.band.killed = false ∧ p.id < h.band.trapAt ∧ h.band.trapAt ≤ o.id) → Here.Held s h o e

/-- Word `i` logs operation `op`: from `s0`, the number of the operation is drawn, the word goes on to the next, and the
band's operand log gains the operation; nothing else changes (08_memory.md R188). -/
def Logs (i : Instr) (s s0 : State) (h : Here) (op : MemOp) : Prop :=
  ∃ t b, exec i s = .next t ∧ Beside h { s0 with nextId := s0.nextId + 1 } t ∧ t.band? h.core h.slot = some b
    ∧ b = { h.band with p := h.band.p + 8, icnt := h.band.icnt + 1, yld := false, log := h.band.log ++ [op] }

/-- Whether the band has room for one more operation of the class of `kind` (08_memory.md R218). -/
def Here.room (h : Here) (s : State) (kind : OpKind) : Prop := (if kind.isLd then s.ldCount h else s.stCount h) < 63

/-- Word `i` accesses memory for the lanes `ls` as `k` and `x` say, `m` being its Running: it waits while its class is
full or, for a release, while an earlier operation is outstanding (08_memory.md R195, R218); the lowest lane whose address
is refused takes a precise MEM trap (R187); else the operation is logged with one element for each lane, a release first
performing what the band wrote (R188, R195). -/
def Accesses (i : Instr) (s : State) (h : Here) (m : LaneMask) (k : MemAsk) (ls : List Nat) (x : Nat → Access) : Prop :=
  (¬h.room s k.kind ∨ (k.rel = true ∧ s.drained h = false) → exec i s = .next s)
  ∧ (h.room s k.kind → (k.rel = true → s.drained h = true) →
      (∀ a b l e, ls = a ++ l :: b → (∀ n ∈ a, ∃ r, s.locate h k.sp k.size k.need (x n).addr = .ok r)
        → s.locate h k.sp k.size k.need (x l).addr = .error e →
        exec i s = .next (s.trap h h.band 4 (memDetail e l false false (x l).addr.toNat) m))
      ∧ ∀ (loc : Nat → Loc) (cp : Nat → Nat),
        (∀ l ∈ ls, s.locate h k.sp k.size k.need (x l).addr = .ok (loc l, cp l)) →
        Logs i s (if k.rel then s.release h.core h.slot k.scope else s) h
          { id := s.nextId, kind := k.kind, size := k.size, scope := k.scope, acq := k.acq, rel := k.rel, dst := k.dst,
            aop := k.aop, p := h.band.p, kept := false,
            elems := ls.map fun l => ⟨l, loc l, (x l).data, (x l).cmp, if k.cp = 0 then cp l else k.cp,
              s.epochFor (loc l), none, s.nextId, [], .pending⟩ })

/-- A lane access: with no lane to act on it has no effect; in a PAIRED crew the forms of 15_traps.md R373 trap where a
lane and its shadow differ, and else access memory for the primary lanes only. -/
def LaneAccess (i : Instr) (g : Guard) (pairs : Bool) (k : MemAsk) (x : Here → Nat → Access) : Prop :=
  ∀ s h, Ready s h →
    let m := h.band.guarded g
    let same : Nat → Prop := fun l => (h.lanes g l ↔ h.lanes g (l + 16)) ∧ (h.lanes g l → x h l = x h (l + 16))
    (m = 0 → Runs i s h [] [] [] (KeepsFlags h))
    ∧ (m ≠ 0 → ∀ l, l < 16 → pairs = true → h.crew.paired = true → ¬same l → (∀ n, n < l → same n) →
        exec i s = .next (s.trap h h.band 11 (hwDetail 3 l (BitVec.ofNat 32 (h.band.p.toNat / 8))) m))
    ∧ (m ≠ 0 → pairs = true → h.crew.paired = true → (∀ l, l < 16 → same l) →
        Accesses i s h m k ((lanesOf m).filter fun l => decide (l < 16)) (x h))
    ∧ (m ≠ 0 → (pairs = true → h.crew.paired = false) → Accesses i s h m k (lanesOf m) (x h))

/-- A band-level access, by Leader when the guard holds there (08_memory.md R208). -/
def BandAccess (i : Instr) (g : Guard) (k : MemAsk) (x : Here → Access) : Prop :=
  ∀ s h, Ready s h →
    (h.band.leads g = false → Runs i s h [] [] [] (KeepsFlags h))
    ∧ (h.band.leads g = true → Accesses i s h h.band.running k [h.band.leader] fun _ => x h)

/-- The low `u` bytes of the register group at `n` in lane `l`: byte `i` is byte i mod 4 of V[l][n + i div 4]
(08_memory.md R207). -/
def Here.group (h : Here) (n u l : Nat) : List Byte :=
  (List.range u).map fun i => (h.band.v32 l (n + i / 4)).extractLsb' (8 * (i % 4)) 8

/-- The address of 08_memory.md R206: AM, SP, VA, SB and the offset in bytes. -/
def Here.address (h : Here) (am : BitVec 2) (sp : BitVec 3) (va : BitVec 7) (sb : BitVec 6) (off : Int) (l : Nat) : DWord :=
  BitVec.ofInt 64 ((if am = 0 then (if sp = 4 then ((h.band.v64 l va.toNat).toNat : Int) else (h.band.v32 l va.toNat).toNat)
    else if am = 1 then ((h.band.sreg sb.toNat).toNat : Int)
    else (h.band.sreg sb.toNat).toNat + (h.band.v32 l va.toNat).toNat) + off)

/-- The offset of F-M in bytes: OFF13 in units of the width (08_memory.md R206). -/
def memOffset (f : FM) : Int := f.off.toInt * 2 ^ f.w.toNat

/-- Window `n` covers an address: VWn.V is set, va[63:57] is zero, and VBASE ≤ va < VBASE + (SIZE + 1) × 2^16
(08_memory.md R180, R181). -/
def Ctx.Covers (x : Ctx) (n : Nat) (va : DWord) : Prop :=
  let lo := (x.vw.get 0 (2 * n)).toNat
  let hi := (x.vw.get 0 (2 * n + 1)).toNat
  va.toNat < 2 ^ 57 ∧ lo % 2 = 1
  ∧ lo / 2 ^ 16 % 2 ^ 41 * 2 ^ 16 ≤ va.toNat ∧ va.toNat < lo / 2 ^ 16 % 2 ^ 41 * 2 ^ 16 + (hi % 2 ^ 24 + 1) * 2 ^ 16

/-- Window `n` grants what an access needs (08_memory.md R180, R181). -/
def Ctx.Permits (x : Ctx) (n : Nat) (need : Need) : Prop :=
  let lo := (x.vw.get 0 (2 * n)).toNat
  (need = .r ∨ need = .rw → lo / 2 % 2 = 1) ∧ (need = .w ∨ need = .rw → lo / 4 % 2 = 1) ∧ (need = .x → lo / 8 % 2 = 1)

/-- An element of a logged operation of the band of `h`, a band that runs no handler, which may be performed now; no other
element or operation goes by its lane or its number. -/
structure Due (s : State) (h : Here) (o : MemOp) (e : Elem) : Prop where
  here  : s.hereAt h.core h.slot = some h
  op    : h.band.log.find? (fun p => p.id == o.id) = some o
  elem  : o.elems.find? (fun d => d.lane == e.lane) = some e
  ops   : ∀ p ∈ h.band.log, p.id = o.id → p = o
  lanes : ∀ d ∈ o.elems, d.lane = e.lane → d = e
  lane  : e.lane < 32
  st    : e.st = .pending
  go    : s.mayGo h o.id e.lane = true
  calm  : h.band.tl = false ∧ h.band.killed = false ∧ o.kept = false

/-- The band with an element of its log changed. -/
def Band.withElem (b : Band) (o : MemOp) (e : Elem) (f : Elem → Elem) : Band :=
  { b with log := b.log.map fun p => if p.id = o.id then { p with elems := p.elems.map fun x =>
      if x.lane = e.lane then (f x) else x } else p }

/-- The band after element `e` of operation `o` has been performed with `d`: while another element is outstanding, the
element is done; else the operation leaves the log and its destination is written (08_memory.md R188, R189, R207, R208,
R212). `n` is the number that an acquire is marked with (R195). -/
def Here.Performed (h : Here) (o : MemOp) (e : Elem) (d : List Byte) (n : Nat) (b : Band) : Prop :=
  let data : Nat → Option (List Byte) := fun l =>
    if l = e.lane then some d else (o.elems.find? fun x => x.lane == l).bind fun x => match x.st with | .done y => some y | _ => none
  let all := ∀ x ∈ o.elems, x.lane = e.lane ∨ x.st.isDone = true
  let word : List Byte → Nat → Nat := fun y i => ofBytes ((y.drop i).take 4)
  let at_ := if o.acq then n else h.band.acqAt
  (¬all → b = { h.band.withElem o e fun x => { x with st := .done d } with acqAt := at_ })
  ∧ (all → b = { h.band with log := h.band.log.filter fun p => p.id != o.id, v := b.v, s := b.s, acqAt := at_ }
    ∧ (∀ n l, l < 32 → b.v32 l n =
        if (o.kind = .load ∨ o.kind = .loadT ∨ o.kind = .atom ∨ o.kind = .cas)
            ∧ o.dst ≤ n ∧ n < o.dst + (if o.size ≤ 4 then 1 else o.size / 4) then
          (match data (if h.crew.paired = true ∧ (o.kind = .atom ∨ o.kind = .cas) then l % 16 else l) with
           | some y => BitVec.ofNat 32 (if o.size ≤ 4 then ofBytes y else word y (4 * (n - o.dst)))
           | none => h.band.v32 l n)
        else h.band.v32 l n)
    ∧ ∀ n, b.sreg n = if (o.kind = .loadS ∨ o.kind = .atomS) ∧ n = o.dst then
          BitVec.ofNat 64 (ofBytes ((o.elems.head?.bind fun x => data x.lane).getD []))
        else h.band.sreg n)

/-- Byte `k` begins a 64-bit part of a wide element that is not yet performed (08_memory.md R194). -/
def Elem.Lacks (e : Elem) (size k : Nat) : Prop := k % 8 = 0 ∧ k + 8 ≤ size ∧ ∀ g ∈ e.got, g.1 ≠ k

/-- The band after the part of a wide element at byte `k` has been performed with `d`: the element keeps it; with the last
part the element is performed (08_memory.md R194). -/
def Here.PartPerformed (h : Here) (o : MemOp) (e : Elem) (k : Nat) (d : List Byte) (n : Nat) (b : Band) : Prop :=
  let last := ∀ j, e.Lacks o.size j → j = k
  let whole : List Byte := (List.range (o.size / 8)).flatMap fun i =>
    ((e.got ++ [(k, d)]).find? fun g => g.1 == 8 * i).elim [] (·.2)
  (¬last → b = h.band.withElem o e fun x => { x with got := x.got ++ [(k, d)] })
  ∧ (last → h.Performed o e (if o.kind = .store then [] else whole) n b)

/-! ### Words that hand work to a unit -/

/-- The band after a word that leaves its lanes as they were: P and ICNT advance, YLD is cleared, and nothing else
changes. -/
def Band.stepped (b : Band) : Band := { b with p := b.p + 8, icnt := b.icnt + 1, yld := false }

/-- Word `i` goes on to the next with band `b`, and then `after` takes place; `s0` is the state it starts from, which
differs from `s` only in what the word does first. -/
def RunsThen (i : Instr) (s s0 : State) (h : Here) (b : Band) (after : State → State) : Prop :=
  ∃ t, exec i s = .next (after t) ∧ Beside h s0 t ∧ t.band? h.core h.slot = some b.stepped

/-- A precise MEM trap of a band-level word for address `a` (15_traps.md R358): the handler lanes are those of RUNNING. -/
def MemTraps (i : Instr) (s : State) (h : Here) (sub : Nat) (a : DWord) : Prop :=
  exec i s = .next (s.trap h h.band 4 (memDetail sub h.band.leader false false a.toNat) h.band.running)

/-- Every primary lane and its shadow are RUNNING together, or the crew is not PAIRED (15_traps.md R373). -/
def Here.Twinned (h : Here) : Prop :=
  h.crew.paired = true → ∀ l, l < 16 → h.band.running.getLsbD l = h.band.running.getLsbD (l + 16)

/-- An earlier access of the band to some of the scratchpad bytes `o` to `o + n - 1` of its crew is outstanding
(08_memory.md R190). -/
def Here.Waits (h : Here) (s : State) (o n : Nat) : Prop :=
  ∃ x ∈ s.live h, ∃ a, x.2.loc = .scr h.crew.member a ∧ a < o + n ∧ o < a + x.1.size

/-- A command that has just been issued: nothing of it is done. -/
def EngCmd.fresh (id slot crew fn : Nat) (block : List Byte) (stat obj : DWord) (sc : Nat) (rp : Bool) (sd : Nat)
    (p : BitVec 64) (since : Nat) : EngCmd :=
  { id := id, slot := slot, crew := crew, fn := fn, block := block, stat := stat, obj := obj, sc := sc, rp := rp, sd := sd,
    p := p, accepted := false, started := false, idx := [], cursor := 0, part := [], woff := 0, count := 0, pos := 0,
    left := 0, far := 0, bits := [], fault := none, wide := 0, sent := none, flags := 0, since := since, coll := none,
    finished := false }

/-- A copy command of core `k` that has started, waits for no response and is not finished. -/
structure Copying (s : State) (k : Nat) (c : EngCmd) (w : Crew) (x : Ctx) : Prop where
  cmd  : s.engCmd? k c.id = some c
  crew : s.crew? k c.crew = some w
  ctx  : s.ctx? w.task.ctx = some x
  runs : c.accepted = true ∧ c.started = true ∧ c.finished = false ∧ c.sent = none ∧ c.coll = none

/-- The next step of a command leaves `t`. -/
def EngGoes (s : State) (k : Nat) (c : EngCmd) (t : State) : Prop := exec (.engWritePerformed k c.id 1) s = .next t

/-- The command stops with a fault at address `a` (09_engines.md R227): nothing of it is left to do or to count; on its object,
when it has no status area that could lie there, the bytes it will not write are counted down, and the first fault takes
Err. -/
def EngStops (s : State) (k : Nat) (c : EngCmd) (w : Crew) (x : Ctx) (code aux : Nat) : Prop :=
  ∃ t d, EngGoes s k c t ∧ t.engCmd? k c.id = some d ∧ d.finished = true ∧ d.left = 0 ∧ d.sent = none
    ∧ d.fault = some (c.fault.getD (code, aux))
    ∧ (c.obj ≠ BitVec.allOnes 64 → c.stat = BitVec.allOnes 64 →
        let y := s.objRead k w c.obj.toNat
        let z := t.objRead k w c.obj.toNat
        z.inb = y.inb - BitVec.ofNat 32 (c.left - c.restFar s x) ∧ z.outb = y.outb - BitVec.ofNat 32 (c.restFar s x)
        ∧ (c.fault = none → y.phase < 2 → z.phase = 2 ∧ z.fcode = code % 256 ∧ z.faux = aux % 2 ^ 16))

/-- FCODE of the MEM condition that an address of the engine meets (09_engines.md R227). -/
def EngCode (sub code : Nat) : Prop :=
  (sub = 1 ∧ code = 3) ∨ (sub = 2 ∧ code = 4) ∨ (sub = 3 ∧ code = 5) ∨ (sub = 5 ∧ code = 6) ∨ (sub = 6 ∧ code = 7)
  ∨ (sub = 7 ∧ code = 8)

/-- Values that pairwise float additions of a list can leave, each rounded RNE, with the flags they raise (09_engines.md
R242). -/
inductive Combines (f : Fmt) : List Nat → Nat → BitVec 9 → Prop
  | one x : Combines f [x] x 0
  | two {l a b r x fl} : l.Perm (a :: b :: r) →
      Combines f ((f.round 0 false false (addNum 0 (f.decode false a) (f.decode false b)).1).1 :: r) x fl →
      Combines f l x (fl ||| (addNum 0 (f.decode false a) (f.decode false b)).2
        ||| (f.round 0 false false (addNum 0 (f.decode false a) (f.decode false b)).1).2)

/-- ENG with function `fn` (09_engines.md R220, R222, R230, R231). -/
def EngIssue (i : FE → Instr) (fn : Nat) : Prop :=
  ∀ s h f, Ready s h →
    let sa := h.band.sreg f.sa.toNat
    let so := h.band.sreg f.so.toNat
    let saOk := sa.toNat % 64 = 0 ∧ sa.toNat + 64 ≤ h.crew.size
    let soOk := so = BitVec.allOnes 64 ∨ (so.toNat % 16 = 0 ∧ so.toNat + 16 ≤ h.crew.size)
    let full := 32 ≤ (s.coreAt h.core).eng.length ∨ 15 ≤ s.engCount h
    (h.band.leads f.g = false → Runs (i f) s h [] [] [] (KeepsFlags h))
    ∧ (h.band.leads f.g = true → h.Twinned →
        (sa.toNat % 64 ≠ 0 → MemTraps (i f) s h 4 sa)
        ∧ (sa.toNat % 64 = 0 → h.crew.size < sa.toNat + 64 → MemTraps (i f) s h 3 sa)
        ∧ (saOk → so ≠ BitVec.allOnes 64 → so.toNat % 16 ≠ 0 → MemTraps (i f) s h 4 so)
        ∧ (saOk → so ≠ BitVec.allOnes 64 → so.toNat % 16 = 0 → h.crew.size < so.toNat + 16 → MemTraps (i f) s h 3 so)
        ∧ (saOk → soOk → (full ∨ h.Waits s sa.toNat 64) → exec (i f) s = .next s)
        ∧ (saOk → soOk → ¬full → ¬h.Waits s sa.toNat 64 → s.scrPoisoned h.core h.crew sa.toNat 64 = false →
            RunsThen (i f) s { s with nextId := s.nextId + 1 } h h.band fun t =>
              t.modCore h.core fun x => { x with eng := x.eng ++ [EngCmd.fresh s.nextId h.slot h.band.crew fn
                ((s.coreAt h.core).scr.read (h.crew.place + sa.toNat) 64) (h.band.sreg f.sb.toNat) so f.sc.toNat f.rp
                f.sd.toNat h.band.p s.cycle] }))

/-- A band-level barrier word on the object S[SO] names (09_engines.md R244): `go` says what it does when the offset is
good and no access of the band to the object's bytes is outstanding. -/
def ObjectWord (i : FE → Instr) (go : State → Here → FE → Nat → Prop) : Prop :=
  ∀ s h f, Ready s h →
    let o := h.band.sreg f.so.toNat
    (h.band.leads f.g = false → Runs (i f) s h [] [] [] (KeepsFlags h))
    ∧ (h.band.leads f.g = true →
        (o = BitVec.allOnes 64 → MemTraps (i f) s h 3 o)
        ∧ (o ≠ BitVec.allOnes 64 → o.toNat % 16 ≠ 0 → MemTraps (i f) s h 4 o)
        ∧ (o ≠ BitVec.allOnes 64 → o.toNat % 16 = 0 → h.crew.size < o.toNat + 16 → MemTraps (i f) s h 3 o)
        ∧ (o.toNat % 16 = 0 → o.toNat + 16 ≤ h.crew.size → h.Waits s o.toNat 16 → exec (i f) s = .next s)
        ∧ (o.toNat % 16 = 0 → o.toNat + 16 ≤ h.crew.size → ¬h.Waits s o.toNat 16 → go s h f o.toNat))

/-- The object at an SCR offset of the band's crew. -/
def Here.object (h : Here) (s : State) (o : Nat) : Obj :=
  Obj.ofNat (ofBytes ((s.coreAt h.core).scr.read (h.crew.place + o) 16))

/-- The fields of an object within their widths (09_engines.md R223). -/
def Obj.Fits (x : Obj) : Prop :=
  x.gen < 16 ∧ x.phase < 16 ∧ x.apend < 2 ^ 16 ∧ x.ainit < 2 ^ 16 ∧ x.fcode < 256 ∧ x.faux < 2 ^ 16

/-! ### The matrix unit -/

/-- The matrix word `i` with operation `op` (11_matrix.md R252, R253, R255): the object is checked as 09_engines.md R231
says; the word waits at the unit's and the band's limits, and for the band's accesses to the object; else it joins the
queue with what it read, its crew owns a unit that has no owner, and the object's INB counts one up. -/
def MatrixIssue (i : FX → Instr) (op : Nat) : Prop :=
  ∀ s h f, Ready s h →
    let so := h.band.sreg f.so.toNat
    let sb := h.band.sreg f.sb.toNat
    let soOk := so = BitVec.allOnes 64 ∨ (so.toNat % 16 = 0 ∧ so.toNat + 16 ≤ h.crew.size)
    let mx := (s.coreAt h.core).mx
    let full := 32 ≤ mx.queue.length ∨ 15 ≤ s.mxCount h
    let waits := so ≠ BitVec.allOnes 64 ∧ h.Waits s so.toNat 16
    let own := if mx.owner = none then { Matrix.reset with owner := some h.band.crew, queue := mx.queue, gts := mx.gts } else mx
    let gt := op = 0xB2 ∧ sb.getLsbD 63 = true
    let c : MxCmd := ⟨s.nextId, h.slot, h.band.crew, op, h.band.sreg f.sa.toNat, sb, so, h.band.slotDesc f.fsa.toNat,
      h.band.slotDesc f.fsb.toNat, f.bnk, f.imm, h.band.running, if gt then some h.crew.gtCount else none, h.band.p, false,
      decide (own.owner ≠ some h.band.crew), []⟩
    (h.band.leads f.g = false → Runs (i f) s h [] [] [] (KeepsFlags h))
    ∧ (h.band.leads f.g = true →
        (so ≠ BitVec.allOnes 64 → so.toNat % 16 ≠ 0 → MemTraps (i f) s h 4 so)
        ∧ (so ≠ BitVec.allOnes 64 → so.toNat % 16 = 0 → h.crew.size < so.toNat + 16 → MemTraps (i f) s h 3 so)
        ∧ (soOk → (full ∨ waits) → exec (i f) s = .next s)
        ∧ (soOk → ¬full → ¬waits → RunsThen (i f) s { s with nextId := s.nextId + 1 } h h.band fun t =>
            let t1 := t.modCore h.core fun x => { x with
              mx := { own with queue := mx.queue ++ [c],
                               gts := if gt then mx.gts ++ [(h.crew.gtCount, c)] else mx.gts } }
            let t2 := if gt then t1.modCrew h.core h.band.crew fun w => { w with gtCount := h.crew.gtCount + 1 } else t1
            if so = BitVec.allOnes 64 then t2 else t2.objEvent h.core h.band.crew so.toNat (Obj.count (-1) 0)))

/-- The accepted instruction at the head of a core's queue, of a crew that owns the unit, which needs no partner. -/
structure MxHead (s : State) (k : Nat) (c : MxCmd) (w : Crew) : Prop where
  queue    : ∃ rest, (s.coreAt k).mx.queue = c :: rest
  accepted : c.accepted = true
  owner    : c.notOwner = false
  alone    : c.gt = none
  crew     : s.crew? k c.crew = some w

/-- MX_COMPLETE leaves the unit `m`, its queue without the instruction; `post` holds of the state. -/
def MatrixDone (s : State) (k : Nat) (c : MxCmd) (m : Matrix → Matrix → Prop) (post : State → Prop) : Prop :=
  ∃ t, exec (.mxComplete k) s = .next t ∧ (∀ d, d ≠ k → (t.coreAt d).mx = (s.coreAt d).mx)
    ∧ (t.coreAt k).mx.queue = (s.coreAt k).mx.queue.filter (fun e => e.id != c.id)
    ∧ (t.coreAt k).mx.owner = (s.coreAt k).mx.owner ∧ (t.coreAt k).mx.gts = (s.coreAt k).mx.gts
    ∧ m (s.coreAt k).mx (t.coreAt k).mx ∧ post t

/-- A row of a crew's scratchpad operand. -/
def State.rowAt (s : State) (k : Nat) (w : Crew) (a n : Nat) : List Byte := (s.coreAt k).scr.read (w.place + a) n

/-- A matrix instruction of the crew `w` has run and completes (11_matrix.md R255): its errors go to its object and to the
log, its flags to its band, it leaves the queue, and its object counts it down. -/
def State.finished (s : State) (k : Nat) (c : MxCmd) (w : Crew) (gang : Option Nat) : State :=
  let d := State.mxRun { s with fresh := s.fresh + 1 } k w c (Config.free s.fresh) gang
  let s1 := d.errs.foldl (fun s e => s.unitError 7 k c.crew c.slot c.p c.op c.obj e) d.st
  let s2 := s1.modBand k c.slot fun b => if b.crew = c.crew then b.raiseLate c.id d.flags else b
  let s3 := s2.modCore k fun x => { x with mx := { x.mx with queue := x.mx.queue.filter fun e => e.id != c.id } }
  if c.obj = BitVec.allOnes 64 then s3 else s3.objEvent k c.crew c.obj.toNat (Obj.count 1 0)

/-- Nothing but a matrix unit, flags and energy has changed; no scratchpad has. -/
def UnitOnly (s t : State) : Prop :=
  t = { s with cores := t.cores, ctxs := t.ctxs, fresh := s.fresh + 1 } ∧ ∀ d, (t.coreAt d).scr = (s.coreAt d).scr

/-- The value of element `q` of bytes in the memory form of an integer kind (07_numbers.md R143). -/
def codeInt (d : Word) (bytes : List Byte) (q : Nat) : Int :=
  let code := ofBytes bytes / 2 ^ (slotBits d * q) % 2 ^ slotBits d
  match slotKind d with
  | .int w true => signedOf w code
  | .int w false => (code % 2 ^ w : Nat)
  | _ => 0

/-- Bank `b'` is bank `b` after the load `l` of slot `d` from the rows at `src` and the scales at `scl` (11_matrix.md R249,
R250, R266): each weight stands at its K-row and column, each scale at its block and column, the marks of the loaded columns
are gone from the macros in use; all else is as it was, or cleared where the bank held another slot's weights. -/
def BankLoaded (v : State) (k : Nat) (w : Crew) (d : Word) (l : LoadD) (src scl : Nat) (b b' : Bank) : Prop :=
  let wd := (cellsPer d).getD 2
  let row : Nat → List Byte := fun n => v.rowAt k w (src + n * l.rstr) (rowBytes d (32 * l.kb))
  let q0 := 32 * l.kbase / slotBlk d
  b'.slot = d
  ∧ (∀ n q, n < l.n → q < 32 * l.kb → b'.weight d (32 * l.kbase + q) (l.cbase + n) =
      if slotKindCode d = 5 then (t5Trits ((row n).getD (q / 5) 0).toNat).1.getD (q % 5) 0
      else signedOf wd (ofBytes (row n) / 2 ^ (wd * q) % 2 ^ wd))
  ∧ (∀ r j, j < slotN d → (r < 32 * l.kbase ∨ 32 * (l.kbase + l.kb) ≤ r ∨ j < l.cbase ∨ l.cbase + l.n ≤ j) →
      b'.weight d r j = if b.slot = d then b.weight d r j else 0)
  ∧ (∀ n q, n < l.n → q < l.blocks d →
      b'.scales.get 127 ((q0 + q) * 160 + (l.cbase + n)) = (v.rowAt k w (scl + n * l.blocks d) (l.blocks d)).getD q 0)
  ∧ (∀ q j, j < 160 → (q < q0 ∨ q0 + l.blocks d ≤ q ∨ j < l.cbase ∨ l.cbase + l.n ≤ j) →
      b'.scales.get 127 (q * 160 + j) = if b.slot = d then b.scales.get 127 (q * 160 + j) else 127)
  ∧ ∀ m x, x < 320 →
      let mine := 32 * l.kbase < 256 * m + 256 ∧ 256 * m < 32 * (l.kbase + l.kb) ∧ wd * l.cbase ≤ x ∧ x < wd * (l.cbase + l.n)
      ((b'.bad.get 0 m).getLsbD x = true ↔ b.slot = d ∧ (b.bad.get 0 m).getLsbD x = true ∧ ¬mine)
      ∧ ((b'.parity.get 0 m).getLsbD x = true ↔ b.slot = d ∧ (b.parity.get 0 m).getLsbD x = true ∧ ¬mine)

/-- The code of the scale of block `q`, column `j` of a bank: 127 where its slot has no scales (07_numbers.md R156). -/
def Bank.code (b : Bank) (q j : Nat) : Nat := if slotScl b.slot = true then (b.scales.get 127 (q * 160 + j)).toNat else 127

/-- Cell column `x` of macro `m` is bad where a product of K-rows below `kk` and columns below `nb` reads it (11_matrix.md
R262, R264). -/
def Bank.faulty (b : Bank) (kk nb m x : Nat) : Prop :=
  m < 8 ∧ 256 * m < kk ∧ x < (cellsPer b.slot).getD 2 * nb
    ∧ ((b.bad.get 0 m).getLsbD x = true ∨ (b.parity.get 0 m).getLsbD x = true)

/-- `acc'` is `acc` after a block of `rows` by `nb` elements at `base` took the products of the A rows `a`, with scale codes
`ea`, and the first columns of bank `b`, cut into blocks of `blk` K-rows (11_matrix.md R257, R261, R263): an element whose
row is poisoned or whose column is bad takes nothing, every other one each block's term, but for those with a scale code
0xFF; no other accumulator changes. -/
def TakesProducts (b : Bank) (kk blk nb base rows : Nat) (a : Nat → Nat → Int) (ea : Nat → Nat → Nat) (poisoned : Nat → Prop)
    (acc acc' : Tab Acc) : Prop :=
  (∀ i j, i < rows → j < nb →
    let x := base + i * nb + j
    let bad := poisoned i ∨ ∃ m c, b.faulty kk nb m c ∧ c / (cellsPer b.slot).getD 2 = j
    (bad → acc'.get (Acc.zero 0) x = acc.get (Acc.zero 0) x)
    ∧ (¬bad → acc'.get (Acc.zero 0) x = (List.range (kk / blk)).foldl (fun y q =>
        if ea i q = 0xFF ∨ b.code q j = 0xFF then y
        else y.add ((List.range blk).map fun r => a i (q * blk + r) * b.weight b.slot (q * blk + r) j).sum
          ((ea i q : Int) + b.code q j - 254)) (acc.get (Acc.zero 0) x)))
  ∧ ∀ x, (∀ i j, i < rows → j < nb → x ≠ base + i * nb + j) → acc'.get (Acc.zero 0) x = acc.get (Acc.zero 0) x

/-- A product has marked the faulty columns it met as Bad in bank `b`, and nothing else of the bank changed (11_matrix.md
R264). -/
def Bank.Marked (b b' : Bank) (met : Prop) (kk nb : Nat) : Prop :=
  b' = { b with bad := b'.bad } ∧ ∀ m x, (b'.bad.get 0 m).getLsbD x = true ↔
    (b.bad.get 0 m).getLsbD x = true ∨ (met ∧ b.faulty kk nb m x)

/-- The errors of a product, POISON, SCALENAN and CIMPAR in this order (11_matrix.md R262, R263): some poisoned row, the
lowest block with a scale code 0xFF, some bad column. -/
def ProductErrors (errs : List (Nat × Nat)) (poisoned nan : Nat → Prop) (faulty : Nat → Nat → Prop) : Prop :=
  ∃ p q z : List (Nat × Nat), errs = p ++ q ++ z
    ∧ ((p = [] ∧ ∀ i, ¬poisoned i) ∨ ∃ i, poisoned i ∧ p = [(0x0C, i)])
    ∧ ((q = [] ∧ ∀ i, ¬nan i) ∨ ∃ i, nan i ∧ (∀ j, nan j → i ≤ j) ∧ q = [(0x25, i)])
    ∧ ((z = [] ∧ ∀ m x, ¬faulty m x) ∨ ∃ m x, faulty m x ∧ z = [(0x26, x + m * 2 ^ 9)])

/-- What the groups of an MMAG do from unit `m` to unit `m'`, the first at tile row `base` (11_matrix.md R269), without poison
and bad columns: a group of no rows nothing; another one loads its weights, where it has some, into the bank that is not
selected, which becomes the selected one, and multiplies its rows. -/
def GroupsRun (v : State) (k : Nat) (w : Crew) (c : MxCmd) (t : Tile) (l : LoadD) : Nat → List Group → Matrix → Matrix → Prop
  | _, [], m, m' => m' = m
  | base, g :: gs, m, m' =>
    let blk := (blockSize c.fsa c.fsb t.k).getD 32
    let nq := if slotScl c.fsa then t.k / blk else 0
    (g.rows = 0 → GroupsRun v k w c t l base gs m m')
    ∧ (g.rows ≠ 0 → ∃ m1 m2 : Matrix,
        (g.wsrc = 0xFFFFFFFF → m1 = m)
        ∧ (g.wsrc ≠ 0xFFFFFFFF → m1.sel = (!m.sel) ∧ m1.bank m.sel = m.bank m.sel ∧ m1.acc = m.acc
            ∧ BankLoaded v k w c.fsb l g.wsrc g.wscl (m.bank !m.sel) (m1.bank !m.sel))
        ∧ m2.sel = m1.sel ∧ m2.bank0 = m1.bank0 ∧ m2.bank1 = m1.bank1
        ∧ TakesProducts (m1.bank m1.sel) t.k blk t.n (t.acc + base * t.n) g.rows
            (fun i q => codeInt c.fsa (v.rowAt k w (g.aoff + i * t.str) (rowBytes c.fsa t.k)) q)
            (fun i q => if nq = 0 then 127 else ((v.rowAt k w (t.ascl + (base + i) * nq) nq).getD q 0).toNat)
            (fun _ => False) m1.acc m2.acc
        ∧ GroupsRun v k w c t l (base + g.rows) gs m2 m')

/-- The `n`-th GT = 1 MMAs of a gang's members stand accepted at the heads of their cores' queues (11_matrix.md R260). -/
structure Paired (s : State) (gang : List (Nat × Nat)) (n : Nat) (cmd : Nat → MxCmd) (crew : Nat → Crew) : Prop where
  cores  : (gang.map (·.1)).Nodup
  crews  : ∀ (m : Nat) e, gang[m]? = some e → s.crew? e.1 e.2 = some (crew m) ∧ (crew m).gang = gang ∧ (crew m).member = m
  heads  : ∀ (m : Nat) e, gang[m]? = some e → (∃ rest, (s.coreAt e.1).mx.queue = cmd m :: rest) ∧ (cmd m).accepted = true
    ∧ (cmd m).notOwner = false ∧ (cmd m).op = 0xB2 ∧ (cmd m).gt = some n ∧ (cmd m).crew = e.2
  issued : ∀ (m : Nat) e, gang[m]? = some e → ∃ g, s.gtOf e n = some g ∧ g = { cmd m with accepted := g.accepted, seen := g.seen }

/-- Two members' operands agree: all but ACC (11_matrix.md R260). -/
def MxCmd.agrees (c d : MxCmd) : Prop :=
  c.sa = d.sa ∧ c.fsa = d.fsa ∧ c.fsb = d.fsb ∧ ∀ i, (i < 26 ∨ 40 ≤ i) → c.sb.getLsbD i = d.sb.getLsbD i

/-! ### The clause array -/

/-- The array of a cluster before a clause instruction of the band enters it: firmware gives back what it had taken from
the context (12_clause.md R278). -/
def Here.restored (h : Here) (s : State) (st : ClState) : State :=
  (s.modCl (clusterOf h.core) fun a => { a with owner := some h.ctxId, st := st }).modCtx h.ctxId fun v =>
    { v with arrays := v.arrays.drop (clusterOf h.core) }

/-- The clause word `i` with operation `op` (12_clause.md R278, R279, R284, R285): the object is checked as 09_engines.md
R231 says; the word waits at the queue's and the band's limits and for the band's accesses to the object; an array without
an owner that firmware had taken from the context is given back to it first; the word joins the queue with the scalars, the
512 features and the RUNNING lanes it read, and the object's INB counts one up. A context that does not own the array gets
NOARRAY. -/
def ClauseIssue (i : FX → Instr) (op : Nat) : Prop :=
  ∀ s h f, Ready s h →
    let q := clusterOf h.core
    let so := h.band.sreg f.so.toNat
    let soOk := so = BitVec.allOnes 64 ∨ (so.toNat % 16 = 0 ∧ so.toNat + 16 ≤ h.crew.size)
    let a := (s.clusterAt q).clause
    let full := 32 ≤ (a.queue.filter fun e => !e.isFence).length ∨ 15 ≤ s.clCount h
    let waits := so ≠ BitVec.allOnes 64 ∧ h.Waits s so.toNat 16
    (h.band.leads f.g = false → Runs (i f) s h [] [] [] (KeepsFlags h))
    ∧ (h.band.leads f.g = true →
        (so ≠ BitVec.allOnes 64 → so.toNat % 16 ≠ 0 → MemTraps (i f) s h 4 so)
        ∧ (so ≠ BitVec.allOnes 64 → so.toNat % 16 = 0 → h.crew.size < so.toNat + 16 → MemTraps (i f) s h 3 so)
        ∧ (soOk → (full ∨ waits) → exec (i f) s = .next s)
        ∧ (∀ st, soOk → ¬full → ¬waits → h.ctx.arrays.find q = some st → a.owner = none →
            exec (i f) s = exec (i f) (h.restored s st))
        ∧ (soOk → ¬full → ¬waits → (h.ctx.arrays.find q = none ∨ a.owner ≠ none) → ∃ feat : BitVec 512,
            (∀ k, k < 512 → feat.getLsbD k = (h.band.v32 (k / 16) (f.imm.toNat % 128)).getLsbD (k % 16))
            ∧ RunsThen (i f) s { s with nextId := s.nextId + 1 } h h.band fun t =>
                let c : ClCmd := ⟨s.nextId, h.core, h.slot, h.band.crew, h.ctxId, op, h.band.sreg f.sa.toNat,
                  h.band.sreg f.sb.toNat, so, feat, f.imm, h.band.running, h.band.p, false,
                  decide (a.owner ≠ some h.ctxId), [], [], 0, [], [], []⟩
                let t1 := t.modCl q fun x => { x with queue := x.queue ++ [c] }
                if so = BitVec.allOnes 64 then t1 else t1.objEvent h.core h.band.crew so.toNat (Obj.count (-1) 0)))

/-- The tables of a clause array list each row, cell, entry and class at most once, in order and within the array. -/
def ClState.tidy (a : ClState) : Bool :=
  let sorted : List Nat → Nat → Bool := fun l n => decide (l.Pairwise (· < ·)) && l.all fun k => decide (k < n)
  sorted a.rows.keys 2048 && (a.rows.all fun e => sorted e.2.keys 1024) && sorted a.cfg.keys 2048

/-- Every clause array, in a cluster or taken away from one, is tidy, and so are the rows that an inference has seen. -/
def State.arraysTidy (s : State) : Bool :=
  (s.clusters.all fun e => e.2.clause.st.tidy && e.2.clause.queue.all fun c => c.seen.all fun x =>
      decide (x.2.keys.Pairwise (· < ·)) && x.2.keys.all fun k => decide (k < 1024))
    && s.ctxs.all fun x => x.2.arrays.all fun a => a.2.tidy

/-- The accepted instruction at the head of a cluster's array, of a context that owns the array; no operand byte of its
crew is poisoned. -/
structure ClHead (s : State) (q : Nat) (c : ClCmd) (w : Crew) : Prop where
  queue    : ∃ rest, (s.clusterAt q).clause.queue = c :: rest
  accepted : c.accepted = true
  sent     : c.sent = []
  owner    : c.noArray = false
  crew     : s.crew? c.core c.crew = some w
  ctx      : ∃ x, s.ctx? c.ctx = some x
  clean    : (s.coreAt c.core).scr.poison = []
  tidy     : (s.clusterAt q).clause.st.tidy = true

/-- CL_COMPLETE leaves the array's state as `st` says, its queue without the instruction and the other arrays as they
were; `post` holds of the state. -/
def ClauseDone (s : State) (q : Nat) (c : ClCmd) (st : ClState → ClState → Prop) (post : State → Prop) : Prop :=
  ∃ t, exec (.clComplete q) s = .next t ∧ (∀ d, d ≠ q → (t.clusterAt d).clause = (s.clusterAt d).clause)
    ∧ (t.clusterAt q).clause.queue = (s.clusterAt q).clause.queue.filter (fun e => e.id != c.id)
    ∧ (t.clusterAt q).clause.owner = (s.clusterAt q).clause.owner
    ∧ st (s.clusterAt q).clause.st (t.clusterAt q).clause.st ∧ post t

/-- CL_COMPLETE ends the instruction with these errors, each in its object and in the log, and counts it down (12_clause.md
R285, R288); its energy is spent (20_host.md R414). -/
def ClauseEnds (s : State) (q : Nat) (c : ClCmd) (errs : List (Nat × Nat)) : Prop :=
  let s1 := (s.modCl q fun a => { a with queue := a.queue.filter fun e => e.id != c.id }).spend c.core c.crew 6 c.work
  let s2 := errs.foldl (fun s e => s.unitError 8 c.core c.crew c.slot c.p c.op c.obj e) s1
  exec (.clComplete q) s = .next (if c.obj = BitVec.allOnes 64 then s2
    else s2.objEvent c.core c.crew c.obj.toNat (Obj.count 1 0))

/-- CL_COMPLETE leaves the instruction in the queue as `d`, in the state `s1`. -/
def ClauseGoes (s : State) (q : Nat) (c : ClCmd) (s1 : State) (d : ClCmd) : Prop :=
  exec (.clComplete q) s = .next (s1.modCl q fun a => { a with queue := a.queue.map fun e => if e.id = c.id then d else e })

/-- A clause range (12_clause.md R290). -/
def ClauseRange (x : DWord) : Prop :=
  x.toNat < 2 ^ 32 ∧ x.toNat % 2 ^ 16 ≤ 2047 ∧ 1 ≤ x.toNat / 2 ^ 16 ∧ x.toNat % 2 ^ 16 + x.toNat / 2 ^ 16 ≤ 2048

/-- A class range (12_clause.md R294). -/
def ClassRange (x : DWord) : Prop :=
  x.toNat < 2 ^ 17 ∧ 1 ≤ x.toNat / 2 ^ 8 ∧ x.toNat % 2 ^ 8 + x.toNat / 2 ^ 8 ≤ 256

/-- What entry `c` of CFG says: EN, and its class. -/
def ClState.votes (a : ClState) (c k : Nat) : Prop := (a.cfg.get 0 c).toNat / 2 ^ 9 % 2 = 1 ∧ (a.cfg.get 0 c).toNat % 2 ^ 8 = k

/-- Lit(j) of 12_clause.md R276 for the features of a command. -/
def ClCmd.lit (c : ClCmd) (j : Nat) : Prop := if j < 512 then c.feat.getLsbD j = true else c.feat.getLsbD (j - 512) = false

/-- OutF of a row given by its cells, and OutI of an enabled one (12_clause.md R276). -/
def ClCmd.fires (c : ClCmd) (cell : Nat → Nat) : Prop := ∀ j, j < 1024 → 128 ≤ cell j → c.lit j
def ClCmd.infers (c : ClCmd) (cell : Nat → Nat) : Prop := c.fires cell ∧ ∃ j, j < 1024 ∧ 128 ≤ cell j

/-- The class sum of `k` over the clauses whose bit is set, by polarity (12_clause.md R294, R295). -/
def ClState.tally (a : ClState) (k : Nat) (bit : Nat → Bool) : Int :=
  ((List.range 2048).map fun c =>
    if (a.cfg.get 0 c).toNat / 2 ^ 9 % 2 = 1 ∧ (a.cfg.get 0 c).toNat % 2 ^ 8 = k ∧ bit c = true then
      (if (a.cfg.get 0 c).toNat / 2 ^ 8 % 2 = 0 then (1 : Int) else -1) else 0).sum

/-! ### Tasks -/

/-- A failure of a task instruction with a status code (13_tasks.md R318): in the reply with RP = 1, else a precise TASK
fault. -/
def TaskFails (i : Instr) (s : State) (h : Here) (f : FE) (code : Nat) : Prop :=
  (f.rp = true → Runs i s h [] [] [f.sd.toNat] (fun b => KeepsFlags h b ∧ (b.sreg f.sd.toNat).toNat = code * 2 ^ 48))
  ∧ (f.rp = false → exec i s = .next (s.trap h h.band 9 (BitVec.ofNat 96 code) h.band.running))

/-- The queue operand `v` names queue `n` of cluster `q`, which is the context's (13_tasks.md R305). -/
def Here.NamesQueue (h : Here) (s : State) (v : DWord) (q n : Nat) : Prop :=
  v.toNat < 2 ^ 9 ∧ n = v.toNat % 16 ∧ (s.queueAt q n).owner = some h.ctxId
  ∧ (v.toNat / 2 ^ 8 = 0 → v.toNat / 2 ^ 4 % 2 ^ 4 = 0 ∧ q = clusterOf h.core)
  ∧ (v.toNat / 2 ^ 8 = 1 → q = v.toNat / 2 ^ 4 % 2 ^ 4)

/-- The id of the `k`-th task that the band creates (13_tasks.md R301). -/
def Here.taskId (h : Here) (k : Nat) : BitVec 48 :=
  mix (h.crew.task.id.setWidth 64 ^^^ (BitVec.ofNat 64 (32 * h.crew.member + h.band.index) <<< 40) ^^^ BitVec.ofNat 64 k)

/-- The band with its reply, where it asks for one. -/
def Here.reply (h : Here) (f : FE) (v : DWord) : Band := if f.rp = true then h.band.setS f.sd.toNat v else h.band

/-- The same for a word that acts as an acquire: the operations that the band issues from now on stand behind it
(08_memory.md R195, 13_tasks.md R308). -/
def Here.acquires (h : Here) (s : State) (f : FE) (v : DWord) : Band := { h.reply f v with acqAt := s.nextId }

/-- The counter instruction `i`, which changes its counter by `g` (13_tasks.md R307, R308, R321). -/
def CounterOp (i : FE → Instr) (g : Word → Word → Word) : Prop :=
  ∀ s h f, Ready s h →
    let k := (h.band.sreg f.sa.toNat).toNat
    (h.band.leads f.g = false → Runs (i f) s h [] [] [] (KeepsFlags h))
    ∧ (h.band.leads f.g = true →
        (2 ^ 18 ≤ k ∨ h.ctx.dccnt.toNat ≤ k → TaskFails (i f) s h f 5)
        ∧ (k < 2 ^ 18 → k < h.ctx.dccnt.toNat →
            (s.drained h = false → exec (i f) s = .next s)
            ∧ (s.drained h = true →
              let at_ := 0x3F00000 + 4 * (h.ctx.dcbase.toNat + k)
              let x := BitVec.ofNat 32 (ofBytes (s.chip.read at_ 4))
              let y := g x ((h.band.sreg f.sb.toNat).setWidth 32)
              let s1 := s.release h.core h.slot 3
              let s2 := ({ s1 with chip := s1.chip.write 8 at_ (toBytes 4 y.toNat) }).refresh h.core
              RunsThen (i f) s (if y = 0 then s2.wakeHeld at_ else s2) h (h.acquires s f (y.signExtend 64)) id)))

/-! ### Traps -/

/-- The number in `n` bytes at offset `o` of the trap frame of the band of `h` (15_traps.md R359). -/
def Here.frameAt (h : Here) (s : State) (o n : Nat) : Nat :=
  ofBytes ((s.coreAt h.core).scr.read (h.crew.place + h.band.tfrm.toNat + o) n)

/-- Where the fields behind the vector registers stand in the frame (15_traps.md R359). -/
def Here.frameTail (h : Here) : Nat := 0x480 + 128 * h.crew.regs

/-- TFRM names a frame within the allotment (15_traps.md R358). -/
def Here.hasFrame (h : Here) : Prop :=
  h.band.tfrm ≠ BitVec.allOnes 64 ∧ h.band.tfrm.toNat + 0x680 + 128 * h.crew.regs ≤ h.crew.size

/-- The label that TVEC names for a cause group: ELBL for EMULATE, HLBL for the others (15_traps.md R355). -/
def Here.vector (h : Here) (group : Nat) : BitVec 16 :=
  if group = 2 then h.band.tvec.extractLsb' 16 16 else h.band.tvec.extractLsb' 0 16

/-- TVEC holds a handler for the group: a label of the module with ATTR 2 (15_traps.md R355). -/
def Here.hasHandler (h : Here) (group : Nat) : Prop := ∃ e, h.label (h.vector group) = some e ∧ e.attr = 2

/-- A trap permit of the core is free (15_traps.md R357). -/
def State.hasPermit (s : State) (h : Here) : Prop := ((s.coreAt h.core).bands.filter fun e => e.2.permit).length < 4

/-- The frame of `t` records the band `b`, the word, the cause and the handler lanes (15_traps.md R359). -/
structure Framed (s t : State) (h : Here) (b : Band) (group : Nat) (detail : BitVec 96) (lanes : LaneMask) : Prop where
  p      : h.frameAt t 0 8 = b.p.toNat
  word   : h.frameAt t 8 8 = (s.peekWord h b.p).toNat
  cause  : h.frameAt t 0x10 8 = group
  detail : h.frameAt t 0x18 12 = detail.toNat
  scnt   : h.frameAt t 0x24 4 = b.scnt.toNat
  lanes  : h.frameAt t 0x28 8 = lanes.toNat
  want   : ∀ l, l < 32 → h.frameAt t (0x30 + 2 * l) 2 =
    if (b.lane l).st = .wanting ∨ (b.lane l).st = .blocked then (b.lane l).want.toNat else 0xFFFF
  flags  : h.frameAt t 0x70 8 = b.flags.toNat
  states : ∀ l, l < 32 → h.frameAt t 0x78 8 / 4 ^ l % 4 =
    (match (b.lane l).st with | .running => 0 | .wanting => 1 | .blocked => 2 | .exited => 3)
  sregs  : ∀ n, n < 64 → h.frameAt t (0x80 + 8 * n) 8 = (b.sreg n).toNat
  preds  : ∀ l n, l < 32 → n < 128 → (h.frameAt t (0x280 + 16 * l) 16 / 2 ^ n % 2 = 1 ↔ (b.pred n).getLsbD l = true)
  vregs  : ∀ l n, l < 32 → n < h.crew.regs → h.frameAt t (0x480 + 128 * n + 4 * l) 4 = (b.v32 l n).toNat
  conds  : ∀ l, l < 32 → h.frameAt t (h.frameTail + 4 * l) 4 = if (b.lane l).st = .blocked then
    (b.lane l).obj.toNat + (b.lane l).gen.toNat * 2 ^ 20 + (b.lane l).pd.toNat * 2 ^ 24 else 0
  depths : ∀ l, l < 32 → h.frameAt t (h.frameTail + 0x80 + 2 * l) 2 = (b.lane l).depth.toNat
  tops   : ∀ l k, l < 32 → k < 4 → h.frameAt t (h.frameTail + 0xC0 + 8 * l) 8 / 2 ^ (16 * (3 - k)) % 2 ^ 16 =
    if k < (b.lane l).depth.toNat then ((b.lane l).top.getD k 0).toNat else 0
  yld    : h.frameAt t (h.frameTail + 0x1C0) 64 = if b.yld then 1 else 0

/-- The band has entered its handler (15_traps.md R358): the frame is written and nothing else of the memory; CAUSE,
DETAIL, TL and the permit are set; the handler lanes WANT the handler's label; P stands below every word. -/
structure Entered (s t : State) (h : Here) (b : Band) (group : Nat) (detail : BitVec 96) (lanes : LaneMask) : Prop where
  frame  : Framed s t h b group detail lanes
  bytes  : ∀ a, (a < h.crew.place + h.band.tfrm.toNat ∨ h.crew.place + h.band.tfrm.toNat + 0x680 + 128 * h.crew.regs ≤ a) →
    (t.coreAt h.core).scr.at a = (s.coreAt h.core).scr.at a
  device : t = { s with cores := t.cores }
  cores  : ∀ c, c ≠ h.core → t.coreAt c = s.coreAt c
  core   : ∃ x, t.coreAt h.core = x ∧ x = { s.coreAt h.core with bands := x.bands, scr := x.scr, last := x.last }
  bands  : ∀ k, k ≠ h.slot → t.band? h.core k = s.band? h.core k
  band   : ∃ x, t.band? h.core h.slot = some x
    ∧ x = { b with lanes := x.lanes, p := -8, cause := BitVec.ofNat 64 group, detail := detail, tl := true,
                   handler := lanes, late := 0, trapAt := s.nextId, permit := true, backoff := 64, waitTo := none,
                   park := none }
    ∧ ∀ l, l < 32 → x.lane l =
        if lanes.getLsbD l = true then { b.lane l with st := .wanting, want := h.vector group } else b.lane l

/-- Trap-after event of word `i` (15_traps.md R347, R357): the frame records the band behind the word, which counts as
issued once the handler is entered. -/
def TrapsAfter (i : Instr) (s : State) (h : Here) (group : Nat) (detail : BitVec 96) : Prop :=
  let t := s.trap h { h.band with p := h.band.p + 8, icnt := h.band.icnt + 1, yld := false } group detail h.band.running
  ((h.band.tl = false ∧ h.hasHandler group ∧ h.hasFrame ∧ s.hasPermit h) → exec i s = .next (t.retired h))
  ∧ (¬(h.band.tl = false ∧ h.hasHandler group ∧ h.hasFrame ∧ s.hasPermit h) → exec i s = .next t)

/-! ### The scheduler -/

/-- A core has room for a crew of `bands` bands with `regs` registers each and an allotment of `units` × 4 KiB, under a
carve-out of `c` KiB and at place `p` (13_tasks.md R309, R310): free slots, free register granules, a carve-out that the
crew accepts, which an empty core may change, and a free run of its scratchpad. -/
def State.RoomAt (s : State) (k bands regs carve units c p : Nat) : Prop :=
  let x := s.coreAt k
  let used := (x.bands.map fun e => match s.crew? k e.2.crew with | some w => w.regs / 8 | none => 0).sum
  bands ≤ ((List.range 32).filter fun j => (s.band? k j).isNone).length ∧ used + bands * regs / 8 ≤ 256
  ∧ (carve ≠ 0 → c = carveKiB carve ∧ (x.carve = c ∨ x.crews = []))
  ∧ (carve = 0 → 4 * units ≤ x.carve → c = x.carve)
  ∧ (carve = 0 → x.carve < 4 * units → x.crews = [] ∧ c ∈ [128, 256, 384, 448, 512] ∧ 4 * units ≤ c
      ∧ ∀ d ∈ [128, 256, 384, 448, 512], 4 * units ≤ d → c ≤ d)
  ∧ p % 4096 = 0 ∧ p + 4096 * units ≤ 1024 * c
  ∧ ∀ e ∈ x.crews, p + 4096 * units ≤ e.2.place ∨ e.2.place + e.2.size ≤ p

/-- No crew of the core keeps a crew of the context away: in deterministic mode a core holds one crew (13_tasks.md R309,
R315). -/
def State.MayShare (s : State) (k : Nat) (x : Ctx) : Prop :=
  ∀ e ∈ (s.coreAt k).crews, x.detm = false ∧ ∀ v, s.ctx? e.2.task.ctx = some v → v.detm = false

/-- What a cluster offers to those that may look at it: at place 0 its oldest launched bin band, at place n + 1 the oldest
eligible task of queue n (13_tasks.md R305, R313). -/
def State.Offers (s : State) (q : Nat) (want : Task → Bool) (e : Nat × Task) : Prop :=
  want e.2 = true
  ∧ (e.1 = 0 → ∃ a b, (s.clusterAt q).launched = a ++ e.2 :: b ∧ ∀ u ∈ a, want u = false)
  ∧ ∀ n, e.1 = n + 1 → e.2.held = false
      ∧ ∃ a b, (s.queueAt q n).tasks = a ++ e.2 :: b ∧ ∀ u ∈ a, u.held = true ∨ want u = false

/-- A list of what a cluster offers, the highest PRIO first, then the bin band, then the lowest queue (13_tasks.md
R313). -/
def State.Ranked (s : State) (q : Nat) (want : Task → Bool) (l : List Task) : Prop :=
  ∃ r : List (Nat × Task), l = r.map (·.2) ∧ (∀ e, e ∈ r ↔ s.Offers q want e ∧ e.2.prio < 8)
    ∧ r.Pairwise fun a b => b.2.prio < a.2.prio ∨ (a.2.prio = b.2.prio ∧ a.1 < b.1)

/-- Event `i` does nothing. -/
def Idles (i : Instr) (s : State) : Prop := exec i s = .next s

/-- Crew `n` of core `k`, of a context, alone in its gang, and resident. -/
structure Lone (s : State) (k n : Nat) (w : Crew) (x : Ctx) : Prop where
  crew : s.crew? k n = some w
  ctx  : s.ctx? w.task.ctx = some x
  gang : w.gang = [(k, n)]
  here : w.gone = false

/-- The context's reserve after `d` µJ have come back to it: never above CAP (20_host.md R414). -/
def Ctx.after (x : Ctx) (d : Int) : Int := min (x.reserve + d * 2 ^ 32) ((x.cap : Int) * 2 ^ 32)

/-- The action R375 of 15_traps.md chooses for a lone crew; `drain` says whether the drain test is made. -/
def State.choice (s : State) (k n : Nat) (w : Crew) (x : Ctx) (drain : Bool) : PreAct :=
  let v := (x.pdrain.toNat / 2 ^ (8 * w.task.prio)) % 2 ^ 8
  if drain = true ∧ 1 ≤ v ∧ v ≤ 31 ∧ s.remaining k n w < 2 ^ v then .drain v (s.maxIcnt k n)
  else if w.idem = true ∧ s.maxIcnt k n < x.pflush.toNat then .flush
  else .save s.cycle

/-- The state without crew `n` of core `k`, alone in its gang: its bands gone, its energy settled. -/
def State.vacated (s : State) (k n : Nat) (w : Crew) (x : Ctx) : State :=
  (s.setCtx w.task.ctx { x with reserve := x.after ((w.debit : Int) - ((w.used + 999) / 1000 : Nat)) }).modCore k fun y =>
    { y with crews := y.crews.drop n, bands := y.bands.filter fun b => b.2.crew != n }

/-- Crew `w`, number `n` of core `k`, is of lower PRIO than task `t`, which its removal would let in (15_traps.md R374). -/
def State.Holder (s : State) (t : Task) (k n : Nat) (w : Crew) : Prop :=
  (∃ e ∈ s.cores, e.1 = k ∧ (n, w) ∈ e.2.crews) ∧ w.gone = false ∧ w.task.prio < t.prio ∧ s.wouldAdmit w t = true

/-- Event `i` leaves the crew as it was but for what the scheduler has decided for it. -/
def Decides (i : Instr) (s : State) (k n : Nat) (p : PreAct) : Prop :=
  exec i s = .next (s.modCrew k n fun u => { u with pre := some p })

/-- Every band of the crew is at TL = 0. -/
def State.calm (s : State) (k n : Nat) : Prop := ∀ e ∈ (s.coreAt k).bands, e.2.crew = n → e.2.tl = false

/-- The crew has left its core: its record, its bands and their samples, and the ownership of the matrix unit; nothing
else of the core's bands and crews. -/
structure Left (s t : State) (k n : Nat) : Prop where
  crew  : t.crew? k n = none
  gone  : ∀ e ∈ (t.coreAt k).bands, e.2.crew ≠ n
  bands : ∀ j b, s.band? k j = some b → b.crew ≠ n → t.band? k j = some b
  crews : ∀ m, m ≠ n → t.crew? k m = s.crew? k m
  unit  : (t.coreAt k).mx.owner ≠ some n

/-! ### The fabric -/

/-- Inbound window `n` admits the request (14_fabric.md R339). -/
def Fabric.Admits (f : Fabric) (r : RemoteReq) (n : Nat) : Prop :=
  let lo := (f.inwin.get 0 (2 * n)).toNat
  let start := lo / 2 ^ 32 * 2 ^ 16
  let size := ((f.inwin.get 0 (2 * n + 1)).toNat % 2 ^ 32 + 1) * 2 ^ 16
  lo % 2 = 1 ∧ (r.kind = .read → lo / 2 % 2 = 1) ∧ (r.kind = .write → lo / 4 % 2 = 1)
  ∧ (r.kind = .atomic ∨ r.kind = .cas → lo / 8 % 2 = 1)
  ∧ lo / 2 ^ 8 % 2 ^ 8 ≤ r.src ∧ r.src ≤ lo / 2 ^ 16 % 2 ^ 8 ∧ start ≤ r.ia ∧ r.ia + r.size ≤ start + size

/-- No rehash is under way or waits to begin, no request is stalled, and every live plane's link is up. -/
structure Fabric.Quiet (f : Fabric) : Prop where
  rehash : f.rehash = none
  early  : f.early = []
  moving : ∀ r ∈ f.reqs, r.stalled = false
  links  : f.live &&& ~~~f.up = 0

/-- The state without the request `r`. -/
def State.without (s : State) (r : Req) : State :=
  { s with fab := { s.fab with reqs := s.fab.reqs.filter fun x => !(x.dst == r.dst && x.q == r.q) } }

/-- Element `e` of operation `o` of the band of `h` has faulted; after a timeout its number stays reserved for the replay, any
other end of its request frees it (14_fabric.md R342). -/
def Here.withFault (h : Here) (o : MemOp) (e : Elem) (sub reason : Nat) (q : Option (BitVec 16)) : Band :=
  { h.band with log := h.band.log.map fun p => if p.id = o.id then { p with elems := p.elems.map fun x =>
      if x.lane = e.lane then { x with st := .faulted sub reason, q := if sub = 10 then q else none } else x } else p }

/-- The request `r` is that of element `e` of operation `o` of the band of `h`, and the first of its number. -/
structure Awaits (s : State) (r : Req) (h : Here) (o : MemOp) (e : Elem) : Prop where
  req   : s.fab.reqs.find? (fun x => x.dst == r.dst && x.q == r.q) = some r
  here  : s.hereAt h.core h.slot = some h
  owner : r.owner = .band h.core h.slot o.id e.lane
  op    : h.band.log.find? (fun p => p.id == o.id) = some o
  elem  : o.elems.find? (fun d => d.lane == e.lane) = some e
  lane  : e.lane < 32
  st    : ∀ d ∈ o.elems, d.lane = e.lane → d.st = .sent r.dst r.q
  ops   : ∀ p ∈ h.band.log, p.id = o.id → p = o
  calm  : h.band.tl = false ∧ h.band.killed = false

/-- Steps 1 to 5 of 14_fabric.md R335 at a device that is not the committer, for planes that have died, of which `new` were
not known before: RHB, the new map, a REHASH to every live member on every surviving plane, each unacknowledged request of
those planes sent again in order on its new plane, and an RHACK once none of them is left. -/
def Retires (s t : State) (mask new : BitVec 8) : Prop :=
  let gen := s.fab.pgen + 1
  let map := deadMap s.fab.pmap mask (s.fab.live &&& ~~~mask)
  let left := s.fab.live &&& s.fab.up &&& ~~~mask
  let hit : Req → Bool := fun r => mask.getLsbD r.plane
  let again : Req → Req := fun r => if hit r then
    { r with plane := map.getD (h6 r.ia) 0, sent := s.cycle, stalled := false, replay := true } else r
  ∃ acked : Bool, t = { s with out := t.out, fab := { s.fab with
      rhb := true, rehash := some ⟨gen, mask, map, acked, s.cycle⟩, up := s.fab.up &&& ~~~new,
      reqs := s.fab.reqs.map again } }
    ∧ t.out = s.out ++ (s.peers.flatMap fun d => (planesOf left).map fun p => .rehash d p gen mask)
        ++ ((s.fab.reqs.filter hit).map fun r => .request (again r))
        ++ (if acked then [.rhack s.committer gen mask] else [])
    ∧ (acked = true ↔ ∀ r ∈ t.fab.reqs, r.replay = false ∧ r.stalled = false)

/-- The same for planes that return (14_fabric.md R337): the entries that were theirs at first move back; nothing is sent
again; the RHACK comes once no request is outstanding on the plane from which its entry moves. -/
def Returns (s t : State) (mask : BitVec 8) : Prop :=
  let gen := s.fab.pgen + 1
  let map := backMap s.fab.pmap mask
  ∃ acked : Bool, t = { s with out := t.out, fab := { s.fab with
      rhb := true, rehash := some ⟨gen, mask, map, acked, s.cycle⟩, up := s.fab.up ||| mask } }
    ∧ (∀ e, e < 64 → map.getD e 9 = if mask.getLsbD (e % 8) then e % 8 else s.fab.pmap.getD e 0)
    ∧ t.out = s.out ++ (s.peers.flatMap fun d => (planesOf (s.fab.live &&& s.fab.up)).map fun p => .rehash d p gen mask)
        ++ (if acked then [.rhack s.committer gen mask] else [])
    ∧ (acked = true ↔ ∀ r ∈ s.fab.reqs, r.replay = false ∧ r.stalled = false
        ∧ ¬(mask.getLsbD (map.getD (h6 r.ia) 0) = true ∧ r.plane ≠ map.getD (h6 r.ia) 0))

/-- Step 7 of 14_fabric.md R335: the new map is the committed one, and the planes of the mask have left LIVE or returned to
it (R337). -/
def Fabric.Committed (f g : Fabric) (r : Rehash) : Prop :=
  g.pmap = r.map ∧ g.pgen = r.gen ∧ g.rehash = none ∧ g.rhb = false
  ∧ (∀ p, p < 8 → f.dead.getLsbD p = !f.live.getLsbD p →
      g.live.getLsbD p = (f.live.getLsbD p != r.mask.getLsbD p) ∧ g.dead.getLsbD p = !g.live.getLsbD p)

/-- Nothing follows the commit of `r`: no REHASH of the next generation has come, and the links of the planes that are then
live are up. -/
def Fabric.Settles (f : Fabric) (r : Rehash) : Prop :=
  f.early = [] ∧ ((f.live &&& ~~~r.mask) ||| (f.dead &&& r.mask)) &&& ~~~f.up = 0

/-- The signals of an event of the fabric: vector 1 for each context of the physical function, then vector 2 (20_host.md
R405). -/
def State.pfSignals (s : State) : List Msg :=
  (s.pfContexts.map fun x => .msix ((s.ctx? x).elim 0 (·.fn)) 1) ++ [.msix 0 2]

/-! ### The choice of the band that issues -/

/-- The next move of the agenda is the issue of the band in slot `k` of core `c`, which a pipe selects: in deterministic mode at
its turn, which YLD does not forfeit; else ready, without a back-off, and the choice of 13_tasks.md R314. `h` is the band as it
then stands, in state `s0`. -/
def Selected (s s0 : State) (c k : Nat) (rest : List Action) (h : Here) : Prop :=
  s.agenda = .issue c k :: rest ∧
  let u : State := { s with agenda := rest, cur := some (c, k) }
  ∃ g, u.hereAt c k = some g ∧ g.crew.issues = true
    ∧ ((g.ctx.detm = false ∧ g.band.waitTo = none ∧ u.selects g = true
          ∧ h = { g with band := { g.band with picked := (u.coreAt c).retires } })
      ∨ (g.ctx.detm = true ∧ u.turn c g.crew = some k ∧ g.band.yld = false ∧ h = { g with band := { g.band with waitTo := none } }))
    ∧ s0 = u.setBand c k h.band

/-! ### Host commands (20_host.md) -/

/-- R404, R407: the function's rings run, its command ring holds an entry, and its completion ring has room. -/
def State.RingWaits (s : State) (n : Nat) : Prop :=
  (s.fnAt n).ren = true ∧ (s.fnAt n).rerr = false ∧ (s.fnAt n).cen = true ∧ (s.fnAt n).cerr = false
  ∧ (s.fnAt n).rhead ≠ (s.fnAt n).rtail
  ∧ BitVec.ofNat 12 (((s.fnAt n).ctail.toNat + 1) % 2 ^ (s.fnAt n).clog.toNat) ≠ (s.fnAt n).chead

/-- R404, R406, R407: the command heads the ring of its function, whose turn it is among the rings that wait, and
firmware, which runs no command, may begin it. -/
structure Heads (s : State) (code : Nat) (c : HostCmd) : Prop where
  ready : s.fw.ready = true ∧ s.fw.job = none
  fn    : c.fn < 16
  waits : s.RingWaits c.fn
  turn  : ∀ n, n < 16 → (n + 16 - s.fw.turn % 16) % 16 < (c.fn + 16 - s.fw.turn % 16) % 16 → ¬s.RingWaits n
  entry : s.hostMem.read ((s.fnAt c.fn).rbase.toNat + 64 * (s.fnAt c.fn).rhead.toNat) 8 =
    toBytes 2 code ++ toBytes 2 c.ctx.toNat ++ toBytes 4 c.tag.toNat
  code  : 1 ≤ code ∧ code ≤ 16

/-- R407: firmware has taken the next entry of the function's ring, and the turn passes to the next function. -/
def State.taken (s : State) (fn : Nat) : State :=
  { s with fw := { s.fw with turn := (fn + 1) % 16 }, fns := s.fns.put fn { s.fnAt fn with
      rhead := BitVec.ofNat 12 (((s.fnAt fn).rhead.toNat + 1) % 2 ^ (s.fnAt fn).rlog.toNat) } }

/-- R405 to R407: `u` is `t` with the command's completion written at the tail of its ring, and MSI-X vector 0 sent. -/
structure Posted (t u : State) (c : HostCmd) (status : Nat) (result : DWord) : Prop where
  rest   : u = { t with fw := { t.fw with job := none }, hostMem := u.hostMem, fns := u.fns, out := t.out ++ [.msix c.fn 0] }
  entry  : u.hostMem.read ((t.fnAt c.fn).cbase.toNat + 16 * (t.fnAt c.fn).ctail.toNat) 16 =
    toBytes 4 c.tag.toNat ++ toBytes 2 status ++ [0, 0] ++ toBytes 8 result.toNat
  others : ∀ a, (a < (t.fnAt c.fn).cbase.toNat + 16 * (t.fnAt c.fn).ctail.toNat
    ∨ (t.fnAt c.fn).cbase.toNat + 16 * (t.fnAt c.fn).ctail.toNat + 16 ≤ a) → u.hostMem.at a = t.hostMem.at a
  ring   : ∀ n, u.fnAt n = if n = c.fn then { t.fnAt n with
      ctail := BitVec.ofNat 12 (((t.fnAt n).ctail.toNat + 1) % 2 ^ (t.fnAt n).clog.toNat) } else t.fnAt n

/-- The command completes in this step, after the effects that make `t` of the state. -/
def Completes (i : Instr) (s : State) (c : HostCmd) (t : State) (status : Nat) (result : DWord) : Prop :=
  ∃ u, exec i s = .next u ∧ Posted t u c status result

/-- The command goes on in later steps: `t`, with the job that says how far it has come. -/
def Goes (i : Instr) (s t : State) (j : Job) : Prop := exec i s = .next { t with fw := { t.fw with job := some j } }

/-- The job of a command of which `k` stages are over, that began at cycle `since`. -/
def Job.at (i : Instr) (k since : Nat) : Job :=
  { cmd := i, stage := k, since := since, cursor := 0, part := [], woff := 0, out := 0, count := 0, sent := none, failed := false }

/-- LOAD_MODULE from state `b` with file `d`, checked as `z` (03_assembly.md R73, R75, 20_host.md R412): what verification
answers; a new module; the replacement of module `hd`, which waits until no task of it is resident. A module whose
replacement fails is open again (log entry 80, the model's choice). -/
def Loads (i : Instr) (s b : State) (c : HostCmd) (v : Ctx) (hd : Nat) (z : Zof) (d : List Byte) (j : Job) : Prop :=
  let x := c.ctx.toNat
  let r := s.fw.verify v.sigreq d z
  let mark : State → Bool → State := fun u old => u.modCtx x fun v => { v with modules := v.modules.map fun m =>
    (m.1, if m.1 = hd then { m.2 with old := old } else m.2) }
  let s1 : State := { b with fw := { b.fw with cache := r.2 } }
  let s2 : State := { s1 with fresh := s1.fresh + 1 }
  (r.1 ≠ 0 → Completes i s c (mark s1 false) r.1 0)
  ∧ (r.1 = 0 → hd = 0 → (∀ k, 1 ≤ k → k ≤ 65535 → v.modules.find k ≠ none) → Completes i s c (mark s1 false) 3 0)
  ∧ (r.1 = 0 → hd = 0 → (∃ k, 1 ≤ k ∧ k ≤ 65535 ∧ v.modules.find k = none) →
      ∃ k, 1 ≤ k ∧ k ≤ 65535 ∧ v.modules.find k = none
        ∧ (∀ e, s2.installModule x k v d z = .error e → Completes i s c (mark s1 false) e 0)
        ∧ ∀ t, s2.installModule x k v d z = .ok t → Completes i s c t 0 (BitVec.ofNat 64 k))
  ∧ ∀ m, r.1 = 0 → v.modules.find hd = some m → 0 < hd →
      let u := mark s1 true
      let w : State := { u with cores := u.cores.map fun e =>
        (e.1, { e.2 with labels := e.2.labels.filter fun l => !(l.1 == x && l.2.1 == hd) }) }
      ((∃ e ∈ s.crewsOf x, e.2.2.task.mod = hd) → Goes i s u { j with stage := 1, part := d })
      ∧ ((∀ e ∈ s.crewsOf x, e.2.2.task.mod ≠ hd) →
          (∀ e, w.installModule x hd v d z = .error e → Completes i s c (mark w false) e 0)
          ∧ ∀ t, w.installModule x hd v d z = .ok t → Completes i s c t 0 (BitVec.ofNat 64 hd))

/-- R406, R409: the command names an open context of its own function, which is not marked damaged. -/
def Names (s : State) (c : HostCmd) (v : Ctx) : Prop := s.ctx? c.ctx.toNat = some v ∧ v.fn = c.fn ∧ v.cerr.getLsbD 5 = false

end Sys2Proof.Machine
end

