-- ==== Sys2Proof/Certificates/Slice0/Obligations.lean ====
section
/-! DEFINITION. The statements for the provers. `Runs` (Sys2Proof/Safety.lean) says each time that the instruction
completes, what it changes and that nothing else changes. -/

open Sys2Proof Sys2Proof.Machine

/-! ### Integer lane instructions (05_integer.md) -/

/-- R114 to R116, R118: each element of VD becomes Fin of the exact x of the table of R118; IMULH (R119) the high half of
the exact product. -/
def Claims.IntegerArithmetic : Prop :=
  IntegerOp .iadd (fun _ a b _ => a + b) ∧ IntegerOp .isub (fun _ a b _ => a - b)
  ∧ IntegerOp .imul (fun _ a b _ => a * b) ∧ IntegerOp .imad (fun _ a b c => a * b + c)
  ∧ IntegerOp .imin (fun _ a b _ => min a b) ∧ IntegerOp .imax (fun _ a b _ => max a b)
  ∧ IntegerOp .iabs (fun _ a _ _ => (a.natAbs : Int)) ∧ IntegerOp .ineg (fun _ a _ _ => -a)
  ∧ IntegerOp .imulh (fun f a b _ => (a * b) / 2 ^ tyWidth f.ty.toNat)

/-- R120 to R122, R125: IMADW adds the product of two 32-bit values to a pair modulo 2^64; ISAD adds the absolute
differences of the elements to a 32-bit accumulator; IADDC adds with carry in and carry or overflow out; LEA adds a
scaled index to a pair modulo 2^64. None changes FLAGS. -/
def Claims.WideArithmetic : Prop :=
  LaneOp .imadw (fun f => [f.vd.toNat, f.vd.toNat + 1]) (fun _ => []) (fun f h b =>
    Writes64 h f.g f.vd.toNat (fun l => BitVec.ofInt 64 ((h.band.v64 l f.vc.toNat).toNat
      + readBy f.ty (h.band.v32 l f.va.toNat) * readBy f.ty (h.band.srcB32 f l))) b ∧ KeepsFlags h b)
  ∧ LaneOp .isad (fun f => [f.vd.toNat]) (fun _ => []) (fun f h b =>
    Writes32 h f.g f.vd.toNat (fun l => BitVec.ofNat 32 ((h.band.v32 l f.vc.toNat).toNat
      + ((List.range (tyCount f.ty.toNat)).map fun e => (h.opA f l e - h.opB f l e).natAbs).sum)) b ∧ KeepsFlags h b)
  ∧ LaneOp .iaddc (fun f => [f.vd.toNat]) (fun f => [f.vc.toNat]) (fun f h b =>
    let c : Nat → Nat := fun l => if (h.band.pred f.vc.toNat).getLsbD l then 1 else 0
    Writes32 h f.g f.vd.toNat (fun l =>
      BitVec.ofNat 32 ((h.band.v32 l f.va.toNat).toNat + (h.band.srcB32 f l).toNat + c l)) b
    ∧ WritesP h f.g f.vc.toNat (fun l =>
      let x := readBy f.ty (h.band.v32 l f.va.toNat) + readBy f.ty (h.band.srcB32 f l) + (c l : Nat)
      if f.ty = 1 then 2 ^ 32 ≤ x else x < -2 ^ 31 ∨ 2 ^ 31 ≤ x) b
    ∧ KeepsFlags h b)
  ∧ LaneOp .lea (fun f => [f.vd.toNat, f.vd.toNat + 1]) (fun _ => []) (fun f h b =>
    Writes64 h f.g f.vd.toNat (fun l => BitVec.ofInt 64 ((h.band.v64 l f.va.toNat).toNat
      + readBy f.ty (h.band.srcB32 f l) * 2 ^ f.sub.toNat)) b ∧ KeepsFlags h b)

/-- R123, R124: ICMP writes the AND of the element comparisons to a predicate; ISEL selects by a predicate; MOV copies
operand B; MOVI writes its immediate, or its sign or zero extension to a pair; IADDI adds its immediate, wrapping, or
clamping to I32 or to N32. -/
def Claims.CompareSelectMove : Prop :=
  LaneOp .icmp (fun _ => []) (fun f => [f.vd.toNat]) (fun f h b =>
    WritesP h f.g f.vd.toNat (fun l => ∀ e, e < tyCount f.ty.toNat → Compares f.sub.toNat (h.opA f l e) (h.opB f l e)) b
    ∧ KeepsFlags h b)
  ∧ LaneOp .isel (fun f => destV f.ty f.vd) (fun _ => []) (fun f h b =>
    WritesTy h f.g f.ty f.vd.toNat (fun l => if (h.band.pred f.vc.toNat).getLsbD l then h.band.srcV f.ty.toNat l f.va.toNat
      else h.band.srcB f f.ty.toNat l) b ∧ KeepsFlags h b)
  ∧ LaneOp .mov (fun f => destV f.ty f.vd) (fun _ => []) (fun f h b =>
    WritesTy h f.g f.ty f.vd.toNat (fun l => h.band.srcB f f.ty.toNat l) b ∧ KeepsFlags h b)
  ∧ (∀ s h f, Ready s h → (Instr.movi f).wf = true →
      Runs (.movi f) s h (if f.ty2 = 0 then [f.vd.toNat] else [f.vd.toNat, f.vd.toNat + 1]) [] [] (fun b =>
        (if f.ty2 = 0 then Writes32 h f.g f.vd.toNat (fun _ => f.imm) b
         else Writes64 h f.g f.vd.toNat (fun _ => if f.ty2 = 1 then f.imm.signExtend 64 else f.imm.setWidth 64) b)
        ∧ KeepsFlags h b))
  ∧ (∀ s h f, Ready s h → (Instr.iaddi f).wf = true →
      Runs (.iaddi f) s h [f.vd.toNat] [] [] (fun b =>
        let signed := f.ty2 != 2
        let read : Word → Int := fun x => if signed then x.toInt else (x.toNat : Int)
        let x : Nat → Int := fun l => read (h.band.v32 l f.va.toNat) + f.imm.toInt
        (∀ l, l < 32 → (h.lanes f.g l → FinOf (f.ty2 != 0) 32 signed (x l) (read (b.v32 l f.vd.toNat)))
          ∧ (¬h.lanes f.g l → b.v32 l f.vd.toNat = h.band.v32 l f.vd.toNat))
        ∧ RaisesIf h (∃ l, l < 32 ∧ h.lanes f.g l ∧ Clamps (f.ty2 != 0) 32 signed (x l)) flIOV b))

/-- R126, R127: the bitwise instructions act on 32 bits or on a pair; SHL multiplies by 2^n, wrapping or saturating; SHR
and SAR divide by 2^n toward minus infinity; ROT moves bit i to bit (i + n) mod w. The count n is element e of B read
unsigned. -/
def Claims.LogicAndShifts : Prop :=
  LaneOp .vand (fun f => destV f.ty f.vd) (fun _ => []) (fun f h b => BitsResult f h (fun l i =>
    (h.band.srcV f.ty.toNat l f.va.toNat).getLsbD i = true ∧ (h.band.srcB f f.ty.toNat l).getLsbD i = true) b ∧ KeepsFlags h b)
  ∧ LaneOp .vor (fun f => destV f.ty f.vd) (fun _ => []) (fun f h b => BitsResult f h (fun l i =>
    (h.band.srcV f.ty.toNat l f.va.toNat).getLsbD i = true ∨ (h.band.srcB f f.ty.toNat l).getLsbD i = true) b ∧ KeepsFlags h b)
  ∧ LaneOp .vxor (fun f => destV f.ty f.vd) (fun _ => []) (fun f h b => BitsResult f h (fun l i =>
    (h.band.srcV f.ty.toNat l f.va.toNat).getLsbD i ≠ (h.band.srcB f f.ty.toNat l).getLsbD i) b ∧ KeepsFlags h b)
  ∧ LaneOp .vnot (fun f => destV f.ty f.vd) (fun _ => []) (fun f h b => BitsResult f h (fun l i =>
    (h.band.srcV f.ty.toNat l f.va.toNat).getLsbD i = false) b ∧ KeepsFlags h b)
  ∧ LaneOp .shl (fun f => destV f.ty f.vd) (fun _ => []) (fun f h =>
    FinResult f h fun l e => h.opA f l e * 2 ^ elemOf (tyWidth f.ty.toNat) e (h.band.srcB f f.ty.toNat l))
  ∧ LaneOp .shr (fun f => destV f.ty f.vd) (fun _ => []) (fun f h =>
    FinResult f h fun l e => h.opA f l e / 2 ^ elemOf (tyWidth f.ty.toNat) e (h.band.srcB f f.ty.toNat l))
  ∧ LaneOp .sar (fun f => destV f.ty f.vd) (fun _ => []) (fun f h =>
    FinResult f h fun l e => h.opA f l e / 2 ^ elemOf (tyWidth f.ty.toNat) e (h.band.srcB f f.ty.toNat l))
  ∧ LaneOp .rot (fun f => destV f.ty f.vd) (fun _ => []) (fun f h b =>
    let w := tyWidth f.ty.toNat
    BitsResult f h (fun l i => ∃ j, j < w ∧ i = (j + (elemOf w 0 (h.band.srcB f f.ty.toNat l)) % w) % w
      ∧ (h.band.srcV f.ty.toNat l f.va.toNat).getLsbD j = true) b ∧ KeepsFlags h b)

/-- R128 to R130: BFE extracts and BFI inserts the field of `len` bits at `pos`; POPC counts the set bits, CLZ the leading
zero bits, BREV reverses the bits; PRMB chooses each byte by a nibble of its selector. -/
def Claims.BitFields : Prop :=
  LaneOp .bfe (fun f => destV f.ty f.vd) (fun _ => []) (fun f h b =>
    let w := tyWidth f.ty.toNat
    BitsResult f h (fun l i =>
      let pos := min ((h.band.srcB32 f l).toNat % 256) w
      let len := min ((h.band.v32 l f.vc.toNat).toNat % 256) (w - pos)
      let a := h.band.srcV f.ty.toNat l f.va.toNat
      (i < len ∧ a.getLsbD (pos + i) = true)
        ∨ (len ≤ i ∧ 0 < len ∧ tySigned f.ty.toNat = true ∧ a.getLsbD (pos + len - 1) = true)) b ∧ KeepsFlags h b)
  ∧ LaneOp .bfi (fun f => destV f.ty f.vd) (fun _ => []) (fun f h b =>
    let w := tyWidth f.ty.toNat
    BitsResult f h (fun l i =>
      let pos := min ((h.band.srcB32 f l).toNat % 256) w
      let len := min ((h.band.v32 l f.vc.toNat).toNat % 256) (w - pos)
      if pos ≤ i ∧ i < pos + len then (h.band.srcV f.ty.toNat l f.va.toNat).getLsbD (i - pos) = true
      else (h.band.srcV f.ty.toNat l f.vd.toNat).getLsbD i = true) b ∧ KeepsFlags h b)
  ∧ LaneOp .popc (fun f => destV f.ty f.vd) (fun _ => []) (fun f h b =>
    WritesTy h f.g f.ty f.vd.toNat (fun l => BitVec.ofNat 64 (((List.range (tyWidth f.ty.toNat)).filter fun i =>
      (h.band.srcV f.ty.toNat l f.va.toNat).getLsbD i).length)) b ∧ KeepsFlags h b)
  ∧ LaneOp .clz (fun f => destV f.ty f.vd) (fun _ => []) (fun f h b =>
    let w := tyWidth f.ty.toNat
    (∀ l, l < 32 →
      (h.lanes f.g l →
        let n := (b.srcV f.ty.toNat l f.vd.toNat).toNat
        n ≤ w ∧ (∀ i, i < n → (h.band.srcV f.ty.toNat l f.va.toNat).getLsbD (w - 1 - i) = false)
          ∧ (n < w → (h.band.srcV f.ty.toNat l f.va.toNat).getLsbD (w - 1 - n) = true))
      ∧ (¬h.lanes f.g l → ∀ n, n ∈ destV f.ty f.vd → b.v32 l n = h.band.v32 l n)) ∧ KeepsFlags h b)
  ∧ LaneOp .brev (fun f => destV f.ty f.vd) (fun _ => []) (fun f h b => BitsResult f h (fun l i =>
    (h.band.srcV f.ty.toNat l f.va.toNat).getLsbD (tyWidth f.ty.toNat - 1 - i) = true) b ∧ KeepsFlags h b)
  ∧ LaneOp .prmb (fun f => [f.vd.toNat]) (fun _ => []) (fun f h b =>
    (∀ l, l < 32 →
      (h.lanes f.g l → ∀ i, i < 4 →
        let sel := h.band.srcB32 f l
        let a := h.band.v32 l f.va.toNat
        let k := (sel.extractLsb' (4 * i) 2).toNat
        (b.v32 l f.vd.toNat).extractLsb' (8 * i) 8 =
          if sel.getLsbD (4 * i + 2) then 0
          else if sel.getLsbD (4 * i + 3) then (if a.getLsbD (8 * k + 7) then 0xFF#8 else 0)
          else a.extractLsb' (8 * k) 8)
      ∧ (¬h.lanes f.g l → b.v32 l f.vd.toNat = h.band.v32 l f.vd.toNat)) ∧ KeepsFlags h b)

/-- R114 to R130: the integer lane instructions that compute with their elements, and those that shift, mask and count their
bits. -/
def Obligations.IntegerInstructions : Prop :=
  Claims.IntegerArithmetic ∧ Claims.WideArithmetic ∧ Claims.LogicAndShifts ∧ Claims.BitFields

/-! ### Lane exchange, scalar and predicate instructions (05_integer.md) -/

/-- R131 to R136: SHFL copies VA from the source lane of its table, or from the lane itself when that lies outside the
band; SCAN and RDC at the integer kinds combine the elements of the lanes up to, or before, the lane, or of all of them,
with one Fin; CMPCT packs the lanes whose predicate is set toward lane 0; VOTE combines a predicate. In a PAIRED crew each
half of the band is a band of 16 lanes. -/
def Obligations.LaneExchange : Prop :=
  LaneOp .shfl (fun f => destV f.ty f.vd) (fun _ => []) (fun f h b =>
    (∀ l, l < 32 →
      (h.lanes f.g l →
        let n := if h.crew.paired then 16 else 32
        let i := l % n
        let sel := h.band.srcB32 f l
        let t : Int :=
          if f.sub = 0 then (sel.toNat % n : Nat) else if f.sub = 1 then (i : Int) - sel.toInt
          else if f.sub = 2 then (i : Int) + sel.toInt else if f.sub = 3 then ((i ^^^ (sel.toNat % n) : Nat) : Int)
          else (((List.range n).filter fun k => h.band.running.getLsbD (l - i + k)).headD i : Nat)
        b.srcV f.ty.toNat l f.vd.toNat
          = h.band.srcV f.ty.toNat (if 0 ≤ t ∧ t < n then l - i + t.toNat else l) f.va.toNat)
      ∧ (¬h.lanes f.g l → ∀ n, n ∈ destV f.ty f.vd → b.v32 l n = h.band.v32 l n)) ∧ KeepsFlags h b)
  ∧ (∀ rdc : Bool, LaneOp (if rdc then .rdc else .scan)
      (fun f => if f.sub.toNat / 16 % 2 = 1 then [f.vd.toNat, f.vd.toNat + 1] else destV f.ty f.vd) (fun _ => [])
      (fun f h b => f.ty ≠ 8 →
        let op := f.sub.toNat % 8
        let wide := f.sub.toNat / 16 % 2 = 1
        let excl := f.sub.toNat / 8 % 2 = 1
        let signed := tySigned f.ty.toNat
        let w := if wide then 32 else tyWidth f.ty.toNat
        let vals : Nat → Nat → List Int := fun l e =>
          ((h.mates f.g l).filter fun k => rdc || (if excl then decide (k < l) else decide (k ≤ l))).map fun k =>
            h.opA f k e
        let x : Nat → Nat → Int := fun l e =>
          if op = 0 then (vals l e).sum else if op = 1 then (vals l e).foldl min (kindMax w signed)
          else (vals l e).foldl max (kindMin w signed)
        let res : Nat → Nat → DWord := fun l e =>
          if wide then (b.v32 l (f.vd.toNat + e)).setWidth 64
          else BitVec.ofNat 64 (elemOf w e (b.srcV f.ty.toNat l f.vd.toNat))
        let val : Nat → Nat → Int := fun l e =>
          if signed then signedOf w (res l e).toNat else ((res l e).toNat : Int)
        (∀ l, l < 32 →
          (h.lanes f.g l → ∀ e, e < tyCount f.ty.toNat →
            if op ≤ 2 then FinOf (satBit f) w signed (x l e) (val l e)
            else ∀ i, i < w → ((res l e).getLsbD i = true ↔
              (if op = 3 then ∀ v ∈ vals l e, v / 2 ^ i % 2 = 1 else if op = 4 then ∃ v ∈ vals l e, v / 2 ^ i % 2 = 1
               else ((vals l e).filter fun v => v / 2 ^ i % 2 = 1).length % 2 = 1)))
          ∧ (¬h.lanes f.g l → ∀ n, n ∈ [f.vd.toNat, f.vd.toNat + 1] → b.v32 l n = h.band.v32 l n))
        ∧ RaisesIf h (∃ l, l < 32 ∧ h.lanes f.g l ∧ ∃ e, e < tyCount f.ty.toNat ∧ op ≤ 2 ∧
            Clamps (satBit f) w signed (x l e)) flIOV b))
  ∧ LaneOp .cmpct (fun f => destV f.ty f.vd) (fun _ => []) (fun f h b =>
    (∀ l, l < 32 →
      (h.lanes f.g l → ∀ k, k < 32 → (h.mates f.g l)[k]? = some l →
        let packed := (h.mates f.g l).filter fun j => (h.band.pred f.vc.toNat).getLsbD j
        (∀ j, j < 32 → packed[k]? = some j → b.srcV f.ty.toNat l f.vd.toNat = h.band.srcV f.ty.toNat j f.va.toNat)
        ∧ (packed[k]? = none → b.srcV f.ty.toNat l f.vd.toNat = h.band.srcV f.ty.toNat l f.vd.toNat))
      ∧ (¬h.lanes f.g l → ∀ n, n ∈ destV f.ty f.vd → b.v32 l n = h.band.v32 l n)) ∧ KeepsFlags h b)
  ∧ LaneOp .vote (fun f => if f.sub = 3 then [f.vd.toNat] else []) (fun f => if f.sub = 3 then [] else [f.vd.toNat])
    (fun f h b =>
      let p : Nat → Bool := fun k => (h.band.pred f.va.toNat).getLsbD k
      (if f.sub = 3 then
        ∀ l, l < 32 →
          (h.lanes f.g l → ∀ i, i < 32 → ((b.v32 l f.vd.toNat).getLsbD i = true ↔
            ∃ k, k < 32 ∧ h.mate f.g l k = true ∧ p k = true ∧ i = if h.crew.paired then k % 16 else k))
          ∧ (¬h.lanes f.g l → b.v32 l f.vd.toNat = h.band.v32 l f.vd.toNat)
      else WritesP h f.g f.vd.toNat (fun l =>
        if f.sub = 0 then ∀ k, k < 32 → h.mate f.g l k = true → p k = true
        else if f.sub = 1 then ∃ k, k < 32 ∧ h.mate f.g l k = true ∧ p k = true
        else ∀ k, k < 32 → h.mate f.g l k = true → p k = p l) b) ∧ KeepsFlags h b)

/-- R137: the scalar instructions, modulo 2^64. -/
def Claims.ScalarInstructions : Prop :=
  ScalarResult .sadd (fun _ a b _ r => r = a + b) ∧ ScalarResult .ssub (fun _ a b _ r => r = a - b)
  ∧ ScalarResult .smul (fun _ a b _ r => r = a * b)
  ∧ ScalarResult .sand (fun _ a b _ r => ∀ i, i < 64 → r.getLsbD i = (a.getLsbD i && b.getLsbD i))
  ∧ ScalarResult .sor (fun _ a b _ r => ∀ i, i < 64 → r.getLsbD i = (a.getLsbD i || b.getLsbD i))
  ∧ ScalarResult .sxor (fun _ a b _ r => ∀ i, i < 64 → r.getLsbD i = (a.getLsbD i != b.getLsbD i))
  ∧ ScalarResult .sshl (fun _ a b _ r => ∀ i, i < 64 → r.getLsbD i = (decide (b.toNat ≤ i) && a.getLsbD (i - b.toNat)))
  ∧ ScalarResult .sshr (fun f a b _ r => ∀ i, i < 64 →
      r.getLsbD i = if i + b.toNat < 64 then a.getLsbD (i + b.toNat) else (f.sub == 1 && a.getLsbD 63))
  ∧ ScalarResult .smov (fun _ _ b _ r => r = b)
  ∧ ScalarResult .scmp (fun f a b _ r =>
      let u := f.sub.getLsbD 3
      (Compares (f.sub.toNat % 8) (read64 u a) (read64 u b) → r = 1)
      ∧ (¬Compares (f.sub.toNat % 8) (read64 u a) (read64 u b) → r = 0))
  ∧ ScalarResult .ssel (fun _ a b d r => (d ≠ 0 → r = a) ∧ (d = 0 → r = b))
  ∧ ScalarResult .smin (fun f a b _ r =>
      let u := f.sub.getLsbD 0
      read64 u r = min (read64 u a) (read64 u b))
  ∧ ScalarResult .smax (fun f a b _ r =>
      let u := f.sub.getLsbD 0
      read64 u r = max (read64 u a) (read64 u b))
  ∧ ScalarResult .smovi (fun f _ _ _ r => r.toInt = f.imm.toInt)
  ∧ ScalarResult .smovh (fun f _ _ d r => ∀ i, i < 64 →
      r.getLsbD i = if 23 * f.sub.toNat ≤ i ∧ i < 23 * f.sub.toNat + 23 then f.imm.getLsbD (i - 23 * f.sub.toNat)
        else d.getLsbD i)

/-- The instructions that compare, select and move values, and those on scalar registers. -/
def Obligations.MovesAndScalars : Prop := Claims.CompareSelectMove ∧ Claims.ScalarInstructions

/-- R138, R140: SRDL reads a lane's register; the predicate instructions write the lanes of Running, and PCNT counts
them. -/
def Claims.PredicatesAndReads : Prop :=
  (∀ s h f, Ready s h → (Instr.srdl f).wf = true →
    Runs (.srdl f) s h [] [] [f.sd.toNat] (fun b => KeepsFlags h b
      ∧ (h.band.leads f.g = true → b.sreg f.sd.toNat
          = (h.band.v32 (if f.sub = 1 then h.band.leader else (h.band.sreg f.sb.toNat).toNat % 32) f.imm.toNat).setWidth 64)
      ∧ (h.band.leads f.g = false → b.sreg f.sd.toNat = h.band.sreg f.sd.toNat)))
  ∧ LaneOp .plop (fun _ => []) (fun f => [f.vd.toNat]) (fun f h b =>
    WritesP h f.g f.vd.toNat (fun l => f.sub.getLsbD (2 * ((h.band.pred f.va.toNat).getLsbD l).toNat
      + ((h.band.pred f.vb.toNat).getLsbD l).toNat) = true) b ∧ KeepsFlags h b)
  ∧ (∀ s h f, Ready s h → (Instr.pset f).wf = true →
      Runs (.pset f) s h [] [f.vd.toNat] [] (fun b =>
        WritesP h f.g f.vd.toNat (fun l => f.imm.getLsbD l = true) b ∧ KeepsFlags h b))
  ∧ LaneOp .ptov (fun f => [f.vd.toNat]) (fun _ => []) (fun f h b =>
    Writes32 h f.g f.vd.toNat (fun l => if (h.band.pred f.va.toNat).getLsbD l then 1 else 0) b ∧ KeepsFlags h b)
  ∧ LaneOp .vtop (fun _ => []) (fun f => [f.vd.toNat]) (fun f h b =>
    WritesP h f.g f.vd.toNat (fun l => h.band.v32 l f.va.toNat ≠ 0) b ∧ KeepsFlags h b)
  ∧ LaneOp .pcnt (fun f => [f.vd.toNat]) (fun _ => []) (fun f h b =>
    Writes32 h f.g f.vd.toNat (fun l => BitVec.ofNat 32
      ((h.mates f.g l).filter fun k => (h.band.pred f.va.toNat).getLsbD k).length) b ∧ KeepsFlags h b)
  ∧ LaneOp .sprd (fun _ => []) (fun f => [f.vd.toNat]) (fun f h b =>
    WritesP h f.g f.vd.toNat (fun l => (h.band.sreg f.vb.toNat).getLsbD l = true) b ∧ KeepsFlags h b)

/-! ### Control (04_sweep.md) -/

/-- R101, R108 to R110: NOP has no effect; YIELD sets YLD and changes nothing else; LBLID writes a label id; SWCNT reads
SCNT; CENS gives the WANTING lanes, the number of labels they want, the number of BLOCKED lanes and the label a skip would
take. -/
def Claims.SequencerReads : Prop :=
  (∀ s h f, Ready s h → (Instr.nop f).wf = true → Runs (.nop f) s h [] [] [] (KeepsFlags h))
  ∧ (∀ s h f, Ready s h → (Instr.yieldBand f).wf = true →
      ∃ t b, exec (.yieldBand f) s = .next t ∧ Beside h s t ∧ t.band? h.core h.slot = some b
        ∧ b = { h.band with p := h.band.p + 8, icnt := h.band.icnt + 1, yld := h.band.leads f.g, sampled := b.sampled,
                            yldCycle := b.yldCycle, yldMark := b.yldMark }
        ∧ (h.band.leads f.g = true → b.yldCycle = s.cycle ∧ b.yldMark = (s.coreAt h.core).retires)
        ∧ (h.band.leads f.g = false → b.yldCycle = h.band.yldCycle ∧ b.yldMark = h.band.yldMark))
  ∧ (∀ s h f, Ready s h → (Instr.lblid f).wf = true →
      Runs (.lblid f) s h (if f.ty2 = 0 then [f.vd.toNat] else []) [] (if f.ty2 = 0 then [] else [f.vd.toNat]) (fun b =>
        KeepsFlags h b
        ∧ (f.ty2 = 0 → Writes32 h f.g f.vd.toNat (fun _ => f.imm) b)
        ∧ (f.ty2 ≠ 0 → b.sreg f.vd.toNat = if h.band.leads f.g then f.imm.setWidth 64 else h.band.sreg f.vd.toNat)))
  ∧ ScalarResult .swcnt (fun _ _ _ _ _ => True)
  ∧ (∀ s h f, Ready s h → (Instr.swcnt f).wf = true → h.band.leads f.g = true →
      Runs (.swcnt f) s h [] [] [f.sd.toNat] (fun b => b.sreg f.sd.toNat = h.band.scnt.setWidth 64))
  ∧ (∀ s h f, Ready s h → (Instr.cens f).wf = true →
      Runs (.cens f) s h [] [] [f.sd.toNat] (fun b => KeepsFlags h b
        ∧ (h.band.leads f.g = false → b.sreg f.sd.toNat = h.band.sreg f.sd.toNat)
        ∧ (h.band.leads f.g = true →
          (∀ l, l < 32 → ((b.sreg f.sd.toNat).getLsbD l = true ↔ (h.band.lane l).st = .wanting ∧ h.band.active l = true))
          ∧ ((b.sreg f.sd.toNat).extractLsb' 32 8).toNat
              = (((List.range 32).filter fun l => h.band.wanting.getLsbD l).map fun l => (h.band.lane l).want).eraseDups.length
          ∧ ((b.sreg f.sd.toNat).extractLsb' 40 8).toNat
              = ((List.range 32).filter fun l => (h.band.lane l).st == .blocked && h.band.active l).length
          ∧ (b.sreg f.sd.toNat).extractLsb' 48 16 = (h.nextLabel.map fun e => e.1.1).getD 0xFFFF)))

/-- The predicate and read instructions, and what the sequencer shows of itself. -/
def Obligations.PredicatesReadsAndSequencer : Prop := Claims.PredicatesAndReads ∧ Claims.SequencerReads

/-- R103, R104: GO moves the lanes it acts on to its label, GOI each lane to the label its register names; with no lane to
act on they have no effect. The labels must be targets (R97), and in a PAIRED crew primaries and shadows must agree; where
they do not, `Claims.ControlFaults` and `Claims.PairsDiffer` say what the words do. -/
def Claims.LanesGo : Prop :=
  (∀ s h f, Ready s h → (Instr.go f).wf = true → h.Agrees f.g (fun _ => f.lid)
    → (∀ l, l < 32 → h.lanes f.g l → h.Target f.lid) →
    Issues (.go f) s s h [] [] [] (fun b => KeepsFlags h b
      ∧ LanesBecome h f.g (fun l => { h.band.lane l with st := .wanting, want := f.lid }) b))
  ∧ (∀ s h f, Ready s h → (Instr.goi f).wf = true → h.Agrees f.g (h.named f.va)
    → (∀ l, l < 32 → h.lanes f.g l → h.Target (h.named f.va l)) →
    Issues (.goi f) s (s.cacheLanes h (h.band.guarded f.g) (h.named f.va)) h [] [] [] (fun b => KeepsFlags h b
      ∧ LanesBecome h f.g (fun l => { h.band.lane l with st := .wanting, want := h.named f.va l }) b))

/-- R91, R92, R105, R106: CALL and CALLI push the return label of each lane they act on and move it to its target; RET
pops the newest label and moves the lane to it. Here no lane's stack passes the four entries held in hardware; deeper ones
are those of `Claims.DeepStacks`. -/
def Claims.CallsAndReturns : Prop :=
  (∀ s h f (ind : Bool), Ready s h → (if ind then (Instr.calli f).wf else (Instr.call f).wf) = true →
    let t : Nat → BitVec 16 := fun l => if ind then h.named f.va l else f.lid
    h.Agrees f.g t
    → (∀ l, l < 32 → h.lanes f.g l → h.Target (t l) ∧ h.Target f.lid2
        ∧ (h.band.lane l).depth.toNat < 4 ∧ (h.band.lane l).depth.toNat + 1 ≤ h.band.cstk.toNat / 2) →
    Issues (if ind then .calli f else .call f) s (if ind then s.cacheLanes h (h.band.guarded f.g) t else s) h [] [] []
      (fun b => KeepsFlags h b
        ∧ LanesBecome h f.g (fun l => { h.band.lane l with
            st := .wanting, want := t l, depth := (h.band.lane l).depth + 1,
            top := (f.lid2 :: (h.band.lane l).top).take 4 }) b))
  ∧ (∀ s h f, Ready s h → (Instr.ret f).wf = true → h.Agrees f.g (fun l => (h.band.lane l).top.headD 0)
    → (∀ l, l < 32 → h.lanes f.g l → h.Target ((h.band.lane l).top.headD 0)
        ∧ 1 ≤ (h.band.lane l).depth.toNat ∧ (h.band.lane l).depth.toNat ≤ 4) →
    Issues (.ret f) s s h [] [] [] (fun b => KeepsFlags h b
      ∧ LanesBecome h f.g (fun l => { h.band.lane l with
          st := .wanting, want := (h.band.lane l).top.headD 0, depth := (h.band.lane l).depth - 1,
          top := (h.band.lane l).top.drop 1 }) b))

/-- R107, 15_traps.md R360: EXIT ends the lanes it acts on, whose stacks are empty then; at TL = 1 the exit of the last
handler lane kills the band. -/
def Claims.LanesExit : Prop :=
  (∀ s h f, Ready s h → (Instr.exit f).wf = true
    → (h.band.tl = false ∨ ∃ l, l < 32 ∧ h.band.handler.getLsbD l = true ∧ ¬h.lanes f.g l ∧ (h.band.lane l).st ≠ .exited) →
    Issues (.exit f) s s h [] [] [] (fun b => KeepsFlags h b
      ∧ LanesBecome h f.g (fun l => { h.band.lane l with st := .exited, depth := 0, top := [] }) b))
  ∧ (∀ s h f, Ready s h → (Instr.exit f).wf = true → h.band.tl = true
    → (∀ l, l < 32 → h.band.handler.getLsbD l = true → h.lanes f.g l ∨ (h.band.lane l).st = .exited) →
    exec (.exit f) s = .next (s.kill h 7 0 0))

/-- The control instructions that move lanes, while their stacks stay within the hardware's entries. -/
def Obligations.LanesMove : Prop := Claims.LanesGo ∧ Claims.CallsAndReturns ∧ Claims.LanesExit

/-- R91, R92, 15_traps.md R368, R370: how the stack accesses of the lanes go, one lane after the other. A push onto four or
more entries spills the fifth newest to the lane's PRIV bytes 2(Depth - 4), by a plain write of 2 bytes at their IA; a pop
from five or more fills the fourth newest from PRIV bytes 2(Depth - 5), by a plain read; no other lane and nothing else of
the band changes. -/
def Claims.StackAccesses : Prop :=
  (∀ (s : State) (h : Here) (b : Band) (x : BitVec 16),
    s.pushAll h b x [] = .ok s b ∧ s.popAll h b [] = .ok s b
    ∧ (∀ l t s1 b1, s.pushAll h b x [l] = .ok s1 b1 → s.pushAll h b x (l :: t) = s1.pushAll h b1 x t)
    ∧ (∀ l t s1 b1, s.popAll h b [l] = .ok s1 b1 → s.popAll h b (l :: t) = s1.popAll h b1 t))
  ∧ (∀ (s : State) (h : Here) (b : Band) (x : BitVec 16) (l : Nat), l < 32 → b.lanes.length = 32 →
      let n := (b.lane l).depth.toNat
      let pushed : Band → Prop := fun b1 => b1 = { b with lanes := b1.lanes } ∧ ∀ k, k < 32 → b1.lane k =
        if k = l then { b.lane l with depth := (b.lane l).depth + 1, top := (x :: (b.lane l).top).take 4 } else b.lane k
      let spill := s.iaWrite (some h.core) (some h.slot) (h.privIa l (2 * (n - 4)))
        [((b.lane l).top.getD 3 0).extractLsb' 0 8, ((b.lane l).top.getD 3 0).extractLsb' 8 8] 0
      (n < 4 → ∃ b1, s.pushAll h b x [l] = .ok s b1 ∧ pushed b1)
      ∧ (4 ≤ n → h.ctx.pvsize.toNat < 2 * (n - 4) + 2 → s.pushAll h b x [l] = .bad l (2 * (n - 4)) 3)
      ∧ (4 ≤ n → 2 * (n - 4) + 2 ≤ h.ctx.pvsize.toNat →
          (∀ s1, spill = .ok s1 () → ∃ b1, s.pushAll h b x [l] = .ok s1 b1 ∧ pushed b1)
          ∧ (∀ e, spill = .bad e → s.pushAll h b x [l] = .bad l (2 * (n - 4)) e)
          ∧ (spill = .hold → s.pushAll h b x [l] = .hold)))
  ∧ (∀ (s : State) (h : Here) (b : Band) (l : Nat), l < 32 → b.lanes.length = 32 → (b.lane l).depth ≠ 0 →
      let n := (b.lane l).depth.toNat
      let popped : Band → List (BitVec 16) → Prop := fun b1 more => b1 = { b with lanes := b1.lanes } ∧ ∀ k, k < 32 → b1.lane k =
        if k = l then { b.lane l with st := .wanting, want := (b.lane l).top.headD 0, depth := (b.lane l).depth - 1,
                                      top := (b.lane l).top.drop 1 ++ more } else b.lane k
      let at_ := 2 * (n - 5)
      let fill := s.iaRead (some h.core) (h.privIa l at_) 2 0 0
      (n < 5 → ∃ b1, s.popAll h b [l] = .ok s b1 ∧ popped b1 [])
      ∧ (5 ≤ n → h.ctx.pvsize.toNat < at_ + 2 → s.popAll h b [l] = .bad l at_ 3)
      ∧ (5 ≤ n → at_ + 2 ≤ h.ctx.pvsize.toNat →
          (∀ s1 d, fill = .ok s1 (d, false) → ∃ b1, s.popAll h b [l] = .ok s1 b1 ∧ popped b1 [BitVec.ofNat 16 (ofBytes d)])
          ∧ (∀ s1 d, fill = .ok s1 (d, true) → s.popAll h b [l] = .poisoned (h.privIa l at_))
          ∧ (∀ e, fill = .bad e → s.popAll h b [l] = .bad l at_ e)
          ∧ (fill = .hold → s.popAll h b [l] = .hold)))

/-- R91, R92, R105, R106, 15_traps.md R370 past four entries: CALL, CALLI and RET make the stack accesses of their lanes
in ascending order (`Claims.StackAccesses`). Where these all end, the word issues with what they leave, and the lanes hold
what R92 says; where one faults, the word takes a MEM trap with STACK = 1 before any lane has moved; poison kills the
band. -/
def Claims.DeepStacks : Prop :=
  (∀ s h f (ind : Bool), Ready s h →
    let m := h.band.guarded f.g
    let t : Nat → BitVec 16 := fun l => if ind then h.named f.va l else f.lid
    let s0 := if ind then s.cacheLanes h m t else s
    let i := if ind then Instr.calli f else .call f
    h.Agrees f.g t → s0.privBusy h = false → m ≠ 0
    → (∀ l, l < 32 → h.lanes f.g l → h.Target (t l) ∧ h.Target f.lid2
        ∧ (h.band.lane l).depth.toNat + 1 ≤ h.band.cstk.toNat / 2) →
    let go := s0.pushAll h (h.band.wantAll m t) f.lid2 (lanesOf m)
    (∀ s1 b1, go = .ok s1 b1 → exec i s = .next ((h.retire s1 b1).sample h m .control)
      ∧ LanesBecome h f.g (fun l => { h.band.lane l with
          st := .wanting, want := t l, depth := (h.band.lane l).depth + 1,
          top := (f.lid2 :: (h.band.lane l).top).take 4 }) b1)
    ∧ (∀ l e sub, go = .bad l e sub → sub ≠ 5 →
        exec i s = .next (s0.trap h h.band 4 (memDetail sub l true false e) m))
    ∧ (go = .hold → exec i s = .next s0))
  ∧ (∀ s h f, Ready s h → h.Agrees f.g (fun l => (h.band.lane l).top.headD 0) → s.privBusy h = false
    → h.band.guarded f.g ≠ 0
    → (∀ l, l < 32 → h.lanes f.g l → h.Target ((h.band.lane l).top.headD 0) ∧ (h.band.lane l).depth ≠ 0) →
    let m := h.band.guarded f.g
    let go := s.popAll h h.band (lanesOf m)
    (∀ s1 b1, go = .ok s1 b1 →
      exec (.ret f) s = .next ((h.retire s1 b1).sample h m .control)
      ∧ b1 = { h.band with lanes := b1.lanes }
      ∧ ∀ l, l < 32 → (¬h.lanes f.g l → b1.lane l = h.band.lane l)
        ∧ (h.lanes f.g l → ∃ more, b1.lane l = { h.band.lane l with
            st := .wanting, want := (h.band.lane l).top.headD 0, depth := (h.band.lane l).depth - 1,
            top := (h.band.lane l).top.drop 1 ++ more }
          ∧ ((h.band.lane l).depth.toNat < 5 → more = []) ∧ (5 ≤ (h.band.lane l).depth.toNat → more.length = 1)))
    ∧ (∀ l e sub, go = .bad l e sub → sub ≠ 5 →
        exec (.ret f) s = .next (s.trap h h.band 4 (memDetail sub l true false e) m))
    ∧ (∀ ia, go = .poisoned ia → exec (.ret f) s = .next (s.killPoison h (s.iaUnit h.core ia) ia))
    ∧ (go = .hold → exec (.ret f) s = .next s))

/-- R97: a control fault stops the word before any lane moves: the trap of group 3 is taken whose DETAIL holds the lowest
code that a lane meets, the lowest lane that meets it, and its label: for GO, GOI, CALL and CALLI that name a label the
module lacks or a handler's; for a CALL or CALLI whose labels are targets but which finds no room; for a RET that finds an
empty stack in a lane. -/
def Claims.ControlFaults : Prop :=
  (∀ s h f (ind call : Bool), Ready s h →
    let m := h.band.guarded f.g
    let t : Nat → BitVec 16 := fun l => if ind then h.named f.va l else f.lid
    let s0 := if ind then s.cacheLanes h m t else s
    let i := match ind, call with
      | false, false => Instr.go f | true, false => .goi f | false, true => .call f | true, true => .calli f
    h.Agrees f.g t → (call = true → h.Target f.lid2) →
    ∀ l code, l < 32 → h.lanes f.g l → h.MeetsLabel (t l) code → code ≠ 0
    → (∀ k c, k < 32 → h.lanes f.g k → h.MeetsLabel (t k) c → c = 0 ∨ code < c ∨ (code = c ∧ l ≤ k)) →
    exec i s = .next (s0.trap h h.band 3 (ctrlDetail code l (t l)) m))
  ∧ (∀ s h f l (ind : Bool), Ready s h →
    let m := h.band.guarded f.g
    let t : Nat → BitVec 16 := fun l => if ind then h.named f.va l else f.lid
    h.Agrees f.g t → (∀ k, k < 32 → h.lanes f.g k → h.Target (t k)) → h.Target f.lid2
    → l < 32 → h.lanes f.g l → h.band.cstk.toNat / 2 < (h.band.lane l).depth.toNat + 1
    → (∀ k, k < l → h.lanes f.g k → (h.band.lane k).depth.toNat + 1 ≤ h.band.cstk.toNat / 2) →
    exec (if ind then .calli f else .call f) s
      = .next ((if ind then s.cacheLanes h m t else s).trap h h.band 3 (ctrlDetail 5 l (t l)) m))
  ∧ (∀ s h f l, Ready s h → h.Agrees f.g (fun l => (h.band.lane l).top.headD 0) → l < 32 → h.lanes f.g l
    → (h.band.lane l).depth = 0 → (∀ k, k < l → h.lanes f.g k → (h.band.lane k).depth ≠ 0)
    → (∀ k, k < 32 → h.lanes f.g k → (h.band.lane k).depth ≠ 0 → h.Target ((h.band.lane k).top.headD 0)) →
    exec (.ret f) s = .next (s.trap h h.band 3 (ctrlDetail 6 l 0xFFFF) (h.band.guarded f.g)))

/-- The deep end of the lanes' stacks, and the faults of control words. -/
def Obligations.StacksAndControlFaults : Prop := Claims.StackAccesses ∧ Claims.DeepStacks ∧ Claims.ControlFaults

/-- The trap HWERR for a lane (15_traps.md R351): the sub-cause, the lane, and the word's offset divided by 8. -/
def Claims.HwTrap (s : State) (h : Here) (sub l : Nat) (m : LaneMask) : State :=
  s.trap h h.band 11 (BitVec.ofNat 96 (sub + l * 2 ^ 8 + h.band.p.toNat / 8 % 2 ^ 32 * 2 ^ 32)) m

/-- 15_traps.md R371, R373: PAIRMIS, HWERR sub-cause 3 of the lowest primary lane that differs from its shadow, precise at the
word, for GO, GOI, CALL, CALLI, RET and ENG in a PAIRED crew: one of the two is in Running and the other is not, or their
targets differ (for ENG, whose lanes are those that run). -/
def Claims.PairsDiffer : Prop :=
  (∀ s h (f : FC) l k, Ready s h → h.crew.paired = true → k < 5 → l < 16 →
    let m := h.band.guarded f.g
    let ind := k = 1 ∨ k = 3
    let i := if k = 0 then Instr.go f else if k = 1 then .goi f else if k = 2 then .call f else if k = 3 then .calli f else .ret f
    let t : Nat → BitVec 16 := fun l => if ind then h.named f.va l else if k = 4 then (h.band.lane l).top.headD 0 else f.lid
    let differs : Nat → Prop := fun n => ¬(h.lanes f.g n ↔ h.lanes f.g (n + 16)) ∨ (h.lanes f.g n ∧ t n ≠ t (n + 16))
    m ≠ 0 → differs l → (∀ n, n < l → ¬differs n) →
    exec i s = .next (Claims.HwTrap s h 3 l m))
  ∧ (∀ s h (f : FE) l, Ready s h → h.crew.paired = true → h.band.leads f.g = true → l < 16 →
    let differs : Nat → Prop := fun n => h.band.running.getLsbD n ≠ h.band.running.getLsbD (n + 16)
    differs l → (∀ n, n < l → ¬differs n) →
    ∀ i ∈ [Instr.cpyLin f, .cpy2d f, .cpyRowg f, .cpyRows f, .cpyMrow f, .cpyFill f, .cpyZc f, .cpyZd f, .collAr f, .collRs f,
        .collAg f, .collBc f, .ckpt f],
      exec i s = .next (Claims.HwTrap s h 3 l h.band.running))

/-- 15_traps.md R357, R371: an armed mismatch of a clone stops a lane instruction of a CHECKED crew whose Running holds at most
16 lanes: HWERR sub-cause 1 (CHKMIS) of the lowest such lane, precise at the word. The mismatch is spent, but not while the
band waits for a permit, after which the word meets it again. -/
def Claims.ClonesDiffer : Prop :=
  ∀ s h g l (f : Here → LaneMask → Band), s.here? = some h → h.crew.checked = true →
    let m := h.band.guarded g
    let u := Claims.HwTrap s h 1 l m
    ((List.range 32).filter fun k => m.getLsbD k).length ≤ 16 → l < 32 → m.getLsbD l = true → (h.core, h.slot, l) ∈ s.clones
    → (∀ k, k < l → m.getLsbD k = true → (h.core, h.slot, k) ∉ s.clones) →
    (∀ b, u.band? h.core h.slot = some b → b.waitTo = none →
      s.laneOp g .clone f = .next { u with clones := u.clones.erase (h.core, h.slot, l) })
    ∧ (∀ b, u.band? h.core h.slot = some b → b.waitTo ≠ none → s.laneOp g .clone f = .next u)

/-- R84, 15_traps.md R348: a band that is selected with RUNNING lanes and whose P has reached the end of the code section takes
RUNOFF, the control fault of code 4, for all of them and no label, when nothing else of it is due. -/
def Claims.RunsOff : Prop :=
  ∀ (s s0 : State) c k rest h, Selected s s0 c k rest h → h.band.park = none → h.band.running ≠ 0
    → h.codeSize ≤ h.band.p.toNat → s0.asyncTrap h = none →
    step s = .next (s0.trap h h.band 3 (ctrlDetail 4 h.band.leader 0xFFFF) h.band.running).turns

/-- The mismatches that words of PAIRED and CHECKED crews meet, and the end of the code. -/
def Obligations.MismatchesAndRunOff : Prop :=
  Claims.PairsDiffer ∧ Claims.ClonesDiffer ∧ Claims.RunsOff
    ∧ ∀ (f : FV) (s : State), ∃ g : Here → LaneMask → Band, exec (.iadd f) s = s.laneOp f.g .clone g

/-- R80, R90, R102: LBL, fallen into, lets the lanes that are WANTING its label join, and has no other effect: P
advances, and the word is not counted. -/
def Claims.LabelMerges : Prop :=
  ∀ s h f, Ready s h → (Instr.lbl f).wf = true →
    ∃ t b, exec (.lbl f) s = .next t ∧ Beside h s t ∧ t.band? h.core h.slot = some b
      ∧ b = { h.band with p := h.band.p + 8, lanes := b.lanes }
      ∧ ∀ l, l < 32 → b.lane l =
          if (h.band.lane l).st = .wanting ∧ (h.band.lane l).want = f.lid ∧ h.band.active l = true
          then { h.band.lane l with st := .running } else h.band.lane l

/-- R82, R83, 02_formats.md R42: with no lane RUNNING, the next label is the wanted one of least offset above P, else of least
offset with a wrap, which SCNT counts. When the word there is its LBL, the lanes that want it become RUNNING and P is the
word after it; a word that is an ill-formed LBL of that label kills the band; any other word is BADLBL, for the lanes that
want the label. -/
def Claims.SkipServesLabel : Prop :=
  (∀ (h : Here) x o wrap, h.nextLabel = some ((x, o), wrap) →
    (x, o) ∈ h.census
    ∧ (wrap = false → h.band.p.toInt < (o : Int))
    ∧ (∀ y ∈ h.census, (wrap = true ∨ h.band.p.toInt < (y.2 : Int)) → o ≤ y.2)
    ∧ (wrap = true → ∀ y ∈ h.census, (y.2 : Int) ≤ h.band.p.toInt))
  ∧ (∀ s h x o wrap s2 w, s.here? = some h → h.band.running = 0 → h.nextLabel = some ((x, o), wrap)
    → (s.cacheLabel h.core h.ctxId h.crew.task.mod x).fetchWord h o = .ok s2 (w, false) →
    let b := { h.band with p := BitVec.ofNat 64 o, scnt := if wrap then h.band.scnt + 1 else h.band.scnt }
    let wants : Nat → Prop := fun l => (h.band.lane l).st = .wanting ∧ (h.band.lane l).want = x ∧ h.band.active l = true
    let isLbl := w.extractLsb' 0 8 = 1 ∧ w.extractLsb' 16 16 = x
    (∀ i, isLbl → decode w = .ok i →
      ∃ b', exec .skip s = .next (s2.setBand h.core h.slot b')
        ∧ b' = { b with p := BitVec.ofNat 64 o + 8, lanes := b'.lanes }
        ∧ ∀ l, l < 32 → (wants l → b'.lane l = { h.band.lane l with st := .running }) ∧ (¬wants l → b'.lane l = h.band.lane l))
    ∧ (∀ e, isLbl → decode w = .error e → exec .skip s = .next (s2.kill { h with band := b } 1 0 0))
    ∧ (∀ m : LaneMask, (∀ l, l < 32 → (m.getLsbD l = true ↔ wants l)) → ¬isLbl →
        exec .skip s = .next (s2.trap h b 3 (ctrlDetail 3 (lowest m) x) m)))

/-- 03_assembly.md R74: LABEL_CACHE_FILL, and a word that reads an entry of the label table, put that entry at the front of
the core's cache of 1,024 entries; an id without an entry never fills it. Nothing else changes. -/
def Claims.LabelCacheFills : Prop :=
  ∀ s c x m lid v y, s.ctx? x = some v → v.modules.find m = some y → lid < 2 ^ 16 →
    ∃ t, exec (.labelCacheFill c x m lid) s = .next t ∧ t = s.cacheLabel c x m (BitVec.ofNat 16 lid)
      ∧ t = { s with cores := t.cores } ∧ (∀ d, d ≠ c → t.coreAt d = s.coreAt d)
      ∧ (lid < y.labels.length → t.coreAt c = { s.coreAt c with
          labels := (x, m, lid) :: ((s.coreAt c).labels.filter fun k => k != (x, m, lid)).take 1023 })
      ∧ (y.labels.length ≤ lid → t = s)

/-- The merge at a label, the sequencer's choice, and the label cache. -/
def Obligations.LabelsAreServed : Prop := Claims.LabelMerges ∧ Claims.SkipServesLabel ∧ Claims.LabelCacheFills

/-! ### Numbers and float instructions (07_numbers.md) -/

/-- R145, R162: what the codes of the float kinds stand for; under FTZ a subnormal one is a zero of its sign. -/
def Claims.FloatCodes : Prop :=
  ∀ f ∈ floatFormats, ∀ (c : Nat) (neg ftz : Bool), c < 2 ^ (f.eb + f.mb) →
    let v := f.decode ftz ((if neg then 2 ^ (f.eb + f.mb) else 0) + c)
    let e := c / 2 ^ f.mb
    let m := c % 2 ^ f.mb
    (f.ieee = true → e = 2 ^ f.eb - 1 → (m = 0 → v = .inf neg) ∧ (m ≠ 0 → v = .nan (!m.testBit (f.mb - 1))))
    ∧ (f.ieee = false → f.nan = some c → v = .nan false)
    ∧ ((f.ieee = false ∨ e ≠ 2 ^ f.eb - 1) → f.nan ≠ some c →
        v.sign? = some neg
        ∧ v.rat? = some ((if neg then -1 else 1) * (if ftz = true ∧ e = 0 then 0 else f.magnitude c)))

/-- R149, R150, R152, R162: a nonzero finite value rounded into a float kind. When it overflows, OF and NX are raised and
the code is the one that R149 and R150 give for the mode, the sign and SAT. Else the code is the one that the mode asks
for, of the value's sign; NX says whether the code's value differs from the exact one, and UF whether it is tiny as well;
under FTZ a subnormal result is a zero of its sign and raises UF and NX. Zeros keep their sign; infinities and NaN give what
R150 says. -/
def Claims.RoundToFormat : Prop :=
  ∀ f ∈ floatFormats, ∀ (rm : Nat) (sat ftz neg : Bool), rm < 4 →
    let sign := if neg then 2 ^ (f.eb + f.mb) else 0
    (∀ num den e, num ≠ 0 → den ≠ 0 →
      ∃ v, (FNum.fin neg num den e).rat? = some v ∧
      let r := f.round rm sat ftz (.fin neg num den e)
      let r0 := f.round rm sat false (.fin neg num den e)
      (f.Overflows rm neg v → r.2 = flOF ||| flNX ∧ ∃ c, r.1 = sign + c ∧ f.over rm sat neg c)
      ∧ (¬f.Overflows rm neg v →
          (∃ q, RoundsTo f rm v r0.1 q ∧ (f.decode false r0.1).sign? = some neg
            ∧ (q = v → r0.2 = 0) ∧ (q ≠ v → f.Tiny rm neg v → r0.2 = flNX ||| flUF) ∧ (q ≠ v → ¬f.Tiny rm neg v → r0.2 = flNX))
          ∧ (ftz = true → r0.1 % 2 ^ (f.eb + f.mb) ≠ 0 → r0.1 % 2 ^ (f.eb + f.mb) < 2 ^ f.mb →
              r = (sign, r0.2 ||| flUF ||| flNX))
          ∧ ((ftz = false ∨ r0.1 % 2 ^ (f.eb + f.mb) = 0 ∨ 2 ^ f.mb ≤ r0.1 % 2 ^ (f.eb + f.mb)) → r = r0)))
    ∧ (∀ den e, f.round rm sat ftz (.fin neg 0 den e) = (sign, 0))
    ∧ (f.ieee = true → f.round rm sat ftz (.inf neg) = (sign + (2 ^ f.eb - 1) * 2 ^ f.mb, 0))
    ∧ (f.ieee = false → (f.round rm sat ftz (.inf neg)).2 = flIV
        ∧ ((sat = true ∨ f.nan = none) → (f.round rm sat ftz (.inf neg)).1 = sign + f.top)
        ∧ (sat = false → f.nan.isSome = true → (f.decode false (f.round rm sat ftz (.inf neg)).1).isNan = true))
    ∧ (∀ snan n, f.nan = some n → f.round rm sat ftz (.nan snan) = (n, if snan then flIV else 0))
    ∧ (∀ snan, f.nan = none → f.round rm sat ftz (.nan snan) = (0, flIV))

/-- R151, R152, R163: the exact results of FADD, FMUL and FDIV on finite values are the sum, the product and the quotient;
an exact zero sum of operands of different signs is -0 under RD and +0 otherwise; infinities follow the signs; the invalid
cases give NaN and IV; a nonzero value divided by zero is an infinity and raises DZ; a NaN operand gives NaN, and IV where
one is signalling. FFMA adds to the exact product. -/
def Claims.ExactOperations : Prop :=
  (∀ rm na xa da ea nb xb db eb, da ≠ 0 → db ≠ 0 →
    let a := FNum.fin na xa da ea
    let b := FNum.fin nb xb db eb
    ∀ p q, a.rat? = some p → b.rat? = some q →
      (addNum rm a b).1.rat? = some (p + q) ∧ (addNum rm a b).2 = 0
      ∧ (p + q = 0 → (addNum rm a b).1.sign? = some (if na = nb then na else rm == 2))
      ∧ (mulNum a b).1.rat? = some (p * q) ∧ (mulNum a b).2 = 0 ∧ (mulNum a b).1.sign? = some (na != nb)
      ∧ (xb ≠ 0 → (divNum a b).1.rat? = some (p / q) ∧ (divNum a b).2 = 0 ∧ (divNum a b).1.sign? = some (na != nb))
      ∧ (xb = 0 → xa ≠ 0 → divNum a b = (.inf (na != nb), flDZ)) ∧ (xb = 0 → xa = 0 → divNum a b = (.nan false, flIV)))
  ∧ (∀ rm n, addNum rm (.inf n) (.inf !n) = (.nan false, flIV) ∧ addNum rm (.inf n) (.inf n) = (.inf n, 0)
      ∧ divNum (.inf n) (.inf n) = (.nan false, flIV) ∧ divNum (.inf n) (.inf !n) = (.nan false, flIV))
  ∧ (∀ rm n m x d e, addNum rm (.inf n) (.fin m x d e) = (.inf n, 0) ∧ addNum rm (.fin m x d e) (.inf n) = (.inf n, 0)
      ∧ (x ≠ 0 → mulNum (.inf n) (.fin m x d e) = (.inf (n != m), 0) ∧ mulNum (.fin m x d e) (.inf n) = (.inf (m != n), 0))
      ∧ divNum (.inf n) (.fin m x d e) = (.inf (n != m), 0)
      ∧ (divNum (.fin m x d e) (.inf n)).2 = 0 ∧ (divNum (.fin m x d e) (.inf n)).1.rat? = some 0
      ∧ (divNum (.fin m x d e) (.inf n)).1.sign? = some (m != n))
  ∧ (∀ n m d e, mulNum (.inf n) (.fin m 0 d e) = (.nan false, flIV) ∧ mulNum (.fin m 0 d e) (.inf n) = (.nan false, flIV)
      ∧ mulNum (.inf n) (.inf m) = (.inf (n != m), 0))
  ∧ (∀ rm n m d e c, ((fmaNum rm (.inf n) (.fin m 0 d e) c).1.isNan = true
      ∧ (fmaNum rm (.inf n) (.fin m 0 d e) c).2.getLsbD 4 = true))
  ∧ (∀ rm a b c, fmaNum rm a b c = ((addNum rm (mulNum a b).1 c).1, (mulNum a b).2 ||| (addNum rm (mulNum a b).1 c).2))
  ∧ (∀ rm a b, (a.isNan || b.isNan) = true →
      let r := (FNum.nan false, if (a.isSnan || b.isSnan) = true then flIV else 0)
      addNum rm a b = r ∧ mulNum a b = r ∧ divNum a b = r)
  ∧ (∀ rm a b c, (a.isNan || b.isNan || c.isNan) = true → (fmaNum rm a b c).1.isNan = true
      ∧ ((a.isSnan || b.isSnan || c.isSnan) = true → (fmaNum rm a b c).2 = flIV))

/-- R164 to R166: the order of the exact values, in which the zeros are equal; minimumNumber and maximumNumber, for which -0
is less than +0 and a NaN yields the other operand; and the integral value of a mode, which keeps the sign and never raises
NX. -/
def Claims.PicksAndRounds : Prop :=
  (∀ na xa da ea nb xb db eb p q, da ≠ 0 → db ≠ 0 → (FNum.fin na xa da ea).rat? = some p
    → (FNum.fin nb xb db eb).rat? = some q → (numLt (.fin na xa da ea) (.fin nb xb db eb) = true ↔ p < q))
  ∧ (∀ n m x d e, numLt (.inf n) (.fin m x d e) = n ∧ numLt (.fin m x d e) (.inf n) = !n
      ∧ numLt (.inf n) (.inf m) = (n && !m))
  ∧ (∀ (most : Bool) a b,
      (pickNum most a b).2 = (if (a.isSnan || b.isSnan) = true then flIV else 0)
      ∧ (a.isNan = true → b.isNan = true → (pickNum most a b).1 = .nan false)
      ∧ (a.isNan = true → b.isNan = false → (pickNum most a b).1 = b)
      ∧ (a.isNan = false → b.isNan = true → (pickNum most a b).1 = a)
      ∧ (a.isNan = false → b.isNan = false →
          (numLt a b = true → numLt b a = false → (pickNum most a b).1 = if most then b else a)
          ∧ (numLt b a = true → numLt a b = false → (pickNum most a b).1 = if most then a else b)
          ∧ (numLt a b = false → numLt b a = false →
              (a.sign? = some true → b.sign? = some false → (pickNum most a b).1 = if most then b else a)
              ∧ (a.sign? = some false → b.sign? = some true → (pickNum most a b).1 = if most then a else b)
              ∧ ((pickNum most a b).1 = a ∨ (pickNum most a b).1 = b))))
  ∧ (∀ rm neg num den e v, rm < 4 → den ≠ 0 → (FNum.fin neg num den e).rat? = some v →
      ∃ m : Nat, rndNum rm (.fin neg num den e) = (.fin neg m 1 0, 0) ∧ RoundsInt rm v (if neg then -(m : Int) else m))
  ∧ (∀ rm n, rndNum rm (.inf n) = (.inf n, 0))
  ∧ ∀ rm snan, rndNum rm (.nan snan) = (.nan false, if snan then flIV else 0)

/-- The codes of the formats, rounding into them, and the exact operations under it. -/
def Obligations.RoundingAndExactness : Prop := Claims.FloatCodes ∧ Claims.RoundToFormat ∧ Claims.ExactOperations

/-- R162 to R166: FADD, FMUL, FFMA, FDIV, FMIN, FMAX and FRND always complete; they round the exact result of each element
once. What the results are, the claims of R163 (`Claims.ExactOperations`) and of R164 to R166 say. -/
def Obligations.FloatArithmetic : Prop :=
  FloatOp .fadd (fun f a b _ => addNum (rmOf f) a b) ∧ FloatOp .fmul (fun _ a b _ => mulNum a b)
  ∧ FloatOp .ffma (fun f a b c => fmaNum (rmOf f) a b c) ∧ FloatOp .fdiv (fun _ a b _ => divNum a b)
  ∧ FloatOp .fmin (fun _ a b _ => pickNum false a b) ∧ FloatOp .fmax (fun _ a b _ => pickNum true a b)
  ∧ FloatOp .frnd (fun f a _ _ => rndNum (rmOf f) a)
  ∧ Claims.PicksAndRounds

/-- R165, R168: FCMP writes the AND of its element comparisons, and raises IV as its table says; FSFU gives its special inputs their results and flags, keeps a NaN
canonical, and never raises NX or UF. -/
def Claims.FloatCompareAndFunctions : Prop :=
  LaneOp .fcmp (fun _ => []) (fun f => [f.vd.toNat]) (fun f h b =>
    WritesP h f.g f.vd.toNat (fun l => ∀ e, e < anyCount f.ty.toNat →
      let x := h.fltA f l e
      let y := h.fltB f l e
      if x.isNan || y.isNan then f.sub.toNat = 1 ∨ f.sub.toNat = 6
      else f.sub.toNat = 7 ∨ Compares f.sub.toNat (if numLt x y then -1 else if numLt y x then 1 else 0) 0) b
    ∧ RaisesIf h (∃ l, l < 32 ∧ h.lanes f.g l ∧ ∃ e, e < anyCount f.ty.toNat ∧
        let x := h.fltA f l e
        let y := h.fltB f l e
        if 2 ≤ f.sub.toNat ∧ f.sub.toNat ≤ 5 then (x.isNan || y.isNan) = true else (x.isSnan || y.isSnan) = true) flIV b)
  ∧ LaneOp .fsfu (fun f => [f.vd.toNat]) (fun _ => []) (fun f h b =>
    ElemResults h f.g 0 f.vd 32 1 (fun l _ => sfuResult f.sub.toNat (ftzOf f) (h.band.v32 l f.va.toNat)) b)
  ∧ (∀ fn ftz (x : Word), fn < 8 →
      let r := sfuResult fn ftz x
      r.2 &&& ~~~(flIV ||| flDZ ||| flOF) = 0
      ∧ ((fmtF32.decode ftz x.toNat).isNan = true → r.1 = 0x7FC00000)
      ∧ (fn ≤ 1 → x = 0 → r = (0x7F800000, flDZ)) ∧ (fn ≤ 1 → x = 0x80000000 → r = (0xFF800000, flDZ))
      ∧ (fn = 0 → x = 0x7F800000 → r = (0, 0)) ∧ (fn = 1 → x = 0x7F800000 → r = (0, 0))
      ∧ (fn = 2 → x = 0x80000000 → r = (0x80000000, 0)) ∧ (fn = 2 → x = 0xBF800000 → r = (0x7FC00000, flIV))
      ∧ (fn = 3 → x = 0xFF800000 → r = (0, 0)) ∧ (fn = 3 → x = 0x43000000 → r = (0x7F800000, flOF))
      ∧ (fn = 4 → x = 0 → r = (0xFF800000, flDZ)) ∧ (fn = 4 → x = 0x3F800000 → r = (0, 0))
      ∧ ((fn = 5 ∨ fn = 6) → x = 0x7F800000 → r = (0x7FC00000, flIV))
      ∧ (fn = 7 → x = 0x7F800000 → r = (0x3F800000, 0)) ∧ (fn = 7 → x = 0x80000000 → r = (0x80000000, 0)))

/-- R169: how CVT converts an element: integers as R115 says; an integer, or a float between float kinds, is rounded by RM
once; a float is rounded to an integer, raising NX when that is inexact, and clamps with IV out of range; a code of the same
kind is copied, a NaN made canonical. -/
def Claims.ElementConversions : Prop :=
  (∀ sk dk rm sat ftz code, sk < 8 → dk < 8 → sk ≠ dk →
    let n : Int := if tySigned sk then signedOf (tyWidth sk) code else (code : Nat)
    let r := convElem sk dk rm sat ftz code
    FinOf sat (tyWidth dk) (tySigned dk) n
      (if tySigned dk then signedOf (tyWidth dk) r.1 else (r.1 % 2 ^ tyWidth dk : Nat))
    ∧ (Clamps sat (tyWidth dk) (tySigned dk) n → r.2 = flIOV) ∧ (¬Clamps sat (tyWidth dk) (tySigned dk) n → r.2 = 0))
  ∧ (∀ sk dk rm sat ftz code, sk < 8 → 8 ≤ dk → dk ≤ 10 →
      let n : Int := if tySigned sk then signedOf (tyWidth sk) code else (code : Nat)
      convElem sk dk rm sat ftz code = (tyFmt dk).round rm sat false (.fin (decide (n < 0)) n.natAbs 1 0))
  ∧ (∀ sk dk rm sat ftz code, 8 ≤ sk → sk ≤ 10 → 8 ≤ dk → dk ≤ 10 → sk ≠ dk →
      convElem sk dk rm sat ftz code = (tyFmt dk).round rm sat ftz ((tyFmt sk).decode ftz code))
  ∧ (∀ sk dk rm sat ftz code, 8 ≤ sk → sk ≤ 10 → dk < 8 → rm < 4 →
      let x := (tyFmt sk).decode ftz code
      let w := tyWidth dk
      let lo := kindMin w (tySigned dk)
      let hi := kindMax w (tySigned dk)
      let r := convElem sk dk rm sat ftz code
      (x.isNan = true → r = (0, flIV))
      ∧ (∀ neg, x = .inf neg → r = (lowBits w (if neg then lo else hi), flIV))
      ∧ ∀ v, x.rat? = some v → ∃ n, RoundsInt rm v n
          ∧ (lo ≤ n → n ≤ hi → r = (lowBits w n, if (n : Rat) = v then 0 else flNX))
          ∧ (n < lo → r.1 = lowBits w lo) ∧ (hi < n → r.1 = lowBits w hi)
          ∧ ((n < lo ∨ hi < n) → r.2.getLsbD 4 = true ∧ r.2 &&& ~~~(flIV ||| flNX) = 0))
  ∧ (∀ k rm sat ftz code, k < 8 → convElem k k rm sat ftz code = (code, 0))
  ∧ ∀ k rm sat ftz code, 8 ≤ k → k ≤ 10 →
      let x := (tyFmt k).decode false code
      (x.isNan = false → convElem k k rm sat ftz code = (code, 0))
      ∧ (x.isNan = true → convElem k k rm sat ftz code = ((tyFmt k).nanCode, if x.isSnan then flIV else 0))

/-- R143, R144, R147, R150: the kinds that a slot names, what their codes stand for, and how a value is rounded into an
integer or ternary kind; the trits of T5 bytes. -/
def Claims.SlotKinds : Prop :=
  (∀ w, kindOf 0 w = .unbound ∧ kindOf 1 w = .int 16 true ∧ kindOf 2 w = .int 8 true ∧ kindOf 3 w = .int 4 true
    ∧ kindOf 4 w = .int 2 true ∧ kindOf 5 w = .ternary ∧ kindOf 6 w = .flt fmtE4M3 ∧ kindOf 7 w = .flt fmtE5M2
    ∧ kindOf 8 w = .flt fmtE2M3 ∧ kindOf 9 w = .flt fmtE3M2 ∧ kindOf 0xA w = .flt fmtE2M1 ∧ kindOf 0xB w = .flt fmtBF16
    ∧ kindOf 0xC w = .flt fmtF16 ∧ kindOf 0xD w = .flt fmtF32 ∧ kindOf 0xE w = .int (w + 1) false)
  ∧ (∀ w code, 0 < w → ((NumKind.int w true).value code).rat? = some (signedOf w code : Rat)
      ∧ ((NumKind.int w false).value code).rat? = some (code % 2 ^ w : Nat))
  ∧ (∀ code, code < 256 → (NumKind.ternary.value code).rat? = some (if code = 1 then 1 else if code = 0xFF then -1 else 0))
  ∧ (∀ f code, (NumKind.flt f).value code = f.decode false code)
  ∧ (∀ (k : NumKind) rm sat, rm < 4 → k ≠ .unbound → (∀ f, k ≠ .flt f) →
      let w := match k with | .int w _ => w | _ => 8
      let lo := match k with | .int w s => kindMin w s | _ => -1
      let hi := match k with | .int w s => kindMax w s | _ => 1
      let clamps := sat = true ∨ k = .ternary
      (∀ snan, k.round rm sat (.nan snan) = (0, flIV))
      ∧ (∀ neg, k.round rm sat (.inf neg) = (lowBits w (if neg then lo else hi), flIV))
      ∧ ∀ neg num den e v, den ≠ 0 → (FNum.fin neg num den e).rat? = some v →
          let r := k.round rm sat (.fin neg num den e)
          ∃ n, RoundsInt rm v n ∧
            let nx := if (n : Rat) = v then 0 else flNX
            (lo ≤ n → n ≤ hi → r = (lowBits w n, nx))
            ∧ (n < lo → clamps → r = (lowBits w lo, nx ||| flIOV)) ∧ (hi < n → clamps → r = (lowBits w hi, nx ||| flIOV))
            ∧ ((n < lo ∨ hi < n) → ¬clamps → r = (lowBits w n, nx)))
  ∧ (∀ f rm sat x, (NumKind.flt f).round rm sat x = f.round rm sat false x)
  ∧ (∀ byte, byte < 256 →
      let trit : Nat → Int := fun d => if d = 1 then 1 else if d = 2 then -1 else 0
      t5Trits byte = if byte < 243 then ([trit (byte % 3), trit (byte / 3 % 3), trit (byte / 9 % 3), trit (byte / 27 % 3),
        trit (byte / 81 % 3)], false) else ([0, 0, 0, 0, 0], true))
  ∧ (∀ a b c d e : Int,
      let digit : Int → Nat := fun t => if 0 < t then 1 else if t < 0 then 2 else 0
      t5Byte [a, b, c, d, e] = digit a + 3 * digit b + 9 * digit c + 27 * digit d + 81 * digit e)
  ∧ (∀ t : List Int, t.length = 5 → (∀ x ∈ t, x = -1 ∨ x = 0 ∨ x = 1) → t5Trits (t5Byte t) = (t, false))

/-- R169 to R173: CVT converts the elements that both kinds have, the others become 0; QNT and DQNT scale by the code in B
and round into and out of the slot's kind, and an unbound slot makes them an illegal encoding (R148); AMAX gives
each element the largest magnitude of its block; PKT5 and UPKT5 pack and unpack five trits. -/
def Obligations.Conversions : Prop :=
  LaneOp .cvt (fun f => destV (BitVec.ofNat 4 f.sub.toNat) f.vd) (fun _ => []) (fun f h b =>
    let sk := f.ty.toNat
    let dk := f.sub.toNat
    ElemResults h f.g (BitVec.ofNat 4 dk) f.vd (anyWidth dk) (min (anyCount sk) (anyCount dk)) (fun l e =>
      convElem sk dk (rmOf f) (satBit f) (ftzOf f) (elemOf (anyWidth sk) e (h.band.srcV sk l f.va.toNat))) b)
  ∧ (∀ s h f, Ready s h → (Instr.qnt f).wf = true →
    let d := h.band.slotDesc f.sub.toNat
    slotKind d ≠ .unbound → Runs (.qnt f) s h [f.vd.toNat] [] [] (fun b =>
    ElemResults h f.g 0 f.vd (slotBits d) (min (anyCount f.ty.toNat) (32 / slotBits d)) (fun l e =>
      let sc := (h.band.srcB32 f l).toNat % 256
      if sc = 0xFF then ((slotKind d).nanOf, flIV)
      else (slotKind d).round (slotRm d) (slotSat d) (((tyFmt f.ty.toNat).decode false
        (elemOf (anyWidth f.ty.toNat) e (h.band.srcV f.ty.toNat l f.va.toNat))).scale (127 - (sc : Int)))) b))
  ∧ (∀ s h f, Ready s h → (Instr.dqnt f).wf = true →
    let d := h.band.slotDesc f.sub.toNat
    slotKind d ≠ .unbound → Runs (.dqnt f) s h [f.vd.toNat] [] [] (fun b =>
    ElemResults h f.g 0 f.vd (anyWidth f.ty.toNat) (min (anyCount f.ty.toNat) (32 / slotBits d)) (fun l e =>
      let sc := (h.band.srcB32 f l).toNat % 256
      let code := elemOf (slotBits d) e (h.band.srcV 0 l f.va.toNat)
      let tq := if slotKind d = .ternary ∧ code ≠ 0xFF ∧ code ≠ 0 ∧ code ≠ 1 then flTQ else 0
      if sc = 0xFF then ((tyFmt f.ty.toNat).nanCode, tq ||| flIV)
      else
        let q := (tyFmt f.ty.toNat).round (slotRm d) false false (((slotKind d).value code).scale ((sc : Int) - 127))
        (q.1, tq ||| q.2)) b))
  ∧ (∀ s h f (dq : Bool), Ready s h → slotKind (h.band.slotDesc (f.sub.toNat % 8)) = .unbound →
      exec (if dq then .dqnt f else .qnt f) s = .next (s.kill h 1 0 0))
  ∧ LaneOp .amax (fun f => [f.vd.toNat]) (fun _ => []) (fun f h b =>
    let es := anyCount f.ty.toNat
    let k := 16 * 2 ^ f.sub.toNat
    let vals : Nat → Nat → List FNum := fun l e => (h.mates f.g l).flatMap fun q =>
      ((List.range es).filter fun j => (es * q + j) / k == (es * l + e) / k).map fun j =>
        (tyFmt f.ty.toNat).decode false (elemOf (anyWidth f.ty.toNat) j (h.band.srcV f.ty.toNat q f.va.toNat))
    ElemResults h f.g 0 f.vd (anyWidth f.ty.toNat) es (fun l e =>
      (((tyFmt f.ty.toNat).round 0 false false
        ((vals l e).foldl (fun a x => (pickNum true a (absNum x)).1) (.nan false))).1, snanFlag (vals l e))) b)
  ∧ LaneOp .pkt5 (fun f => [f.vd.toNat]) (fun _ => []) (fun f h b =>
    ElemResults h f.g 0 f.vd 32 1 (fun l _ =>
      let t := h.band.tritsOf f l
      (t5Byte t, if ∃ x ∈ t, 1 < x.natAbs then flIOV else 0)) b)
  ∧ LaneOp .upkt5 (fun f => [f.vd.toNat, f.vd.toNat + 1]) (fun _ => []) (fun f h b =>
    Writes64 h f.g f.vd.toNat (fun l =>
      BitVec.ofNat 64 (ofElems 8 ((t5Trits ((h.band.v32 l f.va.toNat).toNat % 256)).1.map (lowBits 8)))) b
    ∧ RaisesIf h (∃ l, l < 32 ∧ h.lanes f.g l ∧ 243 ≤ (h.band.v32 l f.va.toNat).toNat % 256) flTQ b)
  ∧ Claims.ElementConversions ∧ Claims.SlotKinds

/-- R132: SCAN and RDC at F32 take the lanes in ascending order: ADD sums strictly in that order, each partial sum
rounded as FADD rounds it; MIN and MAX pick as FMIN and FMAX do; the identities are +0, +Inf and -Inf. -/
def Claims.FloatScans : Prop :=
  (∀ rdc : Bool, LaneOp (if rdc then .rdc else .scan) (fun f => f.vd.toNat :: destV f.ty f.vd ++ [f.vd.toNat + 1]) (fun _ => [])
    (fun f h b => f.ty = 8 → f.sub.toNat / 16 % 2 = 0 →
      let excl := f.sub.toNat / 8 % 2 = 1
      let vals : Nat → List FNum := fun l =>
        ((h.mates f.g l).filter fun k => rdc || (if excl then decide (k < l) else decide (k ≤ l))).map fun k =>
          fmtF32.decode false (h.band.v32 k f.va.toNat).toNat
      ElemResults h f.g 0 f.vd 32 1 (fun l _ => scanFlt (f.sub.toNat % 8) (rmOf f) (vals l)) b))
  ∧ (∀ op rm c, c < 2 ^ 32 →
      let v := fmtF32.decode false c
      scanFlt op rm [v] = if v.isNan then (0x7FC00000, if v.isSnan then flIV else 0) else (c, 0))
  ∧ (∀ op rm, (scanFlt op rm []).1 = if op = 0 then 0 else if op = 2 then 0xFF800000 else 0x7F800000)
  ∧ (∀ op rm v vs x, scanFlt op rm (v :: vs ++ [x]) =
      let a := scanFlt op rm (v :: vs)
      let r := if op = 0 then addNum rm (fmtF32.decode false a.1) x else pickNum (op == 2) (fmtF32.decode false a.1) x
      let q := fmtF32.round rm false false r.1
      (q.1, a.2 ||| r.2 ||| q.2))

/-- Float comparison, functions, scans and reductions. -/
def Obligations.FloatFunctionsAndScans : Prop := Claims.FloatCompareAndFunctions ∧ Claims.FloatScans

/-! ### Memory (08_memory.md) -/

/-- R206 to R208, R210 to R214: what each memory instruction logs: LD, LDTR and the atomics for the lanes it acts on, LDS,
STS and ATOMS for Leader; its address, its data or operands, its scope, order and policy. R188, R218: it waits for room in
the log, and a release for what the band has outstanding. R187, R195, 15_traps.md R373: an address that fails stops the word,
and in a PAIRED crew so do halves that differ; that PAIRMIS is taken before an ALIGN, RANGE, NOWIN or PERM fault of the same
word is the model's choice (log entry 13, DEDUCED: no rule gives the order). -/
def Obligations.MemoryInstructions : Prop :=
  (∀ f, LaneAccess (.ld f) f.g false
    ⟨.load, f.sp, 2 ^ f.w.toNat, .r, f.sc.toNat, f.ord.getLsbD 0, f.ord.getLsbD 1, f.cp.toNat, f.vt.toNat, 0⟩
    fun h l => ⟨h.address f.am f.sp f.va f.sb (memOffset f) l, [], []⟩)
  ∧ (∀ f, LaneAccess (.st f) f.g true
    ⟨.store, f.sp, 2 ^ f.w.toNat, .w, f.sc.toNat, f.ord.getLsbD 0, f.ord.getLsbD 1, f.cp.toNat, f.vt.toNat, 0⟩
    fun h l => ⟨h.address f.am f.sp f.va f.sb (memOffset f) l, h.group f.vt.toNat (2 ^ f.w.toNat) l, []⟩)
  ∧ (∀ f, (Instr.lds f).wf = true → BandAccess (.lds f) f.g
    ⟨.loadS, f.sp, 2 ^ f.w.toNat, .r, f.sc.toNat, f.ord.getLsbD 0, f.ord.getLsbD 1, f.cp.toNat, f.vt.toNat, 0⟩
    fun h => ⟨h.band.sreg f.sb.toNat + BitVec.ofInt 64 (memOffset f), [], []⟩)
  ∧ (∀ f, (Instr.sts f).wf = true → BandAccess (.sts f) f.g
    ⟨.storeS, f.sp, 2 ^ f.w.toNat, .w, f.sc.toNat, f.ord.getLsbD 0, f.ord.getLsbD 1, f.cp.toNat, f.vt.toNat, 0⟩
    fun h => ⟨h.band.sreg f.sb.toNat + BitVec.ofInt 64 (memOffset f),
      (List.range (2 ^ f.w.toNat)).map fun i => (h.band.sreg f.vt.toNat).extractLsb' (8 * i) 8, []⟩)
  ∧ (∀ f, LaneAccess (.ldtr f) f.g false
    ⟨.loadT, f.sp, 2 ^ f.w.toNat, .r, f.sc.toNat, f.ord.getLsbD 0, f.ord.getLsbD 1, f.cp.toNat, f.vt.toNat, 0⟩
    fun h l => ⟨h.address f.am f.sp f.va f.sb (memOffset f + if f.am = 1 then 32 * l * 2 ^ f.w.toNat else 0) l, [], []⟩)
  ∧ (∀ f, LaneAccess (.cctl f) f.g false
    ⟨.cctl, f.sp, 2 ^ f.w.toNat, .none, f.sc.toNat, f.ord.getLsbD 0, f.ord.getLsbD 1, f.cp.toNat, 0, f.vt.toNat % 8⟩
    fun h l => ⟨h.address f.am f.sp f.va f.sb (memOffset f) l, [], []⟩)
  ∧ (∀ f, LaneAccess (.atom f) f.g true
    ⟨.atom, f.sp, 2 ^ f.w.toNat, .rw, f.sc.toNat, f.ord.getLsbD 0, f.ord.getLsbD 1, f.cp.toNat, f.vt.toNat, f.aop.toNat⟩
    fun h l => ⟨h.address f.am f.sp f.va f.sb 0 l, h.group f.vx.toNat (2 ^ f.w.toNat) l, []⟩)
  ∧ (∀ f, LaneAccess (.red f) f.g true
    ⟨.red, f.sp, 2 ^ f.w.toNat, .rw, f.sc.toNat, f.ord.getLsbD 0, f.ord.getLsbD 1, f.cp.toNat, f.vt.toNat, f.aop.toNat⟩
    fun h l => ⟨h.address f.am f.sp f.va f.sb 0 l, h.group f.vx.toNat (2 ^ f.w.toNat) l, []⟩)
  ∧ (∀ f, LaneAccess (.acas f) f.g true
    ⟨.cas, f.sp, 2 ^ f.w.toNat, .rw, f.sc.toNat, f.ord.getLsbD 0, f.ord.getLsbD 1, f.cp.toNat, f.vt.toNat, f.aop.toNat⟩
    fun h l => ⟨h.address f.am f.sp f.va f.sb 0 l, h.group f.vt.toNat (2 ^ f.w.toNat) l,
      h.group f.vx.toNat (2 ^ f.w.toNat) l⟩)
  ∧ (∀ f, (Instr.atoms f).wf = true → BandAccess (.atoms f) f.g
    ⟨.atomS, f.sp, 2 ^ f.w.toNat, .rw, f.sc.toNat, f.ord.getLsbD 0, f.ord.getLsbD 1, f.cp.toNat, f.vt.toNat, f.aop.toNat⟩
    fun h => ⟨h.band.sreg f.sb.toNat,
      (List.range (2 ^ f.w.toNat)).map fun i => (h.band.sreg (f.vx.toNat % 64)).extractLsb' (8 * i) 8, []⟩)

/-- R175, R178, R179, R181, R187: a misaligned address is refused with ALIGN; PRIV, SCR, CLU and CHIP addresses outside
their range with RANGE; a GLB address goes through the lowest-numbered valid window that covers it, NOWIN without one,
PERM where it lacks a permission. -/
def Claims.AddressesResolve : Prop :=
  ∀ (s : State) (h : Here) sp u need a, 0 < u →
    let n := a.toNat
    let r := s.locate h sp u need a
    (n % u ≠ 0 → r = .error 4)
    ∧ (n % u = 0 →
      (sp = 0 → r = if n + u ≤ h.ctx.pvsize.toNat then .ok (.priv n, 0) else .error 3)
      ∧ (sp = 1 → r = if n + u ≤ h.crew.size then .ok (.scr h.crew.member n, 0) else .error 3)
      ∧ (sp = 2 → 2 ^ 23 ≤ n → r = .error 3)
      ∧ (sp = 2 → n < 2 ^ 23 →
          (h.crew.gang.length ≤ n / 2 ^ 19 → r = .error 3)
          ∧ ∀ c k w, h.crew.gang[n / 2 ^ 19]? = some (c, k) → s.crew? c k = some w →
              r = if n % 2 ^ 19 + u ≤ w.size then .ok (.scr (n / 2 ^ 19) (n % 2 ^ 19), 0) else .error 3)
      ∧ (sp = 3 → r = if h.ctx.chiplo.toNat ≤ n ∧ n + u ≤ h.ctx.chiphi.toNat ∧ n + u ≤ 0x3F00000 then .ok (.chip n, 0)
          else .error 3)
      ∧ (3 < sp.toNat →
          ((∀ i, i < 16 → ¬h.ctx.Covers i a) → r = .error 1)
          ∧ ∀ i, i < 16 → h.ctx.Covers i a → (∀ j, j < i → ¬h.ctx.Covers j a) →
              let lo := (h.ctx.vw.get 0 (2 * i)).toNat
              let hi := (h.ctx.vw.get 0 (2 * i + 1)).toNat
              (¬h.ctx.Permits i need → r = .error 2)
              ∧ (h.ctx.Permits i need →
                  r = .ok (.ia ((hi / 2 ^ 24 * 2 ^ 16 + (n - lo / 2 ^ 16 % 2 ^ 41 * 2 ^ 16)) % 2 ^ 56), lo / 16 % 4))))

/-- R188, R189, R207, R208, R211 to R215, 15_traps.md R368: MEM_OP_COMPLETE performs an element that lies in CHIP or in a
scratchpad whose bytes are not poisoned: a load takes the bytes, a store writes its own, an atomic writes what its
operation gives and takes the old ones; no other byte of any memory changes, and no band but its own. R194: of a load or
store of 128 or 256 bits it performs one 64-bit part, any of those that remain. -/
def Obligations.ElementsPerformed : Prop :=
  ∀ s h o e, Due s h o e →
    let st := o.kind = .store ∨ o.kind = .storeS
    let at_ := o.kind = .atom ∨ o.kind = .cas ∨ o.kind = .atomS ∨ o.kind = .red
    let took : List Byte → List Byte := fun old => if st ∨ o.kind = .cctl then [] else old
    let acq : State → State := fun u => if o.acq then u.acquireAt h.core o.scope else u
    let go : State → Nat → Nat → List Byte → (List Byte → Band → Prop) → Prop := fun s0 k n data post =>
      let new : List Byte → List Byte := fun old =>
        if st then data else if at_ then newBytes (o.kind == .cas) o.aop data e.cmp old else []
      let a0 : Nat → Memory → Nat → Byte := fun a m x => if a ≤ x ∧ x < a + (new (m.read a n)).length
        then (new (m.read a n)).getD (x - a) 0 else m.at x
      (∀ a, e.loc = .chip a → s.chip.poisoned 8 (a + k) n = false →
        ∃ u b, exec (.memOpComplete h.core h.slot o.id (1#32 <<< e.lane)) s = .next ((acq u).setBand h.core h.slot b)
          ∧ u = { s0 with chip := u.chip } ∧ (∀ x, u.chip.at x = a0 (a + k) s.chip x)
          ∧ post (took (s.chip.read (a + k) n)) b)
      ∧ (∀ m a c w, e.loc = .scr m a → s.member? h.crew m = some (c, w)
        → (s.coreAt c).scr.poisoned 8 (w.place + (a + k)) n = false →
        ∃ u b, exec (.memOpComplete h.core h.slot o.id (1#32 <<< e.lane)) s = .next ((acq u).setBand h.core h.slot b)
          ∧ u = { s0 with cores := u.cores }
          ∧ (∀ d x, (u.coreAt d).scr.at x = if d = c then a0 (w.place + (a + k)) (s.coreAt c).scr x else (s.coreAt d).scr.at x)
          ∧ (∀ d, u.coreAt d = { s.coreAt d with scr := (u.coreAt d).scr, last := (u.coreAt d).last })
          ∧ post (took ((s.coreAt c).scr.read (w.place + (a + k)) n)) b)
    (o.size < 16 → go s 0 o.size e.data fun d b => h.Performed o e d s.nextId b)
    ∧ (16 ≤ o.size → (o.kind = .load ∨ o.kind = .loadT ∨ o.kind = .store) → (∃ k, e.Lacks o.size k) →
        ∃ k s0, e.Lacks o.size k ∧ (s0 = s ∨ s0 = { s with fresh := s.fresh + 1 })
          ∧ go s0 k 8 ((e.data.drop k).take 8) fun d b => h.PartPerformed o e k d s.nextId b)

/-- R212, R213: the results of the atomic operations on values of `u` bytes, and of compare and swap. -/
def Claims.AtomicResults : Prop :=
  (∀ u old x, 0 < u → old < 2 ^ (8 * u) → x < 2 ^ (8 * u) →
    let s : Nat → Int := signedOf (8 * u)
    let r : Nat → Nat := fun aop => atomOp aop u old x
    (∀ aop, aop ≤ 10 → r aop < 2 ^ (8 * u))
    ∧ (r 0 : Int) % 2 ^ (8 * u) = (old + x : Nat) % 2 ^ (8 * u)
    ∧ s (r 1) = min (s old) (s x) ∧ s (r 2) = max (s old) (s x) ∧ r 3 = min old x ∧ r 4 = max old x
    ∧ (∀ i, (r 5).testBit i = (old.testBit i && x.testBit i) ∧ (r 6).testBit i = (old.testBit i || x.testBit i)
        ∧ (r 7).testBit i = (old.testBit i != x.testBit i))
    ∧ r 8 = x ∧ r 9 = (if old ≥ x then 0 else old + 1) ∧ r 10 = (if old = 0 ∨ old > x then x else old - 1))
  ∧ (∀ old x p q v, (fmtF32.decode false old).rat? = some p → (fmtF32.decode false x).rat? = some q → p + q ≠ 0 →
      (fmtF32.decode false (atomOp 11 4 old x)).rat? = some v → RoundsTo fmtF32 0 (p + q) (atomOp 11 4 old x) v)
  ∧ (∀ old x, old < 2 ^ 32 → x < 2 ^ 32 →
      atomOp 12 4 old x = addCodes fmtBF16 (old % 2 ^ 16) (x % 2 ^ 16) + 2 ^ 16 * addCodes fmtBF16 (old / 2 ^ 16) (x / 2 ^ 16))
  ∧ (∀ data cmp old : List Byte, newBytes true 0 data cmp old = if old = cmp then data else old)
  ∧ (∀ (aop : Nat) (data cmp old : List Byte) (i : Nat), i < old.length →
      (newBytes false aop data cmp old).length = old.length
      ∧ (newBytes false aop data cmp old)[i]? = some (BitVec.ofNat 8 (atomOp aop old.length (ofBytes old) (ofBytes data) / 2 ^ (8 * i))))

/-- The line of a local IA, cached at the L2 or not, lies in HBM and not in host memory. -/
def Claims.OnHbm (s : State) (ia : Nat) : Prop :=
  (∀ e, s.l2.find (ia / 128) = some e → e.mt = 0) ∧ ∀ l, s.walk (localPart ia) = .leaf l → l.mt = 0

/-- R186, R190, R194: what a core writes at a local IA, under whatever policy, its own next read of those bytes gives,
under whatever policy; at DEVICE and wider while no other core pins the line, whose bytes would come first; in host
memory, where the host may write too, at every scope but SYSTEM. The L2 has room for the lines that this touches, so that
it need not read the line again under a page table that has changed since. -/
def Obligations.ReadAfterWrite : Prop :=
  ∀ (s : State) (c k ia : Nat) (d : List Byte) (cp cp' acq : Nat) (t u : State) (p : Bool) (x : List Byte), s.wf = true → ia % 128 + d.length ≤ 128 →
    s.l2.length + 4 * ((s.coreAt c).l1.length + 8) < l2Lines →
    (acq = 5 → Claims.OnHbm s ia) → s.iaWrite (some c) (some k) ia d cp = .ok t () →
    (3 ≤ acq → t.pinners (some c) (ia / 128) = []) → t.iaRead (some c) ia d.length cp' acq = .ok u (x, p) → x = d

/-- R195, R204 (message passing): what band A's core has written at a local IA and then released at CLUSTER scope or
wider, an acquiring read by a core that holds no unwritten copy of the line gives, while no third core pins the line; in host
memory, where the host may write too, at every scope but SYSTEM. The L2 has room for the lines of both cores. -/
def Obligations.MessagePassing : Prop :=
  ∀ (s : State) (c k c' ia : Nat) (d : List Byte) (sc acq cp' : Nat) (t u : State) (p : Bool) (x : List Byte), s.wf = true → ia % 128 + d.length ≤ 128 → c ≠ c' → 2 ≤ sc → 2 ≤ acq
    → s.l2.length + 4 * ((s.coreAt c).l1.length + (s.coreAt c').l1.length + 8) < l2Lines
    → (sc = 5 ∨ acq = 5 → Claims.OnHbm s ia)
    → s.iaWrite (some c) (some k) ia d 0 = .ok t ()
    → (∀ e, t.l1Line c' (ia / 128) = some e → e.dirty = 0 ∧ e.poison = 0 ∧ e.pins = [])
    → (t.release c k sc).pinners (some c') (ia / 128) = []
    → (t.release c k sc).iaRead (some c') ia d.length cp' acq = .ok u (x, p) → x = d

/-- R198, R199: a line that another core holds pinned answers no plain access and no acquire below DEVICE; an acquire at
DEVICE or wider ends every pin of that core, whose dirty bytes the L2 takes. -/
def Obligations.PinsHoldAndPromote : Prop :=
  (∀ (s : State) (c d ia n cp acq : Nat) e, c ≠ d → (∃ m, s.cores.find d = some m)
    → (s.coreAt d).l1.find (ia / 128) = some e → e.pins ≠ [] → acq < 3 → s.l1Line c (ia / 128) = none → s.iaRead (some c) ia n cp acq = .hold)
  ∧ (∀ (s : State) (c d line : Nat) e, c ≠ d → (s.coreAt d).l1.find line = some e → e.pins ≠ [] → (∃ m, s.cores.find d = some m)
    → (∀ a, a < 3 → s.reach (some c) line a = none)
      ∧ ∀ a, 3 ≤ a → ∃ t, s.reach (some c) line a = some t ∧ (t.coreAt d).released = false
          ∧ ∀ l f, (t.coreAt d).l1.find l = some f → f.pins = [])
  ∧ (∀ (s : State) (c line : Nat) e, (s.coreAt c).l1.find line = some e →
      ∃ t, exec (.pinExpiry c line) s = .next t
        ∧ ((∀ p ∈ e.pins, s.cycle < p.cycle + 65536) → t = s)
        ∧ ((∃ p ∈ e.pins, p.cycle + 65536 ≤ s.cycle) → ∃ f, (t.coreAt c).l1.find line = some f
            ∧ ∀ p, p ∈ f.pins ↔ p ∈ e.pins ∧ s.cycle < p.cycle + 65536))

/-- R189, R190, R195, R201, R218, 17_lock.md R395: what waits and what goes first. A band's waits look at its elements that are
not performed; at TL = 1 not at those that a fault holds back until RTE (log entry 9, DEDUCED). An element that may go
waits for none of an earlier operation, unless RTE will reissue that one behind what the handler issues; the lower lanes of
its own operation are done, on their way, or held; and in deterministic mode the SCR accesses that the core issued before it
for bands of its crew have taken effect. -/
def Claims.WhatWaits : Prop :=
  ∀ (s : State) (h : Here),
    let kept : Here → MemOp → Elem → Prop := fun g o e => ∃ p d, Here.Held s g p d ∧ p.id = o.id ∧ d.lane = e.lane
    (∀ o e, (o, e) ∈ s.live h ↔ h.Pending o e ∧ (h.band.tl = true → ¬kept h o e))
    ∧ (s.drained h = false ↔ ∃ x, x ∈ s.live h)
    ∧ (s.remoteWrites h = true ↔ ∃ x ∈ s.live h, x.1.kind ≠ .load ∧ x.1.kind ≠ .loadS ∧ x.1.kind ≠ .loadT
        ∧ ∃ a, x.2.loc = .ia a ∧ s.localIa a = false)
    ∧ (∀ ld : Bool, (if ld then s.ldCount h else s.stCount h) = (h.band.log.filter fun o =>
        (o.kind.isLd == ld) && (s.live h).any fun x => x.1.id == o.id).length)
    ∧ ∀ o e, (∀ p ∈ h.band.log, p.id = o.id → p = o) → o ∈ h.band.log
      → o.elems.find? (fun d => d.lane == e.lane) = some e → s.mayGo h o.id e.lane = true →
        (∀ p d, h.Pending p d → p.id ≠ o.id → s.waits h o e p d = true →
          h.band.tl = true ∧ h.band.killed = false ∧ p.id < h.band.trapAt ∧ h.band.trapAt ≤ o.id ∧ kept h p d)
        ∧ (∀ d ∈ o.elems, d.lane < e.lane → d.st.isDone = true ∨ d.st.isSent = true ∨ d.st.isHurt = true ∨ kept h o d)
        ∧ (h.ctx.detm = true → (∃ m a, e.loc = .scr m a) → ∀ k ∈ h.crew.slots, ∀ g, s.hereAt h.core k = some g →
            g.band.crew = h.band.crew → ∀ p d, g.Pending p d → p.id < o.id → (∃ m a, d.loc = .scr m a) → kept g p d)

/-- R216 to R218, R201: FENCE waits until the band's operations are performed, then performs its release and its acquire
at its scope; FENCEX waits for the remote writes; WAITC waits until each class's count is at or below its field. Each has
no effect when its guard fails in Leader. -/
def Claims.FencesAndWaits : Prop :=
  (∀ s h f, Ready s h → h.band.leads f.g = false →
    Runs (.fence f) s h [] [] [] (KeepsFlags h) ∧ Runs (.fencex f) s h [] [] [] (KeepsFlags h)
    ∧ Runs (.waitc f) s h [] [] [] (KeepsFlags h))
  ∧ (∀ s h f, Ready s h → (Instr.fence f).wf = true → h.band.leads f.g = true →
      let scope := f.sub.toNat % 8
      let kind := f.sub.toNat / 8
      (s.drained h = false → exec (.fence f) s = .next s)
      ∧ (s.drained h = true →
          let s1 := if kind = 1 then s else s.release h.core h.slot scope
          let s2 := if kind = 2 then s1 else s1.acquireAt h.core scope
          ∃ t b, exec (.fence f) s = .next t ∧ Beside h s2 t ∧ t.band? h.core h.slot = some b
            ∧ b = { h.band with p := h.band.p + 8, icnt := h.band.icnt + 1, yld := false,
                                acqAt := if kind = 2 then h.band.acqAt else s.nextId }))
  ∧ (∀ s h f, Ready s h → h.band.leads f.g = true →
      (s.remoteWrites h = true → exec (.fencex f) s = .next s)
      ∧ (s.remoteWrites h = false → Runs (.fencex f) s h [] [] [] (KeepsFlags h)))
  ∧ (∀ s h f, Ready s h → h.band.leads f.g = true →
      let field : Nat → Nat → Nat := fun i n => f.imm.toNat / 2 ^ i % 2 ^ n
      let met := s.ldCount h ≤ field 0 6 ∧ s.stCount h ≤ field 6 6 ∧ s.engCount h ≤ field 12 4
        ∧ s.mxCount h ≤ field 16 4 ∧ s.clCount h ≤ field 20 4
      (¬met → exec (.waitc f) s = .next s) ∧ (met → Runs (.waitc f) s h [] [] [] (KeepsFlags h)))

/-- R209: PREF always completes; it changes no scratchpad, and only what the caches hold, with what a full L2 writes back; a
lane's line is in the L1, or at CP 2 in the L2, when it can be had. -/
def Claims.PrefetchFillsLines : Prop :=
  ∀ s h f, Ready s h → (Instr.pref f).wf = true →
    ∃ s1 t b, exec (.pref f) s = .next t ∧ Beside h s1 t ∧ t.band? h.core h.slot = some b
      ∧ b = { h.band with p := h.band.p + 8, icnt := h.band.icnt + 1, yld := false }
      ∧ s1 = { s with ptes := s1.ptes, l2 := s1.l2, cores := s1.cores, hbm := s1.hbm, hostMem := s1.hostMem,
                      granules := s1.granules }
      ∧ (s.l2.length + 32 * ((s.coreAt h.core).l1.length + 40) < l2Lines →
          s1.hbm = s.hbm ∧ s1.hostMem = s.hostMem ∧ s1.granules = s.granules)
      ∧ (∀ c, s1.coreAt c = { s.coreAt c with l1 := (s1.coreAt c).l1, released := (s1.coreAt c).released })
      ∧ ∀ l a w s2, l < 32 → h.band.guarded f.g = 1#32 <<< l
        → s.locate h f.sp 1 .r (h.address f.am f.sp f.va f.sb (memOffset f) l) = .ok (.ia a, w) → s.localIa a = true
        → s.reach (some h.core) (a / 128) 0 = some s2 →
          let cp := if f.cp = 0 then w else f.cp.toNat
          (cp ≤ 1 → (∃ s3 e, s2.l1Get h.core (a / 128) .r (cp == 1) = .ok s3 e) →
            ∃ e, (s1.coreAt h.core).l1.find (a / 128) = some e)
          ∧ (cp = 2 → (∃ s3 e, s2.l2Get (a / 128) .r = .ok s3 e) → ∃ e, s1.l2.find (a / 128) = some e)
          ∧ (cp = 3 → s1 = s)

/-- Fences, waits and prefetches. -/
def Obligations.FencesWaitsAndPrefetch : Prop :=
  Claims.WhatWaits ∧ Claims.FencesAndWaits ∧ Claims.PrefetchFillsLines

/-- R188, R189, R194, R207, R215: an element on a local IA is performed by the core's own access, under the element's policy; an
acquire reads at its scope; of a load of 128 or 256 bits one 64-bit part, any of those that remain. -/
def Claims.LocalElements : Prop :=
  ∀ s h o e a, Due s h o e → e.loc = .ia a → s.localIa a = true →
    let acq := if o.acq then o.scope else 0
    let done : State → (Band → Prop) → Prop := fun s1 post =>
      ∃ t b, exec (.memOpComplete h.core h.slot o.id (1#32 <<< e.lane)) s = .next t ∧ t = s1.setBand h.core h.slot b ∧ post b
    (o.size < 16 → (o.kind = .load ∨ o.kind = .loadS ∨ o.kind = .loadT) →
      ∀ s1 d, s.iaRead (some h.core) a o.size e.cp acq = .ok s1 (d, false) → done s1 (h.Performed o e d s.nextId))
    ∧ (16 ≤ o.size → (o.kind = .load ∨ o.kind = .loadT) → (∃ k, e.Lacks o.size k) →
        ∃ k s0, e.Lacks o.size k ∧ (s0 = s ∨ s0 = { s with fresh := s.fresh + 1 })
          ∧ ∀ s1 d, s0.iaRead (some h.core) (a + k) 8 e.cp acq = .ok s1 (d, false) →
              done s1 (h.PartPerformed o e k d s.nextId))
    ∧ (o.size < 16 → (o.kind = .store ∨ o.kind = .storeS) → o.rel = false → e.data.length = o.size →
      ∀ s1, s.iaWrite (some h.core) (some h.slot) a e.data e.cp = .ok s1 () → done s1 (h.Performed o e [] s.nextId))
    ∧ (o.size < 16 → (o.kind = .atom ∨ o.kind = .cas ∨ o.kind = .atomS ∨ o.kind = .red) → o.rel = false →
      ∀ s1 d, s.iaAtomic h.core h.slot a o.size e.cp o.scope acq (newBytes (o.kind == .cas) o.aop e.data e.cmp)
          = .ok s1 (d, false) → done s1 (h.Performed o e d s.nextId))
    ∧ (o.kind = .cctl → ∀ s1, s.maintain h.core (a / 128) o.aop = s1 → done s1 (h.Performed o e [] s.nextId))

/-- What an atomic computes, and what an element on a local IA does. -/
def Obligations.AtomicsAndLocalElements : Prop := Claims.AtomicResults ∧ Claims.LocalElements

/-- R187, R188, 15_traps.md R366: MEM_FAULT_RESPONSE marks the elements whose accesses fault, with their sub-cause, and
changes nothing else of the band; NOPAGE of a page without DSVC is also logged for the host. R366 gives the record no layout:
that it is one record for the response, of GROUP 4 with the trap's DETAIL, DIST 0 and the operation's P, is the model's own
reading (log entry 65, DEDUCED). -/
def Obligations.FaultsReturn : Prop :=
  ∀ s h o e sub reason, Due s h o e → s.perform h o e = .bad sub reason →
    ∃ t b, exec (.memFaultResponse h.core h.slot o.id (1#32 <<< e.lane)) s = .next t
      ∧ t = { s with cores := t.cores, ctxs := t.ctxs, out := t.out } ∧ (∀ c, c ≠ h.core → t.coreAt c = s.coreAt c)
      ∧ t.coreAt h.core = { s.coreAt h.core with bands := (t.coreAt h.core).bands }
      ∧ (∀ k, k ≠ h.slot → t.band? h.core k = s.band? h.core k) ∧ t.band? h.core h.slot = some b
      ∧ b = { h.band with log := h.band.log.map fun p => if p.id = o.id then { p with elems := p.elems.map fun x =>
          if x.lane = e.lane then { x with st := .faulted sub reason } else x } else p }
      ∧ ((sub ≠ 5 ∨ s.serviced (h.elemIa e) = true) → t.ctxs = s.ctxs ∧ t.out = s.out)
      ∧ (sub = 5 → s.serviced (h.elemIa e) = false →
          (∀ x, x ≠ h.ctxId → t.ctx? x = s.ctx? x) ∧ t.out = s.out ++ [.msix h.ctx.fn 1]
          ∧ ∃ r, t.ctx? h.ctxId = some { h.ctx with log := addRec h.ctx.log r } ∧ r.group = 4 ∧ r.kind = 0 ∧ r.core = h.core
              ∧ r.slot = h.slot ∧ r.p = o.p
              ∧ ∃ m x, r.detail = sideDetail 5 0 m (h.elemIa x) 0 ∧ x ∈ o.elems ∧ m.getLsbD x.lane = true
                  ∧ m.getLsbD e.lane = true ∧ ∀ l, l < 32 → m.getLsbD l = true → ∃ y ∈ o.elems, y.lane = l ∧ y.st = .pending)

/-- R183 to R185: a translation whose tables are valid and whose leaf, of 2 MiB or of 64 KiB, is well formed and permits
the access gives the leaf's address and sets its A bit; else NOPAGE at an invalid entry, which firmware may be asked to
service at a leaf level; BADPTE at a malformed one; PPERM without permission. -/
def Claims.PageWalks : Prop :=
  ∀ (s : State) (a : Nat) (need : Need),
    let e : Nat → Nat := fun lv => (s.ptes.get 0 (pteKey lv a)).toNat
    let valid : Nat → Prop := fun lv => e lv % 2 = 1
    let leaf : Nat → Prop := fun lv => e lv / 2 % 2 = 1
    let sound : Nat → Prop := fun lv => e lv / 2 ^ 7 % 4 < 2 ∧ e lv / 2 ^ 9 % 8 = 0
    let table : Nat → Prop := fun lv => valid lv ∧ sound lv ∧ ¬leaf lv
    let addr : Nat → Nat := fun lv => e lv / 2 ^ 12 * 2 ^ 12
    let perm : Nat → Prop := fun lv => (need = .r ∨ need = .rw → e lv / 4 % 2 = 1) ∧ (need = .w ∨ need = .rw → e lv / 8 % 2 = 1)
      ∧ (need = .x → e lv / 16 % 2 = 1)
    let gives : Nat → Nat → Prop := fun lv page =>
      ∃ t l, s.translate a need = .ok t l ∧ l.pa = addr lv + a % page ∧ l.mt.toNat = e lv / 2 ^ 7 % 4
        ∧ t = { s with ptes := t.ptes } ∧ ∀ k, t.ptes.get 0 k =
            if k = pteKey lv a then s.ptes.get 0 k ||| 0x20 else s.ptes.get 0 k
    (table 1 → table 2 → valid 3 → sound 3 → leaf 3 → addr 3 % 2 ^ 21 = 0 → perm 3 → gives 3 (2 ^ 21))
    ∧ (table 1 → table 2 → table 3 → valid 4 → sound 4 → leaf 4 → addr 4 % 2 ^ 16 = 0 → perm 4 → gives 4 (2 ^ 16))
    ∧ (∀ lv, 1 ≤ lv → lv ≤ 4 → (∀ k, 1 ≤ k → k < lv → table k) →
        (¬valid lv →
          s.translate a need = if 3 ≤ lv ∧ e lv / 2 ^ 6 % 2 = 1 ∧ (a / 65536, false) ∉ s.served then .hold else .bad 5)
        ∧ (valid lv → ¬sound lv → s.translate a need = .bad 7)
        ∧ (valid lv → lv ≤ 2 → leaf lv → s.translate a need = .bad 7)
        ∧ (valid lv → lv = 4 → ¬leaf lv → s.translate a need = .bad 7)
        ∧ (valid lv → sound lv → 3 ≤ lv → leaf lv → addr lv % (if lv = 3 then 2 ^ 21 else 2 ^ 16) ≠ 0 →
            s.translate a need = .bad 7)
        ∧ (valid lv → sound lv → 3 ≤ lv → leaf lv → addr lv % (if lv = 3 then 2 ^ 21 else 2 ^ 16) = 0 → ¬perm lv →
            s.translate a need = .bad 6))

/-- From an address to a location, and from a local address to a page. -/
def Obligations.AddressesAndPages : Prop := Claims.AddressesResolve ∧ Claims.PageWalks

/-! ### Engines and barrier objects (09_engines.md, 10_rowgather.md) -/

/-- R220, R222, R230, R231: each ENG function checks its scalar addresses, waits at its limits, reads its block and hands
the command to the engine. -/
def Claims.EngineCommandsIssue : Prop :=
  EngIssue .cpyLin 0x00 ∧ EngIssue .cpy2d 0x01 ∧ EngIssue .cpyRowg 0x02 ∧ EngIssue .cpyRows 0x03 ∧ EngIssue .cpyMrow 0x04
  ∧ EngIssue .cpyFill 0x05 ∧ EngIssue .cpyZc 0x06 ∧ EngIssue .cpyZd 0x07 ∧ EngIssue .collAr 0x10 ∧ EngIssue .collRs 0x11
  ∧ EngIssue .collAg 0x12 ∧ EngIssue .collBc 0x13 ∧ EngIssue .ckpt 0x20

/-- R223, R224: an object's 128 bits, and what each event does to it: a generation completes exactly when an event leaves
the arrivals and both byte counts at zero in an object that is not abandoned. -/
def Claims.BarrierObjects : Prop :=
  (∀ x : Obj, x.Fits → Obj.ofNat x.toNat = x
    ∧ x.toNat % 16 = x.gen ∧ x.toNat / 2 ^ 4 % 2 ^ 4 = x.phase ∧ x.toNat / 2 ^ 8 % 2 ^ 16 = x.apend
    ∧ x.toNat / 2 ^ 24 % 2 ^ 16 = x.ainit ∧ x.toNat / 2 ^ 40 % 2 ^ 32 = x.inb.toNat ∧ x.toNat / 2 ^ 72 % 2 ^ 32 = x.outb.toNat
    ∧ x.toNat / 2 ^ 104 % 2 ^ 8 = x.fcode ∧ x.toNat / 2 ^ 112 = x.faux)
  ∧ (∀ x : Obj, x.Fits →
      let clear := x.apend = 0 ∧ x.inb = 0 ∧ x.outb = 0
      (x.phase ≠ 3 → clear → x.check =
        ({ x with gen := (x.gen + 1) % 16, apend := x.ainit, phase := if x.phase = 0 then 1 else x.phase }, true))
      ∧ (x.phase = 3 ∨ ¬clear → x.check = (x, false))
      ∧ (x.phase = 3 → x.arrive = (x, false))
      ∧ (x.phase ≠ 3 → 0 < x.apend → x.arrive = { x with apend := x.apend - 1 }.check)
      ∧ (x.phase ≠ 3 → x.apend = 0 → x.arrive = (if x.phase < 2 then { x with phase := 2, fcode := 0x0F, faux := 0 } else x).check)
      ∧ x.abandon = ({ x with phase := 3 }, true)
      ∧ ∀ i b, Obj.count i b x = { x with inb := x.inb - i, outb := x.outb - b }.check)
  ∧ (∀ (s : State) (c n o : Nat) (w : Crew) (f : Obj → Obj × Bool), s.crew? c n = some w →
      let x := Obj.ofNat (ofBytes ((s.coreAt c).scr.read (w.place + o) 16))
      let t := s.objEvent c n o f
      (f x).1.Fits →
      Obj.ofNat (ofBytes ((t.coreAt c).scr.read (w.place + o) 16)) = (f x).1
      ∧ (∀ a, (a < w.place + o ∨ w.place + o + 16 ≤ a) → (t.coreAt c).scr.at a = (s.coreAt c).scr.at a)
      ∧ (∀ d, d ≠ c → t.coreAt d = s.coreAt d) ∧ t = { s with cores := t.cores }
      ∧ ∀ k b, s.band? c k = some b → ∃ b', t.band? c k = some b'
          ∧ b' = { b with lanes := b'.lanes, pr := b'.pr, acqAt := b'.acqAt }
          ∧ ((∃ l, l < 32 ∧ (b.lane l).st = .blocked ∧ (b'.lane l).st = .wanting) → b'.acqAt = s.nextId)
          ∧ (¬(∃ l, l < 32 ∧ (b.lane l).st = .blocked ∧ (b'.lane l).st = .wanting) → b'.acqAt = b.acqAt)
          ∧ ∀ l, l < 32 → (b'.lane l).st =
              (if k ∈ w.slots ∧ b.crew = n ∧ (b.lane l).st = .blocked ∧ b.active l = true ∧ (b.lane l).obj.toNat = o
                ∧ ((f x).2 = true ∨ (b.lane l).gen.toNat ≠ (f x).1.gen ∨ (f x).1.phase = 3)
               then .wanting else (b.lane l).st)
            ∧ ((b.lane l).st = .blocked → (b'.lane l).st = .wanting → (b.lane l).pd ≠ 0 →
                (b'.pred (b.lane l).pd.toNat).getLsbD l = decide (2 ≤ (f x).1.phase)))

/-- R226, R244, 08_memory.md R203: BINIT writes a fresh object, BARV arrives at it as a release at CORE and reports its
status, BEXP adds to its byte counts, BTEST reads it; each after its checks. -/
def Claims.BarrierInstructions : Prop :=
  ObjectWord .binit (fun s h f o =>
    let a := h.band.sreg f.sa.toNat
    (2 ^ 16 ≤ a.toNat → MemTraps (.binit f) s h 3 a)
    ∧ (a.toNat < 2 ^ 16 → RunsThen (.binit f) s s h h.band fun t =>
        (t.modCrew h.core h.band.crew fun w => w.nameObj o true).objEvent h.core h.band.crew o
          fun _ => (⟨0, 0, a.toNat, a.toNat, 0, 0, 0, 0⟩, false)))
  ∧ ObjectWord .barv (fun s h f o =>
    (s.drained h = false → exec (.barv f) s = .next s)
    ∧ (s.drained h = true →
        let x := h.object s o
        let y := x.arrive.1
        let status : DWord := BitVec.ofNat 64 (x.gen + (if 2 ≤ y.phase then 16 else 0) + (if y.phase = 3 then 32 else 0))
        RunsThen (.barv f) s (s.release h.core h.slot 1) h (if f.rp then h.band.setS f.sd.toNat status else h.band) fun t =>
          let mark : ObjEntry → ObjEntry := fun e => if e.off = o then { e with arr := e.arr ||| 1#32 <<< h.band.index } else e
          let t1 := (t.modCrew h.core h.band.crew fun w => w.nameObj o false).modCrew h.core h.band.crew fun w =>
            { w with objs := w.objs.map mark }
          if x.phase = 3 then t1 else t1.objEvent h.core h.band.crew o Obj.arrive))
  ∧ ObjectWord .bexp (fun s h f o =>
    RunsThen (.bexp f) s s h h.band fun t => t.objEvent h.core h.band.crew o fun x =>
      { x with inb := x.inb + (h.band.sreg f.sa.toNat).setWidth 32, outb := x.outb + (h.band.sreg f.sb.toNat).setWidth 32 }.check)
  ∧ ObjectWord .btest (fun s h f o =>
    ∃ t b, exec (.btest f) s = .next t ∧ Beside h s t ∧ t.band? h.core h.slot = some b
      ∧ BandFrame { h.band with acqAt := s.nextId } b [] [] [f.sd.toNat] ∧ b.lanes = h.band.lanes ∧ h.band.Next b ∧ KeepsFlags h b
      ∧ (let x := h.object s o
         (b.sreg f.sd.toNat).toNat = x.gen + x.phase * 2 ^ 4 + x.apend * 2 ^ 8 + x.fcode * 2 ^ 24 + x.faux * 2 ^ 32
          + (if x.inb = 0 then 0 else 2 ^ 48) + (if x.outb = 0 then 0 else 2 ^ 49)))

/-- R245: BWAIT, with lanes to act on and a label that is a target: a lane whose generation has passed, or whose object is
abandoned, WANTS the label and its status predicate is written; else it is BLOCKED on the object. -/
def Claims.BarrierWait : Prop :=
  ∀ s h f, Ready s h →
    let m := h.band.guarded f.g
    let o := h.band.sreg f.so.toNat
    let g := (h.band.sreg f.sa.toNat).toNat % 16
    let x := h.object s o.toNat
    let met : Bool := x.gen != g || x.phase == 3
    let trap : Nat → Prop := fun sub =>
      exec (.bwait f) s = .next (s.trap h h.band 4 (memDetail sub (lowest m) false false o.toNat) m)
    (m = 0 → Runs (.bwait f) s h [] [] [] (KeepsFlags h))
    ∧ (m ≠ 0 → ¬h.Target f.lid → exec (.bwait f) s = .next (s.trap h h.band 3
        (ctrlDetail (if (h.label f.lid).isSome then 2 else 1) (lowest m) f.lid) m))
    ∧ (m ≠ 0 → h.Target f.lid →
        (o = BitVec.allOnes 64 → trap 3) ∧ (o ≠ BitVec.allOnes 64 → o.toNat % 16 ≠ 0 → trap 4)
        ∧ (o ≠ BitVec.allOnes 64 → o.toNat % 16 = 0 → h.crew.size < o.toNat + 16 → trap 3)
        ∧ (o.toNat % 16 = 0 → o.toNat + 16 ≤ h.crew.size → h.Waits s o.toNat 16 → exec (.bwait f) s = .next s)
        ∧ (o.toNat % 16 = 0 → o.toNat + 16 ≤ h.crew.size → ¬h.Waits s o.toNat 16 →
          ∃ t b, exec (.bwait f) s = .next (t.modCrew h.core h.band.crew fun w => w.nameObj o.toNat false)
            ∧ Beside h s t ∧ t.band? h.core h.slot = some b
            ∧ BandFrame (if met then { h.band with acqAt := s.nextId } else h.band) b [] [f.pd.toNat] []
            ∧ b.p = (if b.running = 0 then h.band.p else h.band.p + 8) ∧ b.icnt = h.band.icnt + 1 ∧ b.yld = false
            ∧ KeepsFlags h b
            ∧ (met = true → LanesBecome h f.g (fun l => { h.band.lane l with st := .wanting, want := f.lid }) b
                ∧ WritesP h f.g f.pd.toNat (fun _ => 2 ≤ x.phase) b)
            ∧ (met = false → b.pr = h.band.pr ∧ LanesBecome h f.g (fun l => { h.band.lane l with
                st := .blocked, want := f.lid, obj := o.setWidth 20, gen := BitVec.ofNat 4 g, pd := f.pd }) b)))

/-- The barrier instructions, and BWAIT. -/
def Obligations.BarrierObjectsAndWaits : Prop :=
  Claims.BarrierObjects ∧ Claims.BarrierInstructions ∧ Claims.BarrierWait

/-- R220, R229, R232, R234: ENG_ACCEPT accepts, of the commands whose band's earlier operations are performed, the oldest
(R220 gives the order in which accepted commands start, and leaves the order of acceptance open: log entry 12, DEDUCED); a
command does not start before those accepted before it; ENG_COMPLETE of a finished command writes its reply, raises its flags and counts
what is left, by what goes to other devices in OUTB and the rest in INB, and the command is gone. -/
def Claims.EngineAcceptsAndCompletes : Prop :=
  (∀ (s : State) k a c b, (s.coreAt k).eng = a ++ c :: b → c.accepted = false → s.bandPast k c.slot c.crew c.id = true
    → (∀ d ∈ a, d.accepted = true ∨ s.bandPast k d.slot d.crew d.id = false) → (∀ d ∈ a ++ b, d.id ≠ c.id) →
    ∃ t, exec (.engAccept k) s = .next t
      ∧ t = s.modCore k fun x => { x with eng := (a ++ b).filter (fun d => d.accepted)
              ++ { c with accepted := true } :: (a ++ b).filter fun d => !d.accepted })
  ∧ (∀ (s : State) k h n, s.hereAt k h.slot = some h →
      (s.bandPast k h.slot h.band.crew n = true ↔ ∀ o e, h.Pending o e →
        (h.band.tl = true → h.band.trapAt ≤ n → (o, e) ∈ s.live h) → n < o.id))
  ∧ (∀ (s : State) k a (c : EngCmd) b n, (s.coreAt k).eng = a ++ c :: b → c.started = false
    → (∃ d ∈ a, d.accepted = true ∧ d.started = false) → (∀ d ∈ a, d.id ≠ c.id) →
    exec (.engWritePerformed k c.id n) s = .next s)
  ∧ (∀ (s : State) k (c : EngCmd) b, (s.coreAt k).eng.find? (fun d => d.id == c.id) = some c → c.finished = true → c.sent = none
    → (∀ r ∈ s.fab.reqs, r.owner ≠ .coll k c.id) → s.band? k c.slot = some b → b.crew = c.crew → b.tl = false →
    ∃ t, exec (.engComplete k c.id) s = .next t
      ∧ let reply : DWord := BitVec.ofNat 64 (c.count % 2 ^ 48 + ((c.fault.map (·.1)).getD 0) % 256 * 2 ^ 48)
        let s0 := match c.coll with
          | none => s
          | some x => { s with fab := { s.fab with
              inbox := s.fab.inbox.filter fun m => !(m.2.team == x.team && m.2.step == x.step),
              aborts := s.fab.aborts.filter fun e => !(e.1 == x.team && e.2.1 == x.step) } }
        let s1 := s0.setBand k c.slot { (if c.rp then b.setS c.sd reply else b) with flags := b.flags ||| c.flags }
        t = ((s1.engTally k c c.left c.far).modCore k fun x => { x with eng := x.eng.filter fun d => d.id != c.id }))
  ∧ (∀ (s : State) k (c : EngCmd) n f, s.engTally k c n f = if c.obj = BitVec.allOnes 64 then s else
      s.objEvent k c.crew c.obj.toNat (Obj.count (BitVec.ofNat 32 (n - f)) (BitVec.ofNat 32 f)))

/-- R235 to R237, R239: CPY.LIN, CPY.2D, CPY.ROWG, CPY.ROWS, CPY.MROW and CPY.FILL within the crew's scratchpad: the writes
that ENG_WRITE_PERFORMED stands for end with the command finished and with every destination byte of its rows holding the
source byte, the pattern's, or zero; no other byte changes. The addresses of the rows are those `EngCmd.unit` gives. -/
def Obligations.CopiesWithinScratchpad : Prop :=
  ∀ (s : State) k (c : EngCmd) w x, s.engCmd? k c.id = some c → s.crew? k c.crew = some w → s.member? w w.member = some (k, w)
    → s.ctx? w.task.ctx = some x
    → c.fn ≤ 5 → c.ssp = 1 → c.dsp = 1 → c.swz = false → c.strict = false → c.sc = 1 → c.obj = BitVec.allOnes 64
    → c.stat = BitVec.allOnes 64 → c.blockOk = true → c.listOk w = true → w.size < 2 ^ 32
    → (∀ d ∈ (s.coreAt k).eng, d.accepted = true → d.started = false → d.id = c.id)
    → (∀ e ∈ s.cores, ∀ d ∈ e.2.eng, d.id = c.id ∨ d.started = false)
    → c.accepted = true ∧ c.started = false ∧ c.finished = false ∧ c.sent = none ∧ c.coll = none ∧ c.fault = none
        ∧ c.cursor = 0 ∧ c.part = [] ∧ c.woff = 0 ∧ c.count = 0 ∧ c.pos = 0 ∧ c.bits = []
    → let d := { c with idx := if c.listed then s.readList k w c else [] }
      let src : Nat → Nat := fun i => ((d.unit i).src.getD 0) % 2 ^ 64
      let dst : Nat → Nat := fun i => (d.unit i).dst % 2 ^ 64
      let wrote : Nat → Nat → Prop := fun i b => i < d.units ∧ (d.unit i).void = false ∧ b < (d.unit i).wr
      (∀ i, i < d.units → (d.unit i).void = false →
          dst i + (d.unit i).wr ≤ w.size ∧ ((d.unit i).src.isSome = true → src i + (d.unit i).wr ≤ w.size))
      → (∀ i b j e, wrote i b → wrote j e → dst i + b = dst j + e → i = j)
      → (∀ i b j e, wrote i b → wrote j e → (d.unit j).src.isSome = true → dst i + b ≠ src j + e)
      → (s.coreAt k).scr.poison = [] →
      ∃ n t c', exec (.engWritePerformed k c.id n) s = .next t ∧ t.engCmd? k c.id = some c' ∧ c'.finished = true
        ∧ c'.fault = none
        ∧ (∀ i b, wrote i b → (t.coreAt k).scr.at (w.place + dst i + b) =
            if c.fn = 5 then c.block.getD (8 + (dst i + b - dst 0) % c.esz) 0
            else if (d.unit i).src.isSome then (s.coreAt k).scr.at (w.place + src i + b) else 0)
        ∧ (∀ a, (∀ i b, wrote i b → a ≠ w.place + dst i + b) → (t.coreAt k).scr.at a = (s.coreAt k).scr.at a)

/-- R241, 14_fabric.md R332, R343, R344: a collective message waits in the receive area with the cycle of its arrival, unless its
collective has ended here; a duplicate is not stored again; a TEAM abort
ends the team's collective of its step with TEAM and the index it names, is kept when that collective has not begun, and is
dropped when it has ended; when FTMO cycles have passed since the collective's issue and since each of its messages came, and
a message is missing, the member's collective ends with REMOTE-TIMEOUT. R344: FAUX names the lowest member whose expected message
has not arrived; that the lowest is meant by member index, and that the plane bits of FAUX are free, is the model's reading
(log entries 31, DEDUCED, and 21, DESIGN CHOICE). A collective that ends so is finished, and no byte of it is left to count. -/
def Claims.CollectiveEvents : Prop :=
  let isColl : EngCmd → Prop := fun c => 0x10 ≤ c.fn ∧ c.fn ≤ 0x13
  (∀ (s : State) (r : RemoteReq) m, r.whole = true → r.epoch = s.fab.epoch →
      let src := s.fab.sources.get ⟨0, [], []⟩ r.src
      let ends := m.step < s.fab.teams.get 0 m.team.toNat
        ∧ ∀ e ∈ s.allColls, ∀ x, e.2.coll = some x → ¬(x.team = m.team ∧ x.step = m.step)
      ((r.q - src.la).toNat < 4096 → r.q ∉ src.accepted →
        ∃ t, exec (.collMessage ⟨r, m⟩) s = .next t
          ∧ t = { s with out := t.out, fab := { s.fab with sources := t.fab.sources, inbox := t.fab.inbox } }
          ∧ (¬ends → t.fab.inbox = s.fab.inbox ++ [(s.cycle, { m with device := r.src })]) ∧ (ends → t.fab.inbox = s.fab.inbox))
      ∧ (r.q ∈ src.accepted → ∃ t, exec (.collMessage ⟨r, m⟩) s = .next t ∧ t = { s with out := t.out }))
  ∧ (∀ (s : State) team step aux, (∀ e ∈ s.allColls, ∀ x, e.2.coll = some x → ¬(x.team = team ∧ x.step = step)) →
      exec (.teamAbort ⟨team, step⟩ aux) s = .next (if step < s.fab.teams.get 0 team.toNat then s else
        { s with fab := { s.fab with aborts := s.fab.aborts ++ [(team, step, aux)] } }))
  ∧ (∀ (s : State) team step aux k c a b x w, s.allColls = a ++ (k, c) :: b → c.coll = some x → x.team = team → x.step = step
    → (∀ e ∈ a, ∀ y, e.2.coll = some y → ¬(y.team = team ∧ y.step = step)) → s.crew? k c.crew = some w
    → s.engCmd? k c.id = some c →
    ∃ t c', exec (.teamAbort ⟨team, step⟩ aux) s = .next t ∧ t.engCmd? k c.id = some c' ∧ c'.finished = true ∧ c'.left = 0
      ∧ c'.sent = none ∧ c'.fault = some (c.fault.getD (0x11, aux)))
  ∧ (∀ (s : State) k (c : EngCmd) x w v j, s.engCmd? k c.id = some c → c.coll = some x → isColl c → c.started = true
    → s.crew? k c.crew = some w → s.ctx? w.task.ctx = some v → c.finished = false → (∀ m ∈ x.members, m < 256) →
    let came : Nat → Prop := fun n => n = x.me ∨ (∃ g ∈ x.got, g.1 = n)
      ∨ ∃ m ∈ s.fab.inbox, m.2.team = x.team ∧ m.2.step = x.step ∧ m.2.sender = n
    j < x.nmem → ¬came j → (∀ n, n < j → came n) → x.timer + s.fab.ftmo.toNat ≤ s.cycle
    → (∀ m ∈ s.fab.inbox, m.2.team = x.team → m.2.step = x.step → m.1 + s.fab.ftmo.toNat ≤ s.cycle) →
    ∃ t c' aux, exec (.collTimeout k c.id) s = .next t ∧ t.engCmd? k c.id = some c' ∧ c'.finished = true ∧ c'.left = 0
      ∧ c'.sent = none ∧ c'.fault = some (c.fault.getD (0x0B, aux)) ∧ aux % 256 = x.members.getD j 0)

/-- The events of the engines and of the collectives. -/
def Obligations.EngineAndCollectiveEvents : Prop := Claims.EngineAcceptsAndCompletes ∧ Claims.CollectiveEvents

/-- R230, R233 to R235, R237, R239: the units of the copy commands. CPY.LIN and CPY.FILL cover their LEN bytes piece by piece;
CPY.2D, CPY.ROWG, CPY.ROWS and CPY.MROW move row i from and to the addresses of their tables, modulo 2^64, over the indices of
the list or the set groups of the mask. -/
def Claims.CopyUnits : Prop :=
  (∀ c : EngCmd,
      let num : Nat → Nat → Nat := fun o n => ofBytes ((c.block.drop o).take n)
      let ctl := num 0 8
      c.src = num 8 8 ∧ c.dst = num 0x10 8 ∧ c.rowb = num 0x18 4 ∧ c.cnt = num 0x1C 4 ∧ c.strict = ctl.testBit 6
      ∧ c.swz = ctl.testBit 7 ∧ c.scp = ctl / 2 ^ 8 % 4 ∧ c.dcp = ctl / 2 ^ 10 % 4 ∧ c.esz = 2 ^ (ctl / 2 ^ 12 % 4)
      ∧ (c.fn ≠ 0x20 → c.ssp = ctl % 8 ∧ c.dsp = ctl / 8 % 8)
      ∧ ((c.fn = 0 ∨ c.fn = 5) → c.len = num 0x18 8)
      ∧ (c.fn = 1 → c.sstr = (BitVec.ofNat 64 (num 0x20 8)).toInt ∧ c.dstr = (BitVec.ofNat 64 (num 0x28 8)).toInt)
      ∧ (2 ≤ c.fn → c.sstr = (BitVec.ofNat 64 (num 0x28 8)).toInt ∧ c.dstr = (BitVec.ofNat 64 (num 0x30 8)).toInt)
      ∧ ((c.fn = 2 ∨ c.fn = 3) → c.listAt = num 0x24 4) ∧ (c.fn = 4 → c.listAt = num 0x20 4))
  ∧ (∀ (s : State) k w (c : EngCmd),
      let byte : Nat → Byte := fun i => (s.coreAt k).scr.at (w.place + c.listAt + i)
      ((c.fn = 2 ∨ c.fn = 3) → (s.readList k w c).length = c.cnt ∧ ∀ i, i < c.cnt →
          (s.readList k w c)[i]? = some (ofBytes [byte (4 * i), byte (4 * i + 1), byte (4 * i + 2), byte (4 * i + 3)]))
      ∧ (c.fn = 4 → (s.readList k w c).Pairwise (· < ·)
          ∧ ∀ g, g ∈ s.readList k w c ↔ g < c.cnt ∧ (byte (g / 8)).getLsbD (g % 8) = true))
  ∧ (∀ c : EngCmd, (c.fn = 0 ∨ c.fn = 5) →
      let piece : Nat → Nat → EngUnit := fun o n => ⟨if c.fn = 0 then some (c.src + o) else none, n, c.dst + o, n, 0, 0, false⟩
      (∀ p, p < c.len → ∃ i o n, i < c.units ∧ c.unit i = piece o n ∧ o ≤ p ∧ p < o + n)
      ∧ (∀ i, i < c.units → ∃ o n, c.unit i = piece o n ∧ o + n ≤ c.len)
      ∧ ∀ i j, i < j → j < c.units → (c.unit i).dst + (c.unit i).wr ≤ (c.unit j).dst)
  ∧ (∀ (c : EngCmd) i, 1 ≤ c.fn → c.fn ≤ 4 →
      let x := c.idx.getD i 0
      let limit := ofBytes ((c.block.drop 0x20).take 4)
      let group := c.idx.getD (i / 16) 0
      let from_ : Int := if c.fn = 2 then x else if c.fn = 4 then (16 * group + i % 16 : Nat) else i
      let to_ : Int := if c.fn = 3 then x else i
      let u := c.unit i
      c.units = (if c.fn = 1 then c.cnt else if c.fn = 4 then 16 * c.idx.length else c.idx.length)
      ∧ u.rd = c.rowb ∧ u.wr = c.rowb ∧ (u.dst : Int) = (c.dst + to_ * c.dstr) % 2 ^ 64
      ∧ (c.fn ≠ 2 ∨ x < limit → ∃ a, u.src = some a ∧ (a : Int) = (c.src + from_ * c.sstr) % 2 ^ 64)
      ∧ (c.fn = 2 → limit ≤ x → u.src = none) ∧ (u.void = true ↔ c.fn = 3 ∧ limit ≤ x)
      ∧ (c.fn ≠ 3 → u.row = i) ∧ (c.fn ≠ 1 → u.pos = if c.fn = 4 then group else i))

/-- R236: SWZ puts byte b of a destination row at the place of its table. -/
def Claims.Swizzles : Prop :=
  ∀ (i : Nat) (d : List Byte) b, d.length % 128 = 0 → b < d.length →
    (swizzle i d).length = d.length
    ∧ (swizzle i d)[b / 128 * 128 + ((b % 128 / 16) ^^^ (i % 8)) * 16 + b % 16]? = d[b]?

/-- R227, R229, R233, R234, R237, R238: the steps of a started copy command: it reads the next piece of its row, up to a 64-byte
boundary, then writes the row's pieces, then counts the row; the last row is counted when the command completes. A void row
is not written, a row without a source is zeros, CPY.FILL writes its pattern, SWZ permutes. A fault of a remote source row
of a gather leaves the row missing; any other stops the command. At its end it writes its status area. -/
def Claims.CopySteps : Prop :=
  ∀ s k c w x, Copying s k c w x → c.fn ≤ 5 →
    let u := c.unit c.cursor
    let needs := if u.src.isNone || u.void then 0 else u.rd
    let out : List Byte := if u.void then []
      else if c.fn = 5 then (List.range u.wr).map fun i => c.block.getD (8 + (u.dst + i - c.dst) % c.esz) 0
      else if u.src.isNone then List.replicate u.wr 0 else if c.swz then swizzle u.row c.part else c.part
    let fault : Bool → Nat → Nat → Prop := fun src code aux =>
      let missing := src = true ∧ 2 ≤ c.fn ∧ c.fn ≤ 4 ∧ 9 ≤ code ∧ code ≤ 0xB
      (¬missing → EngStops s k c w x code aux)
      ∧ (missing → ∃ t d, EngGoes s k c t ∧ t.engCmd? k c.id = some d ∧ d.finished = false ∧ d.cursor = c.cursor + 1 ∧ d.part = []
          ∧ d.woff = 0 ∧ d.sent = none ∧ u.pos ∈ d.bits ∧ (∀ p ∈ c.bits, p ∈ d.bits) ∧ d.fault = some (c.fault.getD (code, aux)))
    let does : Moved → Bool → (List Byte → EngCmd) → Prop := fun r src next =>
      (∀ s1 d, r = .ok s1 d → EngGoes s k c (s1.setEng k (next d)))
      ∧ (∀ s1 dst q, r = .sent s1 dst q → EngGoes s k c (s1.setEng k { c with sent := some (dst, q) }))
      ∧ (∀ code aux, r = .bad code aux → fault src code aux) ∧ (r = .hold → EngGoes s k c s)
    (c.cursor < c.units → c.part.length < needs →
      let a := (u.src.getD 0 + c.part.length) % 2 ^ 64
      does (s.engRead k w x c c.ssp a (min (needs - c.part.length) (64 - a % 64)) c.scp) true
        fun d => { c with part := c.part ++ d })
    ∧ (c.cursor < c.units → needs ≤ c.part.length → c.woff < out.length →
      let a := (u.dst + c.woff) % 2 ^ 64
      does (s.engWrite k w x c c.dsp a c.dcp ((out.drop c.woff).take (min (out.length - c.woff) (64 - a % 64)))) false
        fun d => { c with woff := c.woff + d.length })
    ∧ (c.cursor < c.units → needs ≤ c.part.length → out.length ≤ c.woff →
      let last := c.units ≤ c.cursor + 1
      let listed := 2 ≤ c.fn ∧ c.fn ≤ 4
      ∃ d, EngGoes s k c (((s.setEng k d).engTally k c (if last then 0 else u.wr) (if last then 0 else c.unitFar s x u)).spend
            k c.crew 7 u.wr)
        ∧ d.id = c.id ∧ d.cursor = c.cursor + 1 ∧ d.part = [] ∧ d.woff = 0 ∧ d.finished = false
        ∧ d.left = c.left - (if last then 0 else u.wr) ∧ d.far = (if last then c.unitFar s x u else 0)
        ∧ d.bits = (if (c.fn = 2 ∧ u.src = none) ∨ u.void = true then c.bits ++ [u.pos] else c.bits)
        ∧ d.count = if listed then (if u.src = none ∨ u.void = true then c.count else c.count + 1) else c.count + out.length)
    ∧ (c.units ≤ c.cursor → c.wide ≠ 5 →
      let size := (c.cnt + 7) / 8
      let at_ := w.place + c.stat.toNat
      let area := 2 ≤ c.fn ∧ c.fn ≤ 4 ∧ c.stat ≠ BitVec.allOnes 64 ∧ c.stat.toNat + size ≤ w.size
      ∃ t, EngGoes s k c t ∧ t.engCmd? k c.id = some { c with finished := true }
        ∧ (∀ a, (¬area ∨ a < at_ ∨ at_ + size ≤ a) → (t.coreAt k).scr.at a = (s.coreAt k).scr.at a)
        ∧ (area → ∀ j i, j < size → i < 8 → ((t.coreAt k).scr.at (at_ + j)).getLsbD i = decide (8 * j + i ∈ c.bits)))

/-- R181, R183, R227, R229, R230, R233: how the engine reads and writes a piece in each space: the crew's own scratchpad, a gang
member's through CLU, CHIP within the context's range, and GLB through the windows; a local address by the L2, or, for writes
at CORE scope, in the L1 of the core; poison, and an address that the space does not have, are faults. -/
def Claims.EngineSpaces : Prop :=
  ∀ (s : State) k w x (c : EngCmd) a n cp (d : List Byte), a < 2 ^ 64 → d.length = n →
    let r := fun sp => s.engRead k w x c sp a n cp
    let wr := fun sp => s.engWrite k w x c sp a cp d
    let inScr : BitVec 3 → Nat → Crew → Nat → Prop := fun sp k2 v o =>
      ((s.coreAt k2).scr.poisoned 8 (v.place + o) n = false → r sp.toNat = .ok s ((s.coreAt k2).scr.read (v.place + o) n))
      ∧ ((s.coreAt k2).scr.poisoned 8 (v.place + o) n = true → r sp.toNat = .bad 0xC 0)
      ∧ wr sp.toNat = .ok (s.scrWrite k2 v o d) d
    (∀ v, s.member? w w.member = some (k, v) →
      (a + n ≤ w.size → inScr 1 k v a) ∧ (w.size < a + n → r 1 = .bad 5 0 ∧ wr 1 = .bad 5 0))
    ∧ (∀ k2 v, s.member? w (a / 2 ^ 19) = some (k2, v) → a < 2 ^ 23 →
      (a % 2 ^ 19 + n ≤ v.size → inScr 2 k2 v (a % 2 ^ 19))
      ∧ (v.size < a % 2 ^ 19 + n → r 2 = .bad 5 0 ∧ wr 2 = .bad 5 0))
    ∧ ((s.member? w (a / 2 ^ 19) = none ∨ 2 ^ 23 ≤ a) → r 2 = .bad 5 0 ∧ wr 2 = .bad 5 0)
    ∧ (let inside := x.chiplo.toNat ≤ a ∧ a + n ≤ x.chiphi.toNat ∧ a + n ≤ 0x3F00000
      (inside → (s.chip.poisoned 8 a n = false → r 3 = .ok s (s.chip.read a n)) ∧ (s.chip.poisoned 8 a n = true → r 3 = .bad 0xC 0)
        ∧ wr 3 = .ok { s with chip := s.chip.write 8 a d } d)
      ∧ (¬inside → r 3 = .bad 5 0 ∧ wr 3 = .bad 5 0))
    ∧ (∀ sub, x.win (BitVec.ofNat 64 a) .r = .error sub → ∃ code, EngCode sub code ∧ r 4 = .bad code 0)
    ∧ (∀ sub, x.win (BitVec.ofNat 64 a) .w = .error sub → ∃ code, EngCode sub code ∧ wr 4 = .bad code 0)
    ∧ (∀ ia v, x.win (BitVec.ofNat 64 a) .r = .ok (ia, v) → s.localIa ia = true → 0 < n → ia % 128 + n ≤ 128 →
      let p := if cp = 0 then x.vcp v else cp
      let y := s.iaRead (some k) ia n (if p = 3 then 3 else 2) 0
      (∀ s1 b, y = .ok s1 (b, false) → r 4 = .ok s1 b) ∧ (∀ s1 b, y = .ok s1 (b, true) → r 4 = .bad 0xC 0)
      ∧ (∀ sub, y = .bad sub → ∀ code, EngCode sub code → r 4 = .bad code 0) ∧ (y = .hold → r 4 = .hold))
    ∧ (∀ ia v, x.win (BitVec.ofNat 64 a) .w = .ok (ia, v) → s.localIa ia = true → 0 < n → ia % 128 + n ≤ 128 →
      let p := if cp = 0 then x.vcp v else cp
      let y := if c.wide = 1 ∧ p ≤ 1 then s.iaWrite (some k) (some 32) ia d p else s.iaWrite (some k) none ia d p
      (∀ s1, y = .ok s1 () → wr 4 = .ok s1 d) ∧ (∀ sub, y = .bad sub → ∀ code, EngCode sub code → wr 4 = .bad code 0)
      ∧ (y = .hold → wr 4 = .hold))
    ∧ (∀ ia v need, x.win (BitVec.ofNat 64 a) need = .ok (ia, v) → s.localIa ia = false → s.fab.down (deviceOf ia) = true →
      (need = .r → ∃ aux, r 4 = .bad 0xA aux ∧ aux % 256 = deviceOf ia) ∧ (need = .w → ∃ aux, wr 4 = .bad 0xA aux ∧ aux % 256 = deviceOf ia))

/-- R234: a unit counts in OUTB by the bytes of its destination that lead to another device, byte by byte; CKPT by all of
them, a collective by none (R241, R243). -/
def Claims.FarBytes : Prop :=
  (∀ (x : Ctx) (s : State) a n, a + n ≤ 2 ^ 64 → x.farIn s a n = ((List.range n).filter fun i =>
      match x.window (BitVec.ofNat 64 (a + i)) with
      | some v => !s.localIa ((x.iabase v + (a + i - x.vbase v)) % 2 ^ 56)
      | none => false).length)
  ∧ ∀ (c : EngCmd) (s : State) x u, c.fn ≤ 5 → c.unitFar s x u = if c.dsp = 4 then x.farIn s u.dst u.wr else 0

/-- R230, R233, R237: at its start a command that breaks the rules of its block raises BADCMD, one whose list is poisoned POISON,
one with SC = 0 whose windows have a DSC of 0, 6 or 7 SCOPE with the lowest such window, and under STRICT an index out of
range OOB with its lowest position; none of these moves a byte. -/
def Claims.CommandsStop : Prop :=
  ∀ (s : State) k (c : EngCmd) w x, s.engCmd? k c.id = some c → s.crew? k c.crew = some w → s.ctx? w.task.ctx = some x → c.fn ≤ 7
    → c.accepted = true → c.started = false → c.finished = false → c.sent = none → s.mayStart k c = true →
    let d := s.engBegin k w x c
    let ok := c.blockOk = true ∧ c.listOk w = true
    let stops : Nat → Nat → Prop := fun code aux => ∃ t e, EngGoes s k c t ∧ t.engCmd? k c.id = some e ∧ e.finished = true
      ∧ e.left = 0 ∧ e.fault = some (c.fault.getD (code, aux)) ∧ t.hbm = s.hbm ∧ t.chip = s.chip ∧ t.l2 = s.l2
      ∧ (c.obj = BitVec.allOnes 64 → ∀ j, (t.coreAt j).scr = (s.coreAt j).scr)
    d.idx = (if 2 ≤ c.fn ∧ c.fn ≤ 4 ∧ c.listAt + c.listBytes ≤ w.size then s.readList k w c else [])
    ∧ (d.wide ≠ 5 →
      (¬ok → stops 1 0)
      ∧ (ok → s.listPoisoned k w d = true → stops 0xC 0)
      ∧ (ok → s.listPoisoned k w d = false → ∀ n, c.sc = 0 → n ∈ d.windows x → (x.vdsc n = 0 ∨ 6 ≤ x.vdsc n)
        → (∀ m ∈ d.windows x, (x.vdsc m = 0 ∨ 6 ≤ x.vdsc m) → n ≤ m) → stops 0x10 n)
      ∧ (ok → s.listPoisoned k w d = false → (c.sc ≠ 0 ∨ ∀ m ∈ d.windows x, 1 ≤ x.vdsc m ∧ x.vdsc m ≤ 5)
        → c.strict = true → (c.fn = 2 ∨ c.fn = 3) → ∀ i, i < d.idx.length → ofBytes ((c.block.drop 0x20).take 4) ≤ d.idx.getD i 0
        → (∀ j, j < i → d.idx.getD j 0 < ofBytes ((c.block.drop 0x20).take 4)) → stops 2 i))

/-- The rows that the copy commands move, one step after the other. -/
def Obligations.CopiesStepByStep : Prop :=
  Claims.CopyUnits ∧ Claims.Swizzles ∧ Claims.CopySteps ∧ Claims.EngineSpaces ∧ Claims.FarBytes ∧ Claims.CommandsStop

/-- R240: a compressed chunk: its mask, its nonzero elements in order, zeros up to a multiple of 4; what it restores. -/
def Claims.Compression : Prop :=
  (∀ flt (e : List Byte), zeroElem flt e = true ↔ (∀ b ∈ e, b = 0) ∨ (flt = true ∧ e ≠ [] ∧ ofBytes e = 2 ^ (8 * e.length - 1)))
  ∧ (∀ k n flt (d : List Byte), 0 < k → n ≤ 32 → d.length = k * n →
      let z := compress k flt d
      let m := ofBytes (z.take 4)
      let els := (List.range n).map fun i => (d.drop (k * i)).take k
      (∀ i, m.testBit i = (decide (i < n) && !zeroElem flt (els.getD i [])))
      ∧ (∃ pad, pad < 4 ∧ z.drop 4 = (els.filter fun e => !zeroElem flt e).flatten ++ List.replicate pad 0) ∧ z.length % 4 = 0
      ∧ expand k n m (z.drop 4) = els.flatMap fun e => if zeroElem flt e then List.replicate k 0 else e)

/-- R227, R234, R240: the steps of CPY.ZC and CPY.ZD: chunk i is 32 elements, or what is left of LEN; CPY.ZC writes it compressed
behind the chunks before it, unless that would pass DCAP; CPY.ZD reads the mask and then the elements that it sets, behind
what it has read, and writes what they restore, unless that would pass SCAP or the mask sets a bit beyond the chunk. -/
def Claims.CompressionSteps : Prop :=
  ∀ s k c w x, Copying s k c w x → (c.fn = 6 ∨ c.fn = 7) → c.cursor < c.units →
    let cap := ofBytes ((c.block.drop 0x1C).take 4)
    let chunk := 32 * c.esz
    let n := min chunk (ofBytes ((c.block.drop 0x18).take 4) - c.cursor * chunk)
    let mask := ofBytes (c.part.take 4)
    let sets := ((List.range (n / c.esz)).filter fun i => mask.testBit i).length
    let needs := if c.fn = 6 then n else if c.part.length < 4 then 4 else 4 + (c.esz * sets + 3) / 4 * 4
    let badMask := c.fn = 7 ∧ 4 ≤ c.part.length ∧ 2 ^ (n / c.esz) ≤ mask
    let from_ := if c.fn = 6 then c.src + c.cursor * chunk else c.src + c.pos
    let to_ := if c.fn = 6 then c.dst + c.pos else c.dst + c.cursor * chunk
    let out := if c.fn = 6 then compress c.esz (c.block.getD 1 0 |>.getLsbD 6) c.part
      else expand c.esz (n / c.esz) mask (c.part.drop 4)
    c.units = (ofBytes ((c.block.drop 0x18).take 4) + chunk - 1) / chunk
    ∧ (c.part.length < needs →
      let a := (from_ + c.part.length) % 2 ^ 64
      let r := s.engRead k w x c c.ssp a (min (needs - c.part.length) (64 - a % 64)) c.scp
      ((c.fn = 7 ∧ cap < c.pos + needs) ∨ badMask → EngStops s k c w x 0xE (c.cursor % 2 ^ 16))
      ∧ ((c.fn = 6 ∨ c.pos + needs ≤ cap) → ¬badMask →
          (∀ s1 d, r = .ok s1 d → EngGoes s k c (s1.setEng k { c with part := c.part ++ d }))
          ∧ ∀ code aux, r = .bad code aux → EngStops s k c w x code aux))
    ∧ (needs ≤ c.part.length →
      (badMask → EngStops s k c w x 0xE (c.cursor % 2 ^ 16))
      ∧ (c.fn = 6 → cap < c.pos + out.length → EngStops s k c w x 0xD 0)
      ∧ (¬badMask → (c.fn = 6 → c.pos + out.length ≤ cap) →
        (c.woff < out.length →
          let a := (to_ + c.woff) % 2 ^ 64
          let r := s.engWrite k w x c c.dsp a c.dcp ((out.drop c.woff).take (min (out.length - c.woff) (64 - a % 64)))
          (∀ s1 d, r = .ok s1 d → EngGoes s k c (s1.setEng k { c with woff := c.woff + d.length }))
          ∧ ∀ code aux, r = .bad code aux → EngStops s k c w x code aux)
        ∧ (out.length ≤ c.woff →
          let last := c.units ≤ c.cursor + 1
          let moved := if c.fn = 6 then out.length else c.part.length
          ∃ d f, EngGoes s k c (((s.setEng k d).engTally k c (if last then 0 else n) f).spend k c.crew 7 n)
            ∧ d.id = c.id ∧ d.cursor = c.cursor + 1 ∧ d.part = [] ∧ d.woff = 0 ∧ d.finished = false
            ∧ d.left = c.left - (if last then 0 else n) ∧ d.pos = c.pos + moved ∧ d.count = c.count + moved)))

/-- R185, R243: the steps of CKPT: granule by granule; in mode 0 a granule of HBM whose bit is set is read after its bit is
cleared, and goes out as its offset, CKID and its bytes, behind the records before it; the others are passed; in mode 1 every granule
goes out at its own offset. Its count is written at its status offset. -/
def Claims.CheckpointSteps : Prop :=
  ∀ s k c w x, Copying s k c w x → c.fn = 0x20 →
    let mode := ofBytes (c.block.take 8)
    let a := (c.src + c.cursor * 4096) % 2 ^ 64
    let out := if mode = 1 then c.part
      else toBytes 8 (c.cursor * 4096) ++ (c.block.drop 0x20).take 8 ++ c.part
    let passes : State → Nat → Nat → Prop := fun s1 wrote count =>
      let last := c.units ≤ c.cursor + 1
      ∃ d, EngGoes s k c (((s1.setEng k d).engTally k c (if last then 0 else 4096) (if last then 0 else 4096)).spend k c.crew 7 4096)
        ∧ d.id = c.id ∧ d.cursor = c.cursor + 1 ∧ d.part = [] ∧ d.woff = 0 ∧ d.finished = false
        ∧ d.left = c.left - (if last then 0 else 4096) ∧ d.pos = c.pos + wrote ∧ d.count = count
    c.units = ofBytes ((c.block.drop 0x18).take 8) / 4096
    ∧ (c.cursor < c.units → mode = 0 → c.part = [] → ∀ ia v l, x.win (BitVec.ofNat 64 a) .r = .ok (ia, v)
        → s.walk (localPart ia) = .leaf l →
        ((l.mt ≠ 0 ∨ l.pa / 4096 ∉ s.granules) → passes s 0 c.count)
        ∧ (l.mt = 0 → l.pa / 4096 ∈ s.granules →
            let s0 := { s with granules := s.granules.filter fun g => g != l.pa / 4096 }
            ∀ s1 d, s0.engRead k w x c 4 a (min 4096 (64 - a % 64)) c.scp = .ok s1 d → EngGoes s k c (s1.setEng k { c with part := d })))
    ∧ (c.cursor < c.units → (mode = 1 ∨ c.part ≠ []) → c.part.length < 4096 →
        let b := (c.src + c.cursor * 4096 + c.part.length) % 2 ^ 64
        ∀ s1 d, s.engRead k w x c 4 b (min (4096 - c.part.length) (64 - b % 64)) c.scp = .ok s1 d →
          EngGoes s k c (s1.setEng k { c with part := c.part ++ d }))
    ∧ (c.cursor < c.units → 4096 ≤ c.part.length → c.woff < out.length →
        let b := (c.dst + c.pos + c.woff) % 2 ^ 64
        ∀ s1 d, s.engWrite k w x c 4 b c.dcp ((out.drop c.woff).take (min (out.length - c.woff) (64 - b % 64))) = .ok s1 d →
          EngGoes s k c (s1.setEng k { c with woff := c.woff + d.length }))
    ∧ (c.cursor < c.units → 4096 ≤ c.part.length → out.length ≤ c.woff →
        passes s out.length (if mode = 1 then c.count + 4096 else c.count + 1))
    ∧ (c.units ≤ c.cursor → c.wide ≠ 5 → ∃ t, EngGoes s k c t ∧ t.engCmd? k c.id = some { c with finished := true }
        ∧ (t.coreAt k).scr
          = ((if c.stat = BitVec.allOnes 64 then s else s.scrWrite k w c.stat.toNat (toBytes 8 c.count)).coreAt k).scr)

/-- Packed copies and checkpoints. -/
def Obligations.CompressionAndCheckpoints : Prop :=
  Claims.Compression ∧ Claims.CompressionSteps ∧ Claims.CheckpointSteps

/-- R242: one element of a reduction: integer ADD wraps, MIN and MAX are exact; for floats they are minimumNumber and
maximumNumber; float ADD is a sum of pairs in some order, each rounded RNE; with EXACT each term is rounded alone at the anchor
and the sum read out once, and a NaN or an infinity gives the canonical NaN and IV. -/
def Claims.Reductions : Prop :=
  (∀ (s : State) dt op exact kx (l : List Nat), (dt = 0 ∨ dt = 1 ∨ dt = 4) → l ≠ [] →
      let w := if dt = 4 then 64 else 32
      let val : Nat → Int := fun x => if dt = 1 then x else signedOf w x
      let r := (s.reduce dt op exact kx l).2
      (s.reduce dt op exact kx l).1 = s ∧ r.2 = 0 ∧ r.1 < 2 ^ w
      ∧ (op = 0 → ((r.1 : Int) - (l.map val).sum) % 2 ^ w = 0)
      ∧ ((∀ x ∈ l, x < 2 ^ w) → op = 1 → r.1 ∈ l ∧ ∀ x ∈ l, val r.1 ≤ val x)
      ∧ ((∀ x ∈ l, x < 2 ^ w) → op = 2 → r.1 ∈ l ∧ ∀ x ∈ l, val x ≤ val r.1))
  ∧ (∀ (s : State) dt op kx (l : List Nat), (dt = 2 ∨ dt = 3) → (op = 1 ∨ op = 2) →
      let f := if dt = 3 then fmtBF16 else fmtF32
      s.reduce dt op false kx l = (s,
        (f.round 0 false false (l.foldl (fun a x => (pickNum (op == 2) a (f.decode false x)).1) (.nan false))).1,
        if ∃ x ∈ l, (f.decode false x).isSnan = true then flIV else 0))
  ∧ (∀ (s : State) dt kx (l : List Nat), (dt = 2 ∨ dt = 3) → l ≠ [] →
      let r := s.reduce dt 0 false kx l
      Combines (if dt = 3 then fmtBF16 else fmtF32) l r.2.1 r.2.2 ∧ ∃ n, r.1 = { s with fresh := n })
  ∧ (∀ (s : State) dt kx (l : List Nat), (dt = 2 ∨ dt = 3) →
      let f := if dt = 3 then fmtBF16 else fmtF32
      let r := s.reduce dt 0 true kx l
      let fin := ∀ x ∈ l, (f.decode false x).rat?.isSome = true
      r.1 = s ∧ (¬fin → r.2 = (f.nanCode, flIV))
      ∧ (fin → ∃ ts : List Int, ts.length = l.length
          ∧ (∀ i q, i < l.length → (f.decode false (l.getD i 0)).rat? = some q → RoundsInt 0 (q * 2 ^ (-kx)) (ts.getD i 0))
          ∧ (let q := f.round 0 false false (.ofInt (BitVec.ofInt 128 ts.sum).toInt kx)
             let exact := ∀ i q, i < l.length → (f.decode false (l.getD i 0)).rat? = some q → q * 2 ^ (-kx) = ts.getD i 0
             r.2.1 = q.1 ∧ ∃ ax, r.2.2 = q.2 ||| ax ||| (if -2 ^ 127 ≤ ts.sum ∧ ts.sum < 2 ^ 127 then 0 else flAO)
               ∧ (exact → q.2.getLsbD 0 = false → ax = 0) ∧ (¬exact ∨ q.2.getLsbD 0 = true → ax = flAX))))

/-- R241, R242: the result at a member once every contribution is there: COLL.AR the elements' reductions, COLL.RS those of its
own block, COLL.AG the contributions one after the other, COLL.BC the root's; then DST is written, whole elements at a time,
and when it is written the command is finished and its COUNT is the bytes of DST. -/
def Claims.CollectiveResults : Prop :=
  (∀ (s : State) (c : EngCmd) (x : Coll),
      let data : Nat → List Byte := fun j => if j = x.me then x.own else ((x.got.find? fun g => g.1 == j).map (·.2)).getD []
      let es := if c.dt = 3 then 2 else if c.dt = 4 then 8 else 4
      let elem : Nat → List Nat := fun e => (List.range x.nmem).map fun j => ofBytes (((data j).drop (es * e)).take es)
      let n := c.len / es
      let from_ := if c.fn = 0x11 then x.me * (n / x.nmem) else 0
      let many := if c.fn = 0x11 then n / x.nmem else n
      let r := s.collResult c x
      let part : Nat → Nat → Nat × BitVec 9 := fun e m =>
        (({ s with fresh := m }).reduce c.dt c.cop c.exact c.kx.toInt (elem (from_ + e))).2
      ((c.fn = 0x10 ∨ c.fn = 0x11) → r.2.1.length = es * many ∧ (∃ m, r.1 = { s with fresh := m })
        ∧ ∃ ms : Nat → Nat, (∀ e, e < many → ofBytes ((r.2.1.drop (es * e)).take es) = (part e (ms e)).1 % 2 ^ (8 * es))
          ∧ ∀ i, i < 9 → (r.2.2.getLsbD i = true ↔ ∃ e, e < many ∧ (part e (ms e)).2.getLsbD i = true))
      ∧ (c.fn = 0x12 → r = (s, (List.range x.nmem).flatMap data, 0))
      ∧ (c.fn = 0x13 → r = (s, data (ofBytes ((c.block.drop 0x1C).take 4)), 0)))
  ∧ (∀ (s : State) k (c : EngCmd) w v x, s.engCmd? k c.id = some c → s.crew? k c.crew = some w → s.ctx? w.task.ctx = some v
      → c.accepted = true → c.started = true → c.finished = false → c.sent = none → c.coll = some x
      → (∀ d ∈ x.members, d ≠ s.domidx.toNat → s.fab.down d = false)
      → (∀ a ∈ s.fab.aborts, ¬(a.1 = x.team ∧ a.2.1 = x.step)) →
      (c.cursor = 1 → x.got.length + 1 = x.nmem
        → (∀ m ∈ s.fab.inbox, m.2.team = x.team → m.2.step = x.step → ∃ g ∈ x.got, g.1 = m.2.sender) → s.mayMove c = true →
        let r := s.collResult c x
        EngGoes s k c (r.1.setEng k { c with cursor := 2, part := r.2.1, flags := c.flags ||| r.2.2 }))
      ∧ (2 ≤ c.cursor → c.woff < c.part.length →
          let es := if c.dt = 3 then 2 else if c.dt = 4 then 8 else 4
          let a := (c.dst + c.woff) % 2 ^ 64
          let m := 64 - a % 64
          let n := min (c.part.length - c.woff) (max es (m / es * es))
          let d := (c.part.drop c.woff).take n
          let goes : State → Prop := fun s1 => EngGoes s k c (s1.setEng k { c with woff := c.woff + n })
          (∀ s1 b, n ≤ m → s.engWrite k w v c c.dsp a 0 d = .ok s1 b → goes s1)
          ∧ (∀ s1 b, m < n → s.engWrite k w v c c.dsp a 0 (d.take m) = .ok s1 b →
              (∀ s2 b2, s1.engWrite k w v c c.dsp (a + m) 0 (d.drop m) = .ok s2 b2 → goes s2)
              ∧ ∀ code aux, s1.engWrite k w v c c.dsp (a + m) 0 (d.drop m) = .bad code aux → c.wide ≠ 5 →
                  ∃ t e, EngGoes s k c t ∧ t.engCmd? k c.id = some e ∧ e.finished = true
                    ∧ e.fault = some (c.fault.getD (code, aux)) ∧ t.chip = s.chip ∧ t.l2 = s.l2 ∧ t.hbm = s.hbm))
      ∧ (2 ≤ c.cursor → c.part.length ≤ c.woff → c.wide ≠ 5 →
          EngGoes s k c ((s.setEng k { c with count := c.part.length, woff := 0, finished := true }).spend k c.crew 7 c.part.length)))

/-- The data of the collectives. -/
def Obligations.CollectiveData : Prop := Claims.Reductions ∧ Claims.CollectiveResults

/-! ### The matrix unit (11_matrix.md, 07_numbers.md) -/

/-- R252, R253, R255: the seven matrix instructions at issue. -/
def Claims.MatrixInstructionsIssue : Prop :=
  MatrixIssue .mldb 0xB0 ∧ MatrixIssue .mbank 0xB1 ∧ MatrixIssue .mma 0xB2 ∧ MatrixIssue .mmag 0xB3
  ∧ MatrixIssue .macz 0xB4 ∧ MatrixIssue .macr 0xB5 ∧ MatrixIssue .macv 0xB6

/-- What the engine and the matrix unit are handed. -/
def Obligations.CommandsIssue : Prop := Claims.EngineCommandsIssue ∧ Claims.MatrixInstructionsIssue

/-- 07_numbers.md R156 to R158: a contribution is added exactly, or, below the anchor, rounded alone to the nearest
integer, ties to even, with the inexact bit set when it is not exact; the order of contributions does not matter; the
architectural value is the exact sum modulo 2^128. The read-out rounds that value at its anchor once, by the slot's mode:
into an integer kind with clamping, and IOV, whatever SAT is, into a float kind as R150 says; it raises AX where the element
or the read-out is inexact, and AO where the exact sum lies outside the range of A. -/
def Obligations.AccumulatorRules : Prop :=
  (∀ (a : Acc) (s e : Int), (a.add s e).anchor = a.anchor ∧
    let d := e - a.anchor.toInt
    let t := (a.add s e).sum - a.sum
    (0 ≤ d → t = s * 2 ^ d.toNat ∧ (a.add s e).inexact = a.inexact)
    ∧ (d < 0 → (2 * (t * 2 ^ (-d).toNat - s).natAbs < 2 ^ (-d).toNat
          ∨ (2 * (t * 2 ^ (-d).toNat - s).natAbs = 2 ^ (-d).toNat ∧ t % 2 = 0))
        ∧ ((a.add s e).inexact = true ↔ a.inexact = true ∨ t * 2 ^ (-d).toNat ≠ s)))
  ∧ (∀ (a : Acc) s e s' e', (a.add s e).add s' e' = (a.add s' e').add s e)
  ∧ (∀ a : Acc, (a.arch.toInt - a.sum) % 2 ^ 128 = 0)
  ∧ ∀ (a : Acc) d,
      let x : Rat := (a.arch.toInt : Rat) * 2 ^ a.anchor.toInt
      let raised : BitVec 9 → BitVec 9 := fun r => r ||| (if a.inexact = true ∨ r &&& flNX ≠ 0 then flAX else 0)
        ||| (if a.sum < -2 ^ 127 ∨ 2 ^ 127 ≤ a.sum then flAO else 0)
      (∀ w signed, slotKind d = .int w signed → ∃ n, RoundsInt (slotRm d) x n ∧
        let lo := kindMin w signed
        let hi := kindMax w signed
        let nx := if (n : Rat) = x then 0 else flNX
        (lo ≤ n → n ≤ hi → a.readOut d = (lowBits w n, raised nx))
        ∧ (n < lo → a.readOut d = (lowBits w lo, raised (nx ||| flIOV)))
        ∧ (hi < n → a.readOut d = (lowBits w hi, raised (nx ||| flIOV))))
      ∧ (∀ f, slotKind d = .flt f → ∃ y, y.rat? = some x ∧ (x = 0 → y.sign? = some false) ∧
          let r := f.round (slotRm d) (slotSat d) false y
          a.readOut d = (r.1, raised r.2))

/-- R253, R255: MX_ACCEPT accepts the oldest instruction that waits, once its band's earlier memory operations are
performed; MX_COMPLETE runs the head of the queue, writes its errors to its object and to the log, raises its flags, and
then counts it down on its object. An instruction of a crew that does not own the unit has no effect but OWNER. -/
def Obligations.MatrixAcceptsAndCompletes : Prop :=
  (∀ (s : State) k a (c : MxCmd) b, (s.coreAt k).mx.queue = a ++ c :: b → c.accepted = false → (∀ d ∈ a, d.accepted = true)
    → (∀ d ∈ a ++ b, d.id ≠ c.id) → (c.gt = none ∨ c.notOwner = true) →
    (s.bandPast k c.slot c.crew c.id = true → exec (.mxAccept k) s = .next (s.modCore k fun x => { x with
      mx := { x.mx with queue := a ++ { c with accepted := true } :: b } }))
    ∧ (s.bandPast k c.slot c.crew c.id = false → exec (.mxAccept k) s = .next s))
  ∧ (∀ (s : State) k (c : MxCmd) rest w, (s.coreAt k).mx.queue = c :: rest → c.accepted = true → s.crew? k c.crew = some w
    → (c.gt = none ∨ c.notOwner = true) → exec (.mxComplete k) s = .next (s.finished k c w none))
  ∧ (∀ (s : State) k w (c : MxCmd) r gang, c.notOwner = true → s.mxRun k w c r gang = ⟨s, [(0x27, 0)], 0⟩)

/-- R250, R266: MLDB of a valid load without poison: the bank takes the weights and the scales, the other bank, the selection
and the accumulators stay, and TQ is raised for an invalid T5 byte. -/
def Claims.MatrixLoads : Prop :=
  ∀ s k c w wd, MxHead s k c w → c.op = 0xB0 → cellsPer c.fsb = some wd →
    let l := LoadD.ofNat c.sb.toNat
    let v := s.seenBy c
    l.ok c.fsb = true → l.inside w c.fsb c.sa.toNat l.bscl = true → (s.coreAt k).scr.poison = [] →
    MatrixDone s k c (fun m m' => BankLoaded v k w c.fsb l c.sa.toNat l.bscl (m.bank c.bnk) (m'.bank c.bnk)
      ∧ m'.bank (!c.bnk) = m.bank (!c.bnk) ∧ m'.sel = m.sel ∧ m'.acc = m.acc) (fun t =>
        c.obj = BitVec.allOnes 64 → UnitOnly s t)
    ∧ ∀ r, (s.mxRun k w c r none).errs = [] ∧ (s.mxRun k w c r none).flags =
        if slotKindCode c.fsb = 5 ∧ ∃ n, n < l.n ∧ ∃ x ∈ v.rowAt k w (c.sa.toNat + n * l.rstr) (rowBytes c.fsb (32 * l.kb)),
          243 ≤ x.toNat then flTQ else 0

/-- 08_memory.md R203: the unit's operands are what it read ahead, and else what stands. -/
def Claims.OperandsReadAhead : Prop :=
  (∀ (s : State) c, c.seen = [] → s.seenBy c = s)
  ∧ (∀ (s : State) (c : MxCmd) seen k a (d : List Byte), c.seen = seen ++ [(k, a, d)] →
      let v := s.seenBy { c with seen := seen }
      s.seenBy c = { v with cores := (s.seenBy c).cores } ∧ (∀ q, q ≠ k → (s.seenBy c).coreAt q = v.coreAt q)
      ∧ ∀ x, ((s.seenBy c).coreAt k).scr.at x = if a ≤ x ∧ x < a + d.length then d.getD (x - a) 0 else (v.coreAt k).scr.at x)
  ∧ ∀ (s : State) core k a n (c : MxCmd) rest, (s.coreAt core).mx.queue = c :: rest → c.accepted = true
    → (∀ d ∈ rest, d.id ≠ c.id) → s.mxReads core k a n = s.modCore core fun x => { x with
        mx := { x.mx with queue := { c with seen := c.seen ++ [(k, a, (s.coreAt k).scr.read a n)] } :: rest } }

/-- R257, R261 to R264, R268: MMA on a tile with GT = 0, with valid operands: every element of the block takes its products,
but for those of a poisoned row or of a bad column, which is marked Bad; the errors it reports. -/
def Claims.MatrixMultiplies : Prop :=
  ∀ s k c w, MxHead s k c w → c.op = 0xB2 →
    let t := Tile.ofWord c.sb
    let v := s.seenBy c
    let b := (s.coreAt k).mx.bank (s.coreAt k).mx.sel
    let blk := (blockSize c.fsa c.fsb t.k).getD 32
    let nq := if slotScl c.fsa then t.k / blk else 0
    let len := rowBytes c.fsa t.k
    let scr := (s.coreAt k).scr
    let poisoned : Nat → Prop := fun i => i < t.m ∧ (scr.poisoned 8 (w.place + c.sa.toNat + i * t.str) len = true
      ∨ (nq ≠ 0 ∧ scr.poisoned 8 (w.place + t.ascl + i * nq) nq = true))
    let ea : Nat → Nat → Nat := fun i q => if nq = 0 then 127 else ((v.rowAt k w (t.ascl + i * nq) nq).getD q 0).toNat
    t.gt = false → actKind c.fsa = true → (cellsPer c.fsb).isSome = true → c.tileOk t 0 (slotN c.fsb) = true
    → b.slot = c.fsb
    → (∀ i, i < t.m → c.sa.toNat + i * t.str + len ≤ w.size ∧ (nq ≠ 0 → t.ascl + i * nq + nq ≤ w.size)) →
    MatrixDone s k c (fun m m' => m'.sel = m.sel ∧ m'.bank (!m.sel) = m.bank (!m.sel)
      ∧ b.Marked (m'.bank m.sel) (t.m ≠ 0) t.k t.n
      ∧ TakesProducts b t.k blk t.n t.acc t.m (fun i q => codeInt c.fsa (v.rowAt k w (c.sa.toNat + i * t.str) len) q) ea poisoned
          m.acc m'.acc) (fun _ => True)
    ∧ ∀ r, ProductErrors (s.mxRun k w c r none).errs poisoned
        (fun q => q < t.k / blk ∧ ∃ i j, i < t.m ∧ j < t.n ∧ (ea i q = 0xFF ∨ b.code q j = 0xFF))
        (fun m x => t.m ≠ 0 ∧ b.faulty t.k t.n m x)

/-- MMA on a tile of one core, and what the unit has read ahead. -/
def Obligations.MatrixProducts : Prop := Claims.MatrixMultiplies ∧ Claims.OperandsReadAhead

/-- R262, R263: the Nothing rows, in their order: BADFMT, BADDESC, RAGGED, BANKFMT, GANG, RANGE; nothing else happens. -/
def Claims.MatrixRefusals : Prop :=
  ∀ (s : State) k w (c : MxCmd) r gang, c.notOwner = false →
    let t := Tile.ofWord c.sb
    let l := LoadD.ofNat c.sb.toNat
    let mx := (s.coreAt k).mx
    let stops : Nat → Nat → Prop := fun code aux => s.mxRun k w c r gang = ⟨s, [(code, aux)], 0⟩
    let a := c.sa.toNat
    let small : Nat → Prop := fun nc => t.gt = true ∧ 1 ≤ t.m
      ∧ w.gang.length < 4 * ((t.m + 95) / 96 - 1) + (t.n + nc - 1) / nc
    let weights := (cellsPer c.fsb).isSome = true
    let own := t.ok w.member mx.nc = true
    (c.op = 0xB0 → (¬weights → stops 0x21 0) ∧ (weights → l.ok c.fsb = false → stops 0x20 0)
      ∧ (weights → l.ok c.fsb = true → l.inside w c.fsb a l.bscl = false → stops 5 0))
    ∧ (c.op = 0xB2 →
        let fmt := actKind c.fsa = true ∧ weights
        let desc := c.tileOk t w.member (slotN c.fsb) = true
        let same := (mx.bank mx.sel).slot = c.fsb
        let fits := t.fits w.gang.length (slotN c.fsb) = true
        (¬fmt → stops 0x21 0) ∧ (fmt → ¬desc → stops 0x20 0) ∧ (fmt → desc → ¬same → stops 0x22 0)
        ∧ (fmt → desc → same → small (slotN c.fsb) → ∃ m, stops 0x24 m)
        ∧ (∀ m, fmt → desc → same → fits → gang = some m → stops 0x24 m)
        ∧ (fmt → desc → same → gang = none → t.gt = false → (∃ i, i < t.m ∧ w.size < a + i * t.str + rowBytes c.fsa t.k) →
            stops 5 0))
    ∧ (c.op = 0xB4 → (¬own → stops 0x20 0) ∧ (own → small mx.nc → ∃ m, stops 0x24 m))
    ∧ (c.op = 0xB5 → (readKind c.fsb = false → stops 0x21 0)
        ∧ (readKind c.fsb = true → (¬own ∨ a % 16 ≠ 0) → stops 0x20 0)
        ∧ (readKind c.fsb = true → own → a % 16 = 0 → small mx.nc → ∃ m, stops 0x24 m)
        ∧ (readKind c.fsb = true → own → a % 16 = 0 → t.gt = false →
            (∃ i, i < t.m ∧ w.size < a + i * t.str + (t.n * slotBits c.fsb + 7) / 8) → stops 5 0))
    ∧ (c.op = 0xB6 → ((¬own ∨ 2 ^ 32 ≤ a) → stops 0x20 0) ∧ (own → a < 2 ^ 32 → small mx.nc → ∃ m, stops 0x24 m))

/-- R267, R270 to R272: MBANK selects a bank; MACZ clears the block's elements and sets their anchors; MACR reads each
element of its member's block out once into its bits of the row, in the scratchpad of the member where the row lies with GT
= 1, with zeros after the last column, and changes no accumulator; MACV moves one row's architectural values into four
vector registers of the lanes that were RUNNING. -/
def Claims.MatrixReadsOut : Prop :=
  ∀ s k c w, MxHead s k c w →
    let t := Tile.ofWord c.sb
    let nc := (s.coreAt k).mx.nc
    let b := t.block w.member nc
    let same : Matrix → Matrix → Prop := fun m m' => m'.bank0 = m.bank0 ∧ m'.bank1 = m.bank1
    let only : State → Prop := fun t' => c.obj = BitVec.allOnes 64 → UnitOnly s t'
    (c.op = 0xB1 → MatrixDone s k c (fun m m' => same m m' ∧ m'.sel = c.bnk ∧ m'.acc = m.acc) only)
    ∧ (c.op = 0xB4 → t.ok w.member nc = true → t.fits w.gang.length nc = true →
        MatrixDone s k c (fun m m' => same m m' ∧ m'.sel = m.sel ∧ ∀ x, m'.acc.get (Acc.zero 0) x =
          if t.acc ≤ x ∧ x < t.acc + b.mb * b.nb then ⟨0, c.imm.setWidth 11, false⟩ else m.acc.get (Acc.zero 0) x) only)
    ∧ (c.op = 0xB5 → readKind c.fsb = true → t.ok w.member nc = true → t.fits w.gang.length nc = true → c.sa.toNat % 16 = 0
      → c.obj = BitVec.allOnes 64 →
        let cw := slotBits c.fsb
        let len := (b.nb * cw + 7) / 8
        let el : Nat → Nat → Acc := fun i j => (s.coreAt k).mx.acc.get (Acc.zero 0) (t.acc + i * b.nb + j)
        let clu : Nat → Nat := fun i => c.sa.toNat + (b.row + i) * t.str + cw * b.col / 8
        let rows := if b.nb = 0 then 0 else b.mb
        ∀ place : Nat → Nat × Crew × Nat,
        (∀ i, i < rows → if t.gt = true then clu i < 2 ^ 23 ∧ s.member? w (clu i / 2 ^ 19) = some ((place i).1, (place i).2.1)
            ∧ (place i).2.2 = clu i % 2 ^ 19
          else place i = (k, w, c.sa.toNat + i * t.str))
        → (∀ i, i < rows → (place i).2.2 + len ≤ (place i).2.1.size) →
        let start : Nat → Nat := fun i => (place i).2.1.place + (place i).2.2
        (∀ i j, i < j → j < rows → (place i).1 ≠ (place j).1 ∨ start i + len ≤ start j ∨ start j + len ≤ start i) →
        MatrixDone s k c (fun m m' => same m m' ∧ m'.sel = m.sel ∧ m'.acc = m.acc) (fun t' =>
          t' = { s with cores := t'.cores, ctxs := t'.ctxs, fresh := s.fresh + 1 }
          ∧ (∀ i j, i < rows → j < b.nb →
            ofBytes ((t'.coreAt (place i).1).scr.read (start i) len) / 2 ^ (cw * j) % 2 ^ cw
              = ((el i j).readOut c.fsb).1 % 2 ^ cw)
          ∧ (∀ i, i < rows → ofBytes ((t'.coreAt (place i).1).scr.read (start i) len) < 2 ^ (cw * b.nb))
          ∧ ∀ q a, (∀ i, i < rows → (place i).1 = q → a < start i ∨ start i + len ≤ a) →
              (t'.coreAt q).scr.at a = (s.coreAt q).scr.at a)
        ∧ ∀ r x, (s.mxRun k w c r none).flags.getLsbD x = true ↔
            ∃ i j, i < rows ∧ j < b.nb ∧ ((el i j).readOut c.fsb).2.getLsbD x = true)
    ∧ (c.op = 0xB6 → t.ok w.member nc = true → t.fits w.gang.length nc = true → c.sa.toNat < 2 ^ 32 →
        ∀ v, s.band? k c.slot = some v → v.crew = c.crew →
        MatrixDone s k c (fun m m' => same m m' ∧ m'.sel = m.sel ∧ m'.acc = m.acc) (fun t' => c.obj = BitVec.allOnes 64 →
          UnitOnly s t' ∧ ∃ v', t'.band? k c.slot = some v' ∧ v' = { v with v := v'.v } ∧ ∀ n l, l < 32 → v'.v32 l n =
            let i := c.sa.toNat % 2 ^ 16
            let j := c.sa.toNat / 2 ^ 16 + l
            let r := c.imm.toNat % 128
            if r ≤ n ∧ n < r + 4 ∧ c.run.getLsbD l = true then
              (if i < b.mb ∧ j < b.nb then ((s.coreAt k).mx.acc.get (Acc.zero 0) (t.acc + i * b.nb + j)).arch else 0).extractLsb'
                (32 * (n - r)) 32
            else v.v32 l n))

/-- What a load puts into a bank, and what is read out of the accumulators. -/
def Obligations.MatrixLoadsAndReadsOut : Prop := Claims.MatrixLoads ∧ Claims.MatrixReadsOut

/-- R269: MMAG with a valid group table, valid operands, no poison and no bad column does what its groups say in turn; a table
whose rows sum beyond M is RAGGED at the first such group. -/
def Claims.RaggedGroups : Prop :=
  ∀ s k c w, MxHead s k c w → c.op = 0xB3 →
    let t := Tile.ofWord c.sb
    let v := s.seenBy c
    let a := c.sa.toNat
    let mx := (s.coreAt k).mx
    let field : Nat → Nat → Nat := fun o n => ofBytes (v.rowAt k w (a + o) n)
    let l := LoadD.ofNat (field 0 8)
    let n := field 8 4
    let gs := (List.range n).map fun g => (⟨field (16 + 16 * g) 4, field (20 + 16 * g) 4, field (24 + 16 * g) 4,
      field (28 + 16 * g) 4⟩ : Group)
    let sum : Nat → Nat := fun g => ((gs.take g).map Group.rows).sum
    let nq := if slotScl c.fsa then t.k / slotBlk c.fsa else 0
    actKind c.fsa = true → (cellsPer c.fsb).isSome = true → c.tileOk t 0 (slotN c.fsb) = true → t.gt = false
    → 1 ≤ n → n ≤ 64 → field 12 4 = 0 → l.ok c.fsb = true → l.kb = t.kb → l.cbase = 0 → l.n = t.n
    → (∀ g ∈ gs, g.rows ≤ 96 ∧ g.aoff % 16 = 0 ∧ (slotScl c.fsb = true ∨ g.wscl = 0xFFFFFFFF))
    → a + 16 + 16 * n ≤ w.size →
    (∀ g, g < n → sum g ≤ t.m → t.m < sum (g + 1) → ∀ r gang, s.mxRun k w c r gang = ⟨s, [(0x23, g)], 0⟩)
    ∧ (sum n ≤ t.m → (mx.bank mx.sel).slot = c.fsb → (s.coreAt k).scr.poison = []
      → (∀ m, mx.bank0.bad.get 0 m = 0 ∧ mx.bank0.parity.get 0 m = 0 ∧ mx.bank1.bad.get 0 m = 0 ∧ mx.bank1.parity.get 0 m = 0)
      → (∀ (i : Nat) (g : Group), gs[i]? = some g → g.rows ≠ 0 → (g.wsrc ≠ 0xFFFFFFFF → l.inside w c.fsb g.wsrc g.wscl = true)
          ∧ ∀ r, r < g.rows → g.aoff + r * t.str + rowBytes c.fsa t.k ≤ w.size
            ∧ (nq ≠ 0 → t.ascl + (sum i + r) * nq + nq ≤ w.size)) →
      MatrixDone s k c (fun m m' => ∃ u : Matrix, GroupsRun v k w c t l 0 gs m u
        ∧ u.bank0 = m'.bank0 ∧ u.bank1 = m'.bank1 ∧ u.sel = m'.sel ∧ u.acc = m'.acc) (fun _ => True))

/-- R254, R257, R259, R260, R268: the n-th GT = 1 MMAs of a gang's members. They are accepted together, and run together when
all stand at the heads of their queues; until then MX_COMPLETE of any of them does nothing. Where their operands agree, each
member's block takes the products of its tile rows, read from the members' scratchpads at CLU addresses with the scales of
member 0's; else every one reports GANG with the lowest member that disagrees, and no accumulator changes. -/
def Claims.GangTiles : Prop :=
  ∀ (s : State) gang n cmd crew, Paired s gang n cmd crew →
    (∀ (m : Nat) e, gang[m]? = some e → (cmd m).obj = BitVec.allOnes 64) → gang ≠ [] →
    let t := Tile.ofWord (cmd 0).sb
    let c0 := cmd 0
    let blk := (blockSize c0.fsa c0.fsb t.k).getD 32
    let nq := if slotScl c0.fsa then t.k / blk else 0
    let len := rowBytes c0.fsa t.k
    let nc := slotN c0.fsb
    let all : State → Prop := fun u => ∀ (m : Nat) e, gang[m]? = some e →
      (u.coreAt e.1).mx.queue = (s.coreAt e.1).mx.queue.filter (fun x => x.id != (cmd m).id)
    (∀ (i d : Nat) e, gang[i]? = some e → d < gang.length → ¬(cmd d).agrees c0 → (∀ j, j < d → (cmd j).agrees c0) →
      ∃ u, exec (.mxComplete e.1) s = .next u ∧ all u ∧ ∀ q, (u.coreAt q).mx.acc = (s.coreAt q).mx.acc)
    ∧ (∀ (i : Nat) e, gang[i]? = some e → (∀ d, d < gang.length → (cmd d).agrees c0) →
      t.gt = true → actKind c0.fsa = true → (cellsPer c0.fsb).isSome = true → t.fits gang.length nc = true
      → (∀ (m : Nat) e, gang[m]? = some e → (cmd m).tileOk (Tile.ofWord (cmd m).sb) m nc = true
          ∧ (let x := (s.coreAt e.1).mx
             (x.bank x.sel).slot = c0.fsb ∧ ∀ j, (x.bank x.sel).bad.get 0 j = 0 ∧ (x.bank x.sel).parity.get 0 j = 0)
          ∧ (s.coreAt e.1).scr.poison = [] ∧ (cmd m).seen = [])
      → (∀ r, r < t.m → ∃ e2, gang[(c0.sa.toNat + r * t.str) / 2 ^ 19]? = some e2 ∧ c0.sa.toNat + r * t.str < 2 ^ 23
          ∧ (c0.sa.toNat + r * t.str) % 2 ^ 19 + len ≤ (crew ((c0.sa.toNat + r * t.str) / 2 ^ 19)).size
          ∧ (nq ≠ 0 → t.ascl + r * nq + nq ≤ (crew 0).size)) →
      ∃ u, exec (.mxComplete e.1) s = .next u ∧ all u ∧ ∀ (m : Nat) e2, gang[m]? = some e2 →
        let tm := Tile.ofWord (cmd m).sb
        let b := tm.block m nc
        let x := (s.coreAt e2.1).mx
        let x' := (u.coreAt e2.1).mx
        let src : Nat → Nat := fun i => c0.sa.toNat + (b.row + i) * t.str
        x'.sel = x.sel ∧ x'.bank0 = x.bank0 ∧ x'.bank1 = x.bank1
        ∧ TakesProducts (x.bank x.sel) t.k blk b.nb tm.acc b.mb
            (fun i q => codeInt c0.fsa (match gang[src i / 2 ^ 19]? with
              | some e3 => s.rowAt e3.1 (crew (src i / 2 ^ 19)) (src i % 2 ^ 19) len
              | none => []) q)
            (fun i q => if nq = 0 then 127 else match gang[0]? with
              | some e3 => ((s.rowAt e3.1 (crew 0) (t.ascl + (b.row + i) * nq) nq).getD q 0).toNat
              | none => 127)
            (fun _ => False) x.acc x'.acc)

/-- R254, R260: how paired MMAs wait for each other; a member that exited without its partner fails the others. -/
def Claims.GangPairing : Prop :=
  (∀ (s : State) k (c : MxCmd) rest w n, (s.coreAt k).mx.queue = c :: rest → c.notOwner = false → c.gt = some n
    → s.crew? k c.crew = some w →
    let here : Prop := ∀ (i : Nat) (j : Nat × Nat), w.gang[i]? = some j → ∃ v, s.crew? j.1 j.2 = some v ∧ v.gone = false
    (∀ (m : Nat) (e : Nat × Nat), w.gang[m]? = some e → s.gtOf e n = none → here →
      exec (.mxComplete k) s = .next s ∧ (c.accepted = false → exec (.mxAccept k) s = .next s))
    ∧ (∀ (m : Nat) (e : Nat × Nat) g x tail, w.gang[m]? = some e → s.gtOf e n = some g → g.notOwner = false
        → (s.coreAt e.1).mx.queue = x :: tail → (x.id ≠ g.id ∨ x.accepted = false) → g.id ∈ (x :: tail).map MxCmd.id →
        here → (∀ j ∈ w.gang, (s.gtOf j n).isSome = true) → exec (.mxComplete k) s = .next s)
    ∧ (c.accepted = true → ∀ (m : Nat) (e : Nat × Nat), w.gang[m]? = some e → s.gtOf e n = none →
        (∀ v, s.crew? e.1 e.2 = some v → v.gone = true) →
        ∃ (d : Nat) (j : Nat × Nat), w.gang[d]? = some j ∧ s.gtOf j n = none ∧ (∀ v, s.crew? j.1 j.2 = some v → v.gone = true)
          ∧ exec (.mxComplete k) s = .next (State.finished { s with fresh := s.fresh + 1 } k c w (some d))))
  ∧ ∀ (s : State) gang n (w : Crew) k (c : MxCmd), w.gang = gang → (k, c.crew) ∈ gang → s.crew? k c.crew = some w →
    c.gt = some n → c.notOwner = false → (gang.map (·.1)).Nodup →
    ∀ next : Nat × Nat → MxCmd, next (k, c.crew) = c →
    (∀ e ∈ gang, (∃ v, s.crew? e.1 e.2 = some v ∧ v.gone = false) ∧ ((s.coreAt e.1).mx.queue.find? fun x => !x.accepted) = some (next e)
      ∧ s.gtOf e n = some (next e) ∧ (next e).notOwner = false) →
    ((∀ e ∈ gang, s.bandPast e.1 (next e).slot (next e).crew (next e).id = true) →
      exec (.mxAccept k) s = .next (gang.foldl (fun s e => s.modCore e.1 fun x => { x with mx := { x.mx with
        queue := x.mx.queue.map fun y => if y.id = (next e).id then { y with accepted := true } else y } }) s))
    ∧ ((∃ e ∈ gang, s.bandPast e.1 (next e).slot (next e).crew (next e).id = false) → exec (.mxAccept k) s = .next s)

/-- MMAG, and the MMAs of a gang tile. -/
def Obligations.MatrixGroupsAndGangs : Prop := Claims.RaggedGroups ∧ Claims.GangTiles ∧ Claims.GangPairing

/-- R264, 15_traps.md R353: the scrubber marks a column whose parity does not hold, and which is not yet marked, as Bad, and
logs it as HWERR sub-cause 5 (CIMPAR) of unit 9 with the column in the owner's context (a unit without an owner belongs to no
context's log: assumption log entry 78); it finds nothing else. -/
def Claims.Scrubs : Prop :=
  ∀ (s : State) k bank mac col, col < 320 →
    let mx := (s.coreAt k).mx
    let b := mx.bank (bank == 1)
    let found := (b.parity.get 0 mac).getLsbD col = true ∧ (b.bad.get 0 mac).getLsbD col = false
    (¬found → exec (.cimScrub k bank mac col) s = .next s)
    ∧ (found → ∃ t, exec (.cimScrub k bank mac col) s = .next t ∧ t = { s with cores := t.cores, ctxs := t.ctxs, out := t.out }
        ∧ (∀ d, d ≠ k → t.coreAt d = s.coreAt d) ∧ t.coreAt k = { s.coreAt k with mx := (t.coreAt k).mx }
        ∧ (let b' := (t.coreAt k).mx.bank (bank == 1)
           b' = { b with bad := b'.bad } ∧ (t.coreAt k).mx = mx.setBank (bank == 1) b'
           ∧ ∀ m x, (b'.bad.get 0 m).getLsbD x = true ↔ (b.bad.get 0 m).getLsbD x = true ∨ (m = mac ∧ x = col))
        ∧ (mx.owner = none → t.ctxs = s.ctxs ∧ t.out = s.out)
        ∧ ∀ o w x, mx.owner = some o → s.crew? k o = some w → s.ctx? w.task.ctx = some x →
            let rec' : LogRec := ⟨11, 0, 0, k, 0, 0, BitVec.ofNat 96 (5 + 9 * 2 ^ 4 + (col + mac * 2 ^ 9) * 2 ^ 8), 0, w.task.id⟩
            t.ctxs = (s.setCtx w.task.ctx { x with log := addRec x.log rec' }).ctxs ∧ t.out = s.out ++ [.msix x.fn 1])

/-- What a matrix command is refused for, and scrubbing. -/
def Obligations.MatrixRefusalsAndScrubs : Prop := Claims.MatrixRefusals ∧ Claims.Scrubs

/-! ### The clause array (12_clause.md) -/

/-- R278, R279, R284, R285: the ten clause instructions at issue. -/
def Claims.ClauseInstructionsIssue : Prop :=
  ClauseIssue .clcfg 0xC0 ∧ ClauseIssue .clld 0xC1 ∧ ClauseIssue .clst 0xC2 ∧ ClauseIssue .clinf 0xC3
  ∧ ClauseIssue .clvote 0xC4 ∧ ClauseIssue .clfb 0xC5 ∧ ClauseIssue .cltab 0xC6 ∧ ClauseIssue .clseed 0xC7
  ∧ ClauseIssue .clfnc 0xC8 ∧ ClauseIssue .clcnt 0xC9

/-- R278, R279, R283, R287, R288, R290, R292, R294, R296: CL_ACCEPT accepts a core's oldest instruction after those accepted
before it, once its band's earlier memory operations are performed where it uses memory, and a CLFNC completes there; it turns
away one whose context does not own the array. CL_COMPLETE reports NOARRAY, BADRANGE, RANGE and BADCFG in this order, with no
other effect than the error and the completion count. -/
def Claims.ClauseAcceptanceAndErrors : Prop :=
  (∀ (s : State) q k a (c : ClCmd) b x, (s.clusterAt q).clause.queue = a ++ c :: b → c.accepted = false → c.core = k
    → (∀ d ∈ a, d.accepted = true ∨ d.core ≠ k) → (∀ d ∈ a ++ b, d.id ≠ c.id) → s.ctx? c.ctx = some x →
    let owner := (s.clusterAt q).clause.owner
    let waits := c.op ≠ 0xC5 ∧ c.op ≠ 0xC7 ∧ c.op ≠ 0xC8 ∧ s.bandPast k c.slot c.crew c.id = false
    let turned := c.noArray || decide (owner ≠ some c.ctx)
    let s1 := State.modCl (if (c.op = 0xC1 ∨ c.op = 0xC2) ∧ turned = false then s.release k c.slot 2 else s) q fun v =>
      { v with queue := ((a ++ b).filter fun d => d.accepted) ++ { c with accepted := true, noArray := turned } ::
          (a ++ b).filter fun d => !d.accepted }
    let s2 := s1.spend k c.crew 6 1
    let s3 := if turned then s2.unitError 8 k c.crew c.slot c.p c.op c.obj (0x40, 0) else s2
    (waits → exec (.clAccept q k) s = .next s)
    ∧ (¬waits → (x.arrays.find q = none ∨ owner ≠ none) → exec (.clAccept q k) s = .next (if c.op ≠ 0xC8 then s1
        else if c.obj = BitVec.allOnes 64 then s3 else s3.objEvent k c.crew c.obj.toNat (Obj.count 1 0)))
    ∧ (∀ st, ¬waits → x.arrays.find q = some st → owner = none → exec (.clAccept q k) s = exec (.clAccept q k)
        ((s.modCl q fun v => { v with owner := some c.ctx, st := st }).modCtx c.ctx fun v => { v with arrays := v.arrays.drop q })))
  ∧ (∀ (s : State) q (c : ClCmd) rest w x, (s.clusterAt q).clause.queue = c :: rest → c.accepted = true → c.sent = []
    → s.crew? c.core c.crew = some w → s.ctx? c.ctx = some x →
    let fails : Nat → Nat → Prop := fun code aux => ClauseEnds s q c [(code, aux)]
    let a := c.sa.toNat
    let count := c.sb.toNat / 2 ^ 16
    let ranged := c.op = 0xC0 ∨ c.op = 0xC1 ∨ c.op = 0xC2 ∨ c.op = 0xC9
    let bad := (ranged ∧ ¬ClauseRange c.sb) ∨ (c.op = 0xC4 ∧ ¬ClassRange c.sb) ∨ (c.op = 0xC5 ∧ 2 ^ 16 ≤ c.sb.toNat)
      ∨ ((ranged ∨ c.op = 0xC3 ∨ c.op = 0xC4 ∨ c.op = 0xC6) ∧ a % 16 ≠ 0)
    let out := ((c.op = 0xC0 ∨ c.op = 0xC9) ∧ w.size < a + 2 * count) ∨ ((c.op = 0xC3 ∨ c.op = 0xC4) ∧ w.size < a + 256)
      ∨ (c.op = 0xC6 ∧ w.size < a + 528)
    0xC0 ≤ c.op → c.op ≤ 0xC9 → c.op ≠ 0xC8 →
    (c.noArray = true → fails 0x40 0)
    ∧ (c.noArray = false → bad → fails 0x41 0)
    ∧ (c.noArray = false → ¬bad → out → fails 5 0)
    ∧ (c.noArray = false → ¬bad → ¬out → (s.coreAt c.core).scr.poison = [] →
        (c.op = 0xC0 → ∀ i, i < count → 2 ^ 10 ≤ ofBytes (s.rowAt c.core w (a + 2 * i) 2)
          → (∀ j, j < i → ofBytes (s.rowAt c.core w (a + 2 * j) 2) < 2 ^ 10) → fails 0x42 (c.sb.toNat % 2 ^ 16 + i))
        ∧ (c.op = 0xC6 → ofBytes (s.rowAt c.core w (a + 0x204) 12) ≠ 0 → fails 0x42 0)))

/-- The clause instructions at issue, at acceptance and in error. -/
def Obligations.ClauseIssueAndAcceptance : Prop := Claims.ClauseInstructionsIssue ∧ Claims.ClauseAcceptanceAndErrors

/-- R277, R283, R288, R290 to R292, R296: what CLCFG, CLTAB, CLSEED, CLFNC, CLCNT, CLLD and CLST do when they meet no
error: the tables they write, the counts; a row of CLLD is written when all of its bytes have been read, its poison mark
goes, and the command is complete after its last row. -/
def Claims.ClauseTables : Prop :=
  ∀ s q c w, ClHead s q c w →
    let a := c.sa.toNat
    let first := c.sb.toNat % 2 ^ 16
    let count := c.sb.toNat / 2 ^ 16
    let field : Nat → Nat := fun o => ofBytes (s.rowAt c.core w (a + o) 2)
    let inRange : Nat → Prop := fun r => first ≤ r ∧ r < first + count
    (c.op = 0xC0 → ClauseRange c.sb → a % 16 = 0 → a + 2 * count ≤ w.size → (∀ i, i < count → field (2 * i) < 2 ^ 10) →
      ClauseDone s q c (fun st st' => st' = { st with cfg := st'.cfg }
        ∧ (∀ i, i < count → (st'.cfg.get 0 (first + i)).toNat = field (2 * i))
        ∧ ∀ r, ¬inRange r → st'.cfg.get 0 r = st.cfg.get 0 r) (fun _ => True))
    ∧ (c.op = 0xC6 → a % 16 = 0 → a + 528 ≤ w.size → ofBytes (s.rowAt c.core w (a + 0x204) 12) = 0 →
      ClauseDone s q c (fun st st' => st' = { st with t := st'.t, pia := st'.pia, pib := st'.pib }
        ∧ (∀ k, k < 256 → (st'.t.get 0 k).toNat = field (2 * k))
        ∧ st'.pia.toNat = field 0x200 ∧ st'.pib.toNat = field 0x202) (fun _ => True))
    ∧ (c.op = 0xC7 → ClauseDone s q c (fun st st' => st' = { st with seed := c.sa.setWidth 32, step := c.sb.setWidth 32 })
        (fun _ => True))
    ∧ (c.op = 0xC8 → ClauseDone s q c (fun st st' => st' = st) (fun _ => True))
    ∧ (c.op = 0xC9 → ClauseRange c.sb → a % 16 = 0 → a + 2 * count ≤ w.size → c.obj = BitVec.allOnes 64 →
      ClauseDone s q c (fun st st' => st' = st) (fun t =>
        let st := (s.clusterAt q).clause.st
        (∀ i, i < count → ofBytes (t.rowAt c.core w (a + 2 * i) 2) =
          if first + i ∈ st.poison then 0xFFFF else ((List.range 1024).filter fun j => decide (128 ≤ st.cell (first + i) j)).length)
        ∧ ∀ x, (x < w.place + a ∨ w.place + a + 2 * count ≤ x) → (t.coreAt c.core).scr.at x = (s.coreAt c.core).scr.at x))
    ∧ (c.op = 0xC1 → ClauseRange c.sb → a % 16 = 0 →
        (count ≤ c.cursor → ClauseDone s q c (fun st st' => st' = st) (fun _ => True))
        ∧ (c.cursor < count → c.part.length = 1024 → ∃ t, exec (.clComplete q) s = .next t ∧
            let st := (s.clusterAt q).clause.st
            let st' := (t.clusterAt q).clause.st
            let r := first + c.cursor
            st' = { st with rows := st'.rows, poison := st'.poison }
            ∧ (∀ n j, j < 1024 → st'.cell n j = if n = r then (c.part.getD j 0).toNat else st.cell n j)
            ∧ (∀ n, n ∈ st'.poison ↔ n ∈ st.poison ∧ n ≠ r)
            ∧ (t.clusterAt q).clause.queue.head? = some { c with cursor := c.cursor + 1, part := [] }))
    ∧ (c.op = 0xC2 → ClauseRange c.sb → a % 16 = 0 →
        (count ≤ c.cursor → c.errs = [] → ClauseDone s q c (fun st st' => st' = st) (fun _ => True))
        ∧ (count ≤ c.cursor → ClauseEnds s q c c.errs)
        ∧ (c.cursor < count → c.part.length = 1024 →
            let r := first + c.cursor
            ClauseGoes s q c s { c with
              cursor := c.cursor + 1, part := [],
              errs := c.errs ++ if r ∈ (s.clusterAt q).clause.st.poison then [(0x0C, r)] else [] }))

/-- R283, R287, R288, R290: the bytes of a CLLD come from GLB at the virtual address S[SA] + 1,024 i + j, and those of a CLST, the
cells of its rows, go there, a poisoned row as poisoned data: each piece, up to a 64-byte boundary, is read or written through
its window, by the L2 or, for another device, by a request. A fault ends the instruction with its code: a CLLD names POISON
with its row, a CLST adds it to the poisoned rows it has met. -/
def Claims.ClauseTransfers : Prop :=
  (∀ s q c w x, ClHead s q c w → s.ctx? c.ctx = some x → (c.op = 0xC1 ∨ c.op = 0xC2) → ClauseRange c.sb →
    c.sa.toNat % 16 = 0 → c.cursor < c.sb.toNat / 2 ^ 16 → c.part.length < 1024 →
    let ld := c.op = 0xC1
    let st := (s.clusterAt q).clause.st
    let r := c.sb.toNat % 2 ^ 16 + c.cursor
    let a := (c.sa.toNat + 1024 * c.cursor + c.part.length) % 2 ^ 64
    let n := min (1024 - c.part.length) (64 - a % 64)
    let d := (List.range n).map fun j => BitVec.ofNat 8 (st.cell r (c.part.length + j))
    let before := if ld then [] else c.errs ++ if r ∈ st.poison then [(0x0C, r)] else []
    let ends : Nat → Nat → Prop := fun code aux => ClauseEnds s q c (before ++ [(code, aux)])
    let need : Need := if ld then .r else .w
    (∀ sub, x.win (BitVec.ofNat 64 a) need = .error sub → ∃ code, EngCode sub code ∧ ends code 0)
    ∧ (∀ ia v, x.win (BitVec.ofNat 64 a) need = .ok (ia, v) → s.localIa ia = true → ia % 128 + n ≤ 128 →
        let p := x.vcp v
        let get := s.iaRead (some c.core) ia n (if p = 3 then 3 else 2) 0
        let set := s.iaWrite (some c.core) none ia d p
        (ld → (∀ s1 b, get = .ok s1 (b, false) → ClauseGoes s q c s1 { c with part := c.part ++ b })
          ∧ (∀ s1 b, get = .ok s1 (b, true) → ends 0xC r) ∧ (get = .hold → exec (.clComplete q) s = .next s)
          ∧ ∀ sub code, get = .bad sub → EngCode sub code → ends code 0)
        ∧ (¬ld → (∀ s1, set = .ok s1 () → ClauseGoes s q c
              (if r ∈ st.poison then s1.poisonIa (some c.core) ia n else s1) { c with part := c.part ++ d })
          ∧ (set = .hold → exec (.clComplete q) s = .next s)
          ∧ ∀ sub code, set = .bad sub → EngCode sub code → ends code 0))
    ∧ (∀ ia v, x.win (BitVec.ofNat 64 a) need = .ok (ia, v) → s.localIa ia = false →
        (s.fab.down (deviceOf ia) = true → ∃ aux, aux % 256 = deviceOf ia ∧ ends 0xA aux)
        ∧ (s.fab.down (deviceOf ia) = false → exec (.clComplete q) s = .next s ∨ ∃ s1 b,
            ClauseGoes s q c s1 { c with sent := [(deviceOf ia, b)] })))
  ∧ ∀ (s : State) q c size (d : List Byte) ia, (s.clusterAt q).clause.queue.find? (fun e => e.id == c.id) = some c →
      s.clReply q c.id size 0 d ia = s.modCl q fun v => { v with queue := v.queue.map fun e => if e.id = c.id then { c with
        sent := [], part := c.part ++ if c.op = 0xC1 then d else List.replicate size 0 } else e }

/-- What the clause instructions that read and write tables, and rows, do. -/
def Obligations.ClauseTables : Prop := Claims.ClauseTables ∧ Claims.ClauseTransfers

/-- R276, R282, R284, R288, R293, R294: CLINF writes the bit of every clause from the row it saw, or from the row as it
stands; CLVOTE writes the clipped class sums to four registers of the lanes that were RUNNING. -/
def Claims.ClauseInferenceAndVotes : Prop :=
  ∀ s q c w, ClHead s q c w → c.obj = BitVec.allOnes 64 →
    let a := c.sa.toNat
    let st := (s.clusterAt q).clause.st
    (c.op = 0xC3 → a % 16 = 0 → a + 256 ≤ w.size →
      let cell : Nat → Nat → Nat := fun r j => ((if r ∈ c.saw then c.seen.get [] r else st.rows.get [] r).get 127 j).toNat
      (∀ e ∈ c.seen, e.2.keys.Pairwise (· < ·) ∧ ∀ k ∈ e.2.keys, k < 1024) →
      ClauseDone s q c (fun st st' => st' = st) (fun t =>
        (∀ r, r < 2048 → (((t.rowAt c.core w (a + r / 8) 1).headD 0).getLsbD (r % 8) = true ↔
          (st.cfg.get 0 r).toNat / 2 ^ 9 % 2 = 1 ∧ r ∉ st.poison ∧ c.infers (cell r)))
        ∧ ∀ x, (x < w.place + a ∨ w.place + a + 256 ≤ x) → (t.coreAt c.core).scr.at x = (s.coreAt c.core).scr.at x))
    ∧ (c.op = 0xC4 → ClassRange c.sb → a % 16 = 0 → a + 256 ≤ w.size →
      let first := c.sb.toNat % 2 ^ 8
      let count := c.sb.toNat / 2 ^ 8
      let bit : Nat → Bool := fun r => ((s.rowAt c.core w (a + r / 8) 1).headD 0).getLsbD (r % 8)
      let x : Nat → Int := fun p => if count ≤ p then 0 else
        let m : Int := (st.t.get 0 (first + p)).toNat
        min (max (st.tally (first + p) bit) (-m)) m
      let vd := c.imm.toNat % 128
      ∀ b, s.band? c.core c.slot = some b → b.crew = c.crew →
      ClauseDone s q c (fun st st' => st' = st) (fun t => ∃ b', t.band? c.core c.slot = some b' ∧ b' = { b with v := b'.v }
        ∧ ∀ n l, l < 32 →
          (vd ≤ n → n < vd + 4 → c.run.getLsbD l = true →
            let p := 8 * (if w.paired then l % 16 else l) + 2 * (n - vd)
            ((b'.v32 l n).extractLsb' 0 16).toInt = x p ∧ ((b'.v32 l n).extractLsb' 16 16).toInt = x (p + 1))
          ∧ ((n < vd ∨ vd + 4 ≤ n ∨ c.run.getLsbD l = false) → b'.v32 l n = b.v32 l n)))

/-- R282, R286, R288, R295: one CLFB step: which clauses it selects, what each cell becomes, and STEP; what a later CLINF
has already seen is a row as it stood before the step, and no CLINF behind a CLFNC or in deterministic mode sees one. -/
def Claims.ClauseFeedback : Prop :=
  (∀ s q c w, ClHead s q c w → c.op = 0xC5 → c.sb.toNat < 2 ^ 16 →
    let y := c.sb.toNat % 2 ^ 8
    let n := c.sb.toNat / 2 ^ 8
    let st := (s.clusterAt q).clause.st
    let h : Nat → Nat → Nat := draw16 st.seed st.step
    let later := (s.clusterAt q).clause.queue.filter fun e => e.id != c.id
    ∃ t, exec (.clComplete q) s = .next t ∧
      let st' := (t.clusterAt q).clause.st
      st' = { st with rows := st'.rows, step := st.step + 1 }
      ∧ (∀ k r (v : Int) (out : Bool), r < 2048 → (k = y ∨ k = n) → st.votes r k → r ∉ st.poison
          → (∃ bit : Nat → Bool, (∀ c', c' < 2048 → (bit c' = true ↔ c' ∉ st.poison ∧ c.fires (st.cell c')))
              ∧ (let m : Int := (st.t.get 0 k).toNat
                 v = min (max (st.tally k bit) (-m)) m) ∧ out = bit r) →
          let m : Int := (st.t.get 0 k).toNat
          let d : Int := if k = y then m - v else m + v
          let pos := (st.cfg.get 0 r).toNat / 2 ^ 8 % 2 = 0
          let old := st.cell r
          let new := st'.cell r
          (¬(h r 0xFFF * 2 * m < d * 65536) → ∀ j, j < 1024 → new j = old j)
          ∧ (h r 0xFFF * 2 * m < d * 65536 → ∀ j, j < 1024 →
              ((k = y ↔ pos) →
                (out = true ∧ c.lit j → new j = if h r j < st.pia.toNat then min (old j + 1) 255 else old j)
                ∧ (¬(out = true ∧ c.lit j) → new j = if h r j < st.pib.toNat then old j - 1 else old j))
              ∧ (¬(k = y ↔ pos) →
                (out = true ∧ ¬c.lit j ∧ old j < 128 → new j = old j + 1)
                ∧ (¬(out = true ∧ ¬c.lit j ∧ old j < 128) → new j = old j))))
      ∧ (∀ r, ((¬st.votes r y ∧ ¬st.votes r n) ∨ r ∈ st.poison) → ∀ j, st'.cell r j = st.cell r j)
      ∧ (∀ d, d ≠ q → (t.clusterAt d).clause = (s.clusterAt d).clause)
      ∧ (let seen := (t.clusterAt q).clause.queue
         (seen.map fun e => { e with seen := [], saw := [] }) = (later.map fun e => { e with seen := [], saw := [] })
         ∧ ∀ i (e e' : ClCmd), later[i]? = some e → seen[i]? = some e' →
            (∀ r ∈ e'.saw, r ∉ e.saw → e'.seen.get [] r = st.rows.get [] r)
            ∧ (∀ r ∈ e.saw, r ∈ e'.saw)
            ∧ (e.op ≠ 0xC3 ∨ (∃ (j : Nat) (d : ClCmd), j < i ∧ later[j]? = some d ∧ d.op = 0xC8)
                ∨ (∃ x, s.ctx? e.ctx = some x ∧ x.detm = true) → e' = e)))
  ∧ draw16 0 0 0 0 = 0 ∧ draw16 0 0 0 1 = 0x90C0 ∧ draw16 1 0 0 0 = 0x90C0
  ∧ ∀ seed step c j, draw16 seed step c j = draw16 (seed ^^^ (step * 0x9E3779B1#32) ^^^ (BitVec.ofNat 32 c <<< 11) ^^^ BitVec.ofNat 32 j) 0 0 0

/-- Inference, votes and feedback. -/
def Obligations.ClauseInferenceAndFeedback : Prop := Claims.ClauseInferenceAndVotes ∧ Claims.ClauseFeedback

/-! ### Tasks (13_tasks.md) -/

/-- R301, R305, R307, R308, R318 to R321: TQENQ, TQDEQ and the counter instructions, each after its checks; what a counter
that has come to 0 does to the records it holds. -/
def Claims.QueuesAndCounters : Prop :=
  (∀ s h f, Ready s h →
    let a := h.band.sreg f.sa.toNat
    let v := h.band.sreg f.sb.toNat
    let ok := a.toNat % 64 = 0 ∧ a.toNat + 64 ≤ h.crew.size
    let d := (s.coreAt h.core).scr.read (h.crew.place + a.toNat) 64
    (h.band.leads f.g = false → Runs (.tqenq f) s h [] [] [] (KeepsFlags h))
    ∧ (h.band.leads f.g = true →
        (a.toNat % 64 ≠ 0 → MemTraps (.tqenq f) s h 4 a)
        ∧ (a.toNat % 64 = 0 → h.crew.size < a.toNat + 64 → MemTraps (.tqenq f) s h 3 a)
        ∧ (ok → s.drained h = false → exec (.tqenq f) s = .next s)
        ∧ (ok → s.drained h = true → s.scrPoisoned h.core h.crew a.toNat 64 = false →
            ((∀ q n, ¬h.NamesQueue s v q n) → TaskFails (.tqenq f) s h f 3)
            ∧ ∀ q n, h.NamesQueue s v q n →
                (s.checkRec h.ctx h.crew.task.mod d = none → TaskFails (.tqenq f) s h f 2)
                ∧ ∀ m fs l, s.checkRec h.ctx h.crew.task.mod d = some (m, fs, l) →
                    (4096 ≤ (s.queueAt q n).tasks.length → f.rp = true → TaskFails (.tqenq f) s h f 1)
                    ∧ (4096 ≤ (s.queueAt q n).tasks.length → f.rp = false → exec (.tqenq f) s = .next s)
                    ∧ ((s.queueAt q n).tasks.length < 4096 →
                        let id := h.taskId h.band.kids
                        let field : Nat → Nat → Nat := fun o n => ofBytes ((d.drop o).take n)
                        let dep := field 0x14 4
                        let held := decide (2 ^ 31 ≤ dep)
                          && ofBytes (s.chip.read (0x3F00000 + 4 * (h.ctx.dcbase.toNat + dep % 2 ^ 18)) 4) != 0
                        let t : Task := ⟨id, h.ctxId, m, BitVec.ofNat 16 (field 2 2), field 4 1, d, fs, q, n, held,
                          field 0xB 1 % 8, [], s.cycle⟩
                        let s1 := s.release h.core h.slot 3
                        RunsThen (.tqenq f) s
                          (s1.setQueue q n { s1.queueAt q n with tasks := (s1.queueAt q n).tasks ++ [t] }) h
                          { h.reply f (id.setWidth 64) with kids := h.band.kids + 1 } fun t => t))))
  ∧ (∀ s h f, Ready s h →
    let a := h.band.sreg f.sa.toNat
    let v := h.band.sreg f.sb.toNat
    let ok := a.toNat % 64 = 0 ∧ a.toNat + 64 ≤ h.crew.size
    (h.band.leads f.g = false → Runs (.tqdeq f) s h [] [] [] (KeepsFlags h))
    ∧ (h.band.leads f.g = true →
        (a.toNat % 64 ≠ 0 → MemTraps (.tqdeq f) s h 4 a)
        ∧ (a.toNat % 64 = 0 → h.crew.size < a.toNat + 64 → MemTraps (.tqdeq f) s h 3 a)
        ∧ (ok → (63 ≤ s.ldCount h ∨ h.Waits s a.toNat 64) → exec (.tqdeq f) s = .next s)
        ∧ (ok → s.ldCount h < 63 → ¬h.Waits s a.toNat 64 →
            ((∀ q n, ¬h.NamesQueue s v q n) → TaskFails (.tqdeq f) s h f 3)
            ∧ ∀ q n, h.NamesQueue s v q n →
                ((∀ t ∈ (s.queueAt q n).tasks, t.held = true) → RunsThen (.tqdeq f) s
                  ((s.scrWrite h.core h.crew a.toNat (List.replicate 64 0)).refresh h.core) h
                  (h.acquires s f (BitVec.ofNat 64 (4 * 2 ^ 48))) id)
                ∧ ∀ x t y, (s.queueAt q n).tasks = x ++ t :: y → (∀ u ∈ x, u.held = true) → t.held = false →
                    RunsThen (.tqdeq f) s (((s.setQueue q n { s.queueAt q n with tasks := x ++ y }).scrWrite h.core h.crew
                      a.toNat t.bytes).refresh h.core) h (h.acquires s f (t.id.setWidth 64)) id)))
  ∧ CounterOp .dcinit (fun _ b => b) ∧ CounterOp .dcdec (fun x _ => x - 1) ∧ CounterOp .dcadd (fun x b => x + b)
  ∧ ∀ (s : State) (at_ q n j : Nat) (t : Task), (s.queueAt q n).tasks[j]? = some t →
      ∃ t' : Task, ((s.wakeHeld at_).queueAt q n).tasks[j]? = some t' ∧ t' = { t with held := t'.held }
        ∧ (t'.held = true ↔ t.held = true ∧ ¬∃ x, s.ctx? t.ctx = some x
            ∧ 2 ^ 31 ≤ ofBytes ((t.bytes.drop 0x14).take 4)
            ∧ 0x3F00000 + 4 * (x.dcbase.toNat + ofBytes ((t.bytes.drop 0x14).take 4) % 2 ^ 18) = at_)

/-- R301 to R303, R308, R322 to R324, 03_assembly.md R74: SPAWN reads its label's entry into the core's cache, then creates one lane task for each lane it acts on and places it in the open bin of
its key, or in the lowest free one; a bin that is full launches at once; BINFL launches the bins it names; TARG, TID and
PROG. -/
def Claims.SpawnsAndTaskValues : Prop :=
  (∀ s h f, Ready s h →
    let m := h.band.guarded f.g
    let entry := (h.module.bind fun v => v.header f.lid).bind binLaunch
    let read := s.cacheLabel h.core h.ctxId h.crew.task.mod f.lid
    (m = 0 → Runs (.spawn f) s h [] [] [] (KeepsFlags h))
    ∧ (m ≠ 0 → h.label f.lid = none →
        exec (.spawn f) s = .next (s.trap h h.band 3 (ctrlDetail 1 (lowest m) f.lid) m))
    ∧ (m ≠ 0 → h.label f.lid ≠ none → entry = none → exec (.spawn f) s = .next (read.trap h h.band 9 2 m))
    ∧ (m ≠ 0 → h.label f.lid ≠ none → entry ≠ none →
        (s.drained h = false → exec (.spawn f) s = .next s)
        ∧ (s.drained h = true →
            let ls := (List.range 32).filter fun l => m.getLsbD l
            let tasks := (List.range ls.length).map fun i => (h.band.v64 (ls.getD i 0) f.va.toNat, h.taskId (h.band.kids + i))
            let placed := (read.release h.core h.slot 3).placeAll (clusterOf h.core) h.ctxId h.crew.task.mod f.lid
              h.crew.task.prio tasks
            (placed = none → exec (.spawn f) s = .next s)
            ∧ ∀ s1, placed = some s1 → RunsThen (.spawn f) s s1 h { h.band with kids := h.band.kids + ls.length } id)))
  ∧ (∀ (s : State) q x m entry prio (a : DWord × BitVec 48),
      let bins := (s.clusterAt q).bins
      let key : Bin → Prop := fun b => b.ctx = x ∧ b.mod = m ∧ b.entry = entry
      let becomes : Nat → Bin → Prop := fun i b => ∃ t, s.place q x m entry prio a = some t
        ∧ t = { s with clusters := t.clusters } ∧ (∀ d, d ≠ q → t.clusterAt d = s.clusterAt d)
        ∧ t.clusterAt q = { s.clusterAt q with bins := (t.clusterAt q).bins, launched := (t.clusterAt q).launched }
        ∧ (∀ j, j ≠ i → (t.clusterAt q).bins.find j = bins.find j)
        ∧ (let paired := ∃ v k, ((s.ctx? x).bind fun c => c.modules.find m) = some v ∧ v.header entry = some k
              ∧ k.kflags.getLsbD 1 = true
           let full := (paired ∧ 16 ≤ b.lanes.length) ∨ 32 ≤ b.lanes.length
           (full → (t.clusterAt q).bins.find i = none
              ∧ (t.clusterAt q).launched = (s.clusterAt q).launched ++ [binTask q b s.cycle])
           ∧ (¬full → (t.clusterAt q).bins.find i = some b ∧ (t.clusterAt q).launched = (s.clusterAt q).launched))
      (∀ i b, i < 64 → bins.find i = some b → key b → (∀ j c, j < i → bins.find j = some c → ¬key c) →
          becomes i { b with lanes := b.lanes ++ [a] })
      ∧ ((∀ i b, i < 64 → bins.find i = some b → ¬key b) →
          (∀ i, i < 64 → bins.find i = none → (∀ j, j < i → bins.find j ≠ none) → becomes i ⟨x, m, entry, [a], prio, s.cycle⟩)
          ∧ ((∀ i, i < 64 → bins.find i ≠ none) → s.place q x m entry prio a = none)))
  ∧ (∀ s h f, Ready s h →
    let a := h.band.sreg f.sa.toNat
    let all := a = BitVec.allOnes 64
    let q := clusterOf h.core
    let m := if a.toNat / 2 ^ 16 = 0 then h.crew.task.mod else a.toNat / 2 ^ 16
    (h.band.leads f.g = false → Runs (.binfl f) s h [] [] [] (KeepsFlags h))
    ∧ (h.band.leads f.g = true → ¬all → 2 ^ 32 ≤ a.toNat → TaskFails (.binfl f) s h f 2)
    ∧ (h.band.leads f.g = true → all ∨ a.toNat < 2 ^ 32 → ∃ s1, RunsThen (.binfl f) s s1 h h.band id
        ∧ s1 = { s with clusters := s1.clusters } ∧ (∀ d, d ≠ q → s1.clusterAt d = s.clusterAt d)
        ∧ s1.clusterAt q = { s.clusterAt q with bins := (s1.clusterAt q).bins, launched := (s1.clusterAt q).launched }
        ∧ ∃ go : List Nat, go.Pairwise (· < ·)
          ∧ (∀ i, i ∈ go ↔ i < 64 ∧ ∃ b, (s.clusterAt q).bins.find i = some b ∧ b.ctx = h.ctxId
              ∧ (all ∨ (b.mod = m ∧ b.entry.toNat = a.toNat % 2 ^ 16)))
          ∧ (∀ i, (s1.clusterAt q).bins.find i = if i ∈ go then none else (s.clusterAt q).bins.find i)
          ∧ (s1.clusterAt q).launched = (s.clusterAt q).launched
              ++ go.filterMap fun i => ((s.clusterAt q).bins.find i).map fun b => binTask q b s.cycle))
  ∧ (∀ s h f, Ready s h →
      (h.band.leads f.g = false → Runs (.targ f) s h [] [] [] (KeepsFlags h) ∧ Runs (.tid f) s h [] [] [] (KeepsFlags h)
        ∧ Runs (.prog f) s h [] [] [] (KeepsFlags h))
      ∧ (h.band.leads f.g = true →
          Runs (.targ f) s h [] [] [f.sd.toNat] (fun b => KeepsFlags h b ∧ (b.sreg f.sd.toNat).toNat =
            if h.crew.task.kind = 0 then 0 else ofBytes ((h.crew.task.bytes.drop (0x18 + 8 * f.imm.toNat)).take 8))
          ∧ Runs (.tid f) s h [] [] [f.sd.toNat] (fun b => KeepsFlags h b ∧ (b.sreg f.sd.toNat).toNat =
              h.crew.task.id.toNat + h.band.index % 32 * 2 ^ 48 + h.crew.member % 16 * 2 ^ 56)
          ∧ RunsThen (.prog f) s s h h.band (fun t => t.modCrew h.core h.band.crew fun w =>
              { w with prog := some (max 0 (min (h.band.srcS f).toInt (2 ^ 32 - 1))).toNat })))

/-- Task queues, dependency counters, spawns and task values. -/
def Obligations.TasksQueuesAndSpawns : Prop := Claims.QueuesAndCounters ∧ Claims.SpawnsAndTaskValues

/-! ### System registers and traps (15_traps.md, 02_formats.md) -/

/-- R354 to R356, R387: SYSRD gives each register's value; SYSWR writes those that may be written, reserved bits
ignored; the refusals. -/
def Obligations.SystemRegisters : Prop :=
  ∀ s h f, Ready s h →
    let n := f.sysreg.toNat
    let v := h.band.sreg f.sd.toNat
    let illegal : Instr → Nat → Prop := fun i sub =>
      exec i s = .next (s.trap h h.band 1 (BitVec.ofNat 96 (sub + n * 2 ^ 16)) h.band.running)
    let reads : Nat → Prop := fun x =>
      Runs (.sysrd f) s h [] [] [f.sd.toNat] fun b => KeepsFlags h b ∧ (b.sreg f.sd.toNat).toNat = x
    let writes : Band → Prop := fun b => RunsThen (.syswr f) s s h b fun t => t
    let sets : (Ctx → Ctx) → Prop := fun u => RunsThen (.syswr f) s s h h.band fun t => t.modCtx h.ctxId u
    let x := h.ctx
    let pstat := s.fab.live.toNat + s.fab.dead.toNat * 2 ^ 8 + s.fab.pgen.toNat * 2 ^ 16 + (if s.fab.rhb then 2 ^ 32 else 0)
    (h.band.leads f.g = false → Runs (.sysrd f) s h [] [] [] (KeepsFlags h) ∧ Runs (.syswr f) s h [] [] [] (KeepsFlags h))
    ∧ (h.band.leads f.g = true →
      (0x100 ≤ n → x.sys = false → illegal (.sysrd f) 1 ∧ illegal (.syswr f) 1)
      ∧ (n < 0x100 → n ≠ 0x010 → n ≠ 0x011 → n ≠ 0x016 → n ≠ 0x017 → n ≠ 0x018 → illegal (.syswr f) 2)
      ∧ (n = 0x018 → h.band.tl = false → illegal (.syswr f) 5)
      ∧ (n = 0x018 → h.band.tl = true →
          let ok := 8 ≤ v.toNat ∧ v.toNat ≤ 65536 ∧ v.toNat % 8 = 0 ∧ v.toNat ≤ x.pvsize.toNat
          (¬ok → illegal (.syswr f) 4) ∧ (ok → writes { h.band with cstk := v }))
      ∧ (n = 0x011 →
          let ok := v = BitVec.allOnes 64 ∨ v.toNat % 128 = 0
          (¬ok → illegal (.syswr f) 4) ∧ (ok → writes { h.band with tfrm := v }))
      ∧ (n = 0x010 → writes { h.band with tvec := (v.setWidth 32).setWidth 64 })
      ∧ (n = 0x016 → writes { h.band with flags := v.setWidth 9 })
      ∧ (n = 0x017 → writes { h.band with fen := v.setWidth 9 })
      ∧ (n = 0x000 → reads (s.domidx.toNat + s.stepMin.toNat * 2 ^ 8 + s.stepMaj.toNat * 2 ^ 12 + 0x0940 * 2 ^ 16 + 2 ^ 40))
      ∧ (n = 0x001 → h.core < 256 → reads h.core) ∧ (n = 0x002 → h.core < 256 → reads (h.core / 16))
      ∧ (n = 0x003 → reads (h.crew.task.ctx % 64)) ∧ (n = 0x004 → reads (if x.detm then 1 else 0))
      ∧ (n = 0x005 → reads pstat) ∧ (n = 0x006 → reads x.cerr.toNat) ∧ (n = 0x010 → reads h.band.tvec.toNat)
      ∧ (n = 0x011 → reads h.band.tfrm.toNat) ∧ (n = 0x012 → reads (if h.band.tl then 1 else 0))
      ∧ (n = 0x013 → reads h.band.cause.toNat) ∧ (n = 0x014 → reads (h.band.detail.toNat % 2 ^ 64))
      ∧ (n = 0x015 → reads (h.band.detail.toNat / 2 ^ 64)) ∧ (n = 0x016 → reads h.band.flags.toNat)
      ∧ (n = 0x017 → reads h.band.fen.toNat) ∧ (n = 0x018 → reads h.band.cstk.toNat) ∧ (n = 0x019 → reads h.band.scnt.toNat)
      ∧ (n = 0x01A → reads h.band.icnt.toNat)
      ∧ (n = 0x01B → reads (if x.detm then h.band.icnt.toNat else h.band.ccnt.toNat))
      ∧ (n = 0x01C → reads (x.ecnt % 2 ^ 64))
      ∧ (n = 0x01D → ∃ e, reads e ∧ ((e : Int) - Int.fdiv x.reserve (2 ^ 32)) % 2 ^ 64 = 0)
      ∧ (∀ i, i < 8 → n = 0x030 + i → reads (h.band.fs.getD i 0).toNat)
      ∧ (x.sys = true →
        (∀ i, i < 16 → n = 0x100 + 2 * i → reads (x.vw.get 0 (2 * i)).toNat
          ∧ sets fun c => { c with vw := c.vw.put (2 * i) (v &&& 0x01FFFFFFFFFF01FF#64) })
        ∧ (∀ i, i < 16 → n = 0x101 + 2 * i → reads (x.vw.get 0 (2 * i + 1)).toNat
          ∧ sets fun c => { c with vw := c.vw.put (2 * i + 1) v })
        ∧ (n = 0x120 → reads x.pvbase.toNat ∧ sets fun c => { c with pvbase := v })
        ∧ (n = 0x121 → reads x.pvsize.toNat ∧ sets fun c => { c with pvsize := v })
        ∧ (n = 0x122 → reads x.chiplo.toNat ∧ sets fun c => { c with chiplo := v })
        ∧ (n = 0x123 → reads x.chiphi.toNat ∧ sets fun c => { c with chiphi := v })
        ∧ (n = 0x124 → reads x.ftbase.toNat ∧ sets fun c => { c with ftbase := v })
        ∧ (n = 0x125 → reads x.ftcount.toNat ∧ sets fun c => { c with ftcount := v })
        ∧ (n = 0x126 → reads x.dcbase.toNat ∧ sets fun c => { c with dcbase := v })
        ∧ (n = 0x127 → reads x.dccnt.toNat ∧ sets fun c => { c with dccnt := v })
        ∧ (n = 0x128 → reads x.btim.toNat ∧ sets fun c => { c with btim := v })
        ∧ (n = 0x129 → reads x.wdt.toNat ∧ sets fun c => { c with wdt := v })
        ∧ (n = 0x12A → reads x.chkn.toNat ∧ sets fun c => { c with chkn := v.setWidth 4 })
        ∧ (n = 0x12B → reads x.pdrain.toNat ∧ sets fun c => { c with pdrain := v })
        ∧ (n = 0x12C → reads x.pflush.toNat ∧ sets fun c => { c with pflush := v })
        ∧ (n = 0x12D → reads x.csave.toNat ∧ sets fun c => { c with csave := v })
        ∧ (n = 0x12E → reads x.csavesz.toNat ∧ sets fun c => { c with csavesz := v })))

/-- 02_formats.md R43 to R48, R382, R384, R385, R389: TRAPF and TRAP raise their trap-after events, BKILL and an illegal
encoding kill their band, a word of emulation space traps or is illegal, and the hints change no value. -/
def Obligations.TrapWordsAndHints : Prop :=
  (∀ s h f, Ready s h →
    (h.band.leads f.g = false → Runs (.trapf f) s h [] [] [] (KeepsFlags h) ∧ Runs (.trap f) s h [] [] [] (KeepsFlags h)
      ∧ Runs (.bkill f) s h [] [] [] (KeepsFlags h))
    ∧ (h.band.leads f.g = true →
      (h.band.tl = true ∨ h.band.flags &&& h.band.fen = 0 → Runs (.trapf f) s h [] [] [] (KeepsFlags h))
      ∧ (h.band.tl = false → h.band.flags &&& h.band.fen ≠ 0 →
          TrapsAfter (.trapf f) s h 5 ((h.band.flags &&& h.band.fen).setWidth 96))
      ∧ TrapsAfter (.trap f) s h 13 (f.imm.setWidth 96)
      ∧ exec (.bkill f) s = .next (s.kill h 7 0 (f.imm.setWidth 96))))
  ∧ (∀ s h w, Ready s h →
    exec (.illenc w) s = .next (s.kill h 1 0 0)
    ∧ (h.band.tl = true ∨ ¬h.hasHandler 2 →
        exec (.idot4 w) s = .next (s.kill h 1 0 0) ∧ exec (.emulateTrap w) s = .next (s.kill h 1 0 0))
    ∧ (h.band.tl = false → h.hasHandler 2 →
        let d : BitVec 96 := BitVec.ofNat 96 (w.toNat % 256)
        exec (.idot4 w) s = .next (s.trap h h.band 2 d h.band.running)
        ∧ exec (.emulateTrap w) s = .next (s.trap h h.band 2 d h.band.running))
    ∧ Runs (.hintNop w) s h [] [] [] (KeepsFlags h)
    ∧ RunsThen (.hprio w) s s h { h.band with hprio := BitVec.ofNat 2 (w.toNat / 2 ^ 40) } (fun t => t)
    ∧ ∃ s1, RunsThen (.hreuse w) s s1 h h.band (fun t => t) ∧ s1 = { s with cores := s1.cores }
        ∧ (∀ c, c ≠ h.core → s1.coreAt c = s.coreAt c)
        ∧ (∃ x, s1.coreAt h.core = x ∧ x = { s.coreAt h.core with l1 := x.l1 })
        ∧ (∀ line, (s.coreAt h.core).l1.find line = none → (s1.coreAt h.core).l1.find line = none)
        ∧ ∀ line e, (s.coreAt h.core).l1.find line = some e →
            let f := parseFM w
            let named := ∃ l, l < 32 ∧ h.band.running.getLsbD l = true ∧ h.reuseLine f l = some line
            (named → f.cp = 0 → (s1.coreAt h.core).l1.find line = some { e with keep := true, evict := false })
            ∧ (named → f.cp = 1 → (s1.coreAt h.core).l1.find line = some { e with keep := false, evict := true })
            ∧ (¬named ∨ 2 ≤ f.cp.toNat → (s1.coreAt h.core).l1.find line = some e))

/-- R357 to R363, R382, 02_formats.md R43: taking a trap: a double fault at TL = 1, UNHANDLED without a handler or a frame,
a back-off without a permit, else entry with the frame written; and what a kill leaves. -/
def Claims.TrapsAndKills : Prop :=
  (∀ (s : State) (h : Here) (b : Band) group detail lanes, s.hereAt h.core h.slot = some h → group < 2 ^ 64 →
    let t := s.trap h b group detail lanes
    (h.band.tl = true → t = s.kill { h with band := b } 3 group detail)
    ∧ (h.band.tl = false → ¬h.hasHandler group ∨ ¬h.hasFrame → t = s.kill { h with band := b } 2 group detail)
    ∧ (h.band.tl = false → h.hasHandler group → h.hasFrame → ¬s.hasPermit h →
        t = s.setBand h.core h.slot { h.band with
          waitTo := some ((if h.ctx.detm then (s.coreAt h.core).retires else s.cycle) + h.band.backoff)
          backoff := min (2 * h.band.backoff) 4096 })
    ∧ (h.band.tl = false → h.hasHandler group → h.hasFrame → s.hasPermit h → Entered s t h b group detail lanes))
  ∧ (∀ (s : State) (h : Here) status group detail, s.hereAt h.core h.slot = some h → 1 ≤ status → status ≤ 7 →
    let t := s.kill h status group detail
    (∃ b x, t.band? h.core h.slot = some b ∧ b.killed = true ∧ b.permit = false ∧ (∀ l, (b.lane l).st = .exited)
      ∧ t.ctx? h.ctxId = some x
      ∧ x = { h.ctx with cerr := h.ctx.cerr ||| (1#7 <<< (status - 1)), log := x.log }
      ∧ (h.ctx.log.length < 4096 → x.log = h.ctx.log ++
          [⟨group, 1, status, h.core, h.slot, h.band.p, detail, s.peekWord h h.band.p, h.crew.task.id⟩])
      ∧ t.out = s.out ++ [.msix h.ctx.fn 1])
    ∧ (∀ c, c ≠ h.core → t.coreAt c = s.coreAt c)
    ∧ ∀ e ∈ h.crew.objs, (∀ d ∈ h.crew.objs, d.off = e.off ∨ d.off + 16 ≤ e.off ∨ e.off + 16 ≤ d.off) →
        let o := h.object s e.off
        o.phase < 3 → o.apend ≠ 0 → e.arr.getLsbD h.band.index = false → (h.object t e.off).phase = 3)

/-- R386: RTE: ILLEGAL NOTL at TL = 0; a double fault when the frame cannot be read or fails a check; else the band is what
the frame says, FLAGS with Late, lanes whose condition is met WANTING. 08_memory.md R189, R191: what a fault held back is
issued again behind what the handler issued; a fault that came since trap entry stays pending. An operation from before the
trap that completed in the handler writes its destination over what the frame restores (log entry 9, DEDUCED). -/
def Claims.TrapReturn : Prop :=
  ∀ s h f, Ready s h →
    let fr : Nat → Nat → Nat := fun o n => h.frameAt s o n
    let st : Nat → Nat := fun l => fr 0x78 8 / 4 ^ l % 4
    let want : Nat → BitVec 16 := fun l => BitVec.ofNat 16 (fr (0x30 + 2 * l) 2)
    let depth : Nat → Nat := fun l => fr (h.frameTail + 0x80 + 2 * l) 2
    let cond : Nat → Nat := fun l => fr (h.frameTail + 4 * l) 4
    let obj : Nat → Nat := fun l => cond l % 2 ^ 20
    let pd : Nat → Nat := fun l => cond l / 2 ^ 24 % 2 ^ 7
    let met : Nat → Prop := fun l => st l = 2 ∧
      ((h.object s (obj l)).gen ≠ cond l / 2 ^ 20 % 2 ^ 4 ∨ (h.object s (obj l)).phase = 3)
    let good := fr 0 8 % 8 = 0 ∧ fr 0 8 ≤ h.codeSize ∧ ∀ l, l < 32 → depth l ≤ h.band.cstk.toNat / 2
      ∧ (st l = 1 ∨ st l = 2 → h.Target (want l)) ∧ (st l = 2 → obj l % 16 = 0 ∧ obj l + 16 ≤ h.crew.size)
    let busy := h.Waits s h.band.tfrm.toNat (0x680 + 128 * h.crew.regs)
    let held : MemOp → Elem → Prop := fun o e => ∃ p d, Here.Held s h p d ∧ p.id = o.id ∧ d.lane = e.lane
    let scalar : MemOp → Prop := fun o => o.kind = .loadS ∨ o.kind = .atomS
    let vector : MemOp → Nat → Nat → Prop := fun o n l =>
      (o.kind = .load ∨ o.kind = .loadT ∨ o.kind = .atom ∨ o.kind = .cas)
      ∧ o.dst ≤ n ∧ n < o.dst + (if o.size ≤ 4 then 1 else o.size / 4)
      ∧ ∃ e ∈ o.elems, e.lane = if h.crew.paired = true ∧ (o.kind = .atom ∨ o.kind = .cas) then l % 16 else l
    let double := exec (.rte f) s = .next (s.kill h 3 h.band.cause.toNat h.band.detail)
    (h.band.leads f.g = false → Runs (.rte f) s h [] [] [] (KeepsFlags h))
    ∧ (h.band.leads f.g = true → h.band.tl = false →
        exec (.rte f) s = .next (s.trap h h.band 1 3 h.band.running))
    ∧ (h.band.leads f.g = true → h.band.tl = true →
        (¬h.hasFrame → double)
        ∧ (h.hasFrame → busy → exec (.rte f) s = .next s)
        ∧ (h.hasFrame → ¬busy → ¬good → double)
        ∧ (h.hasFrame → ¬busy → good →
          ∃ t b, exec (.rte f) s = .next t ∧ t.band? h.core h.slot = some b
            ∧ Beside h { s with nextId := s.nextId + 1, served := s.served.filter (·.2) } t
            ∧ b = { h.band with
                p := BitVec.ofNat 64 (fr 0 8), scnt := BitVec.ofNat 32 (fr 0x24 4), yld := b.yld,
                flags := BitVec.ofNat 9 (fr 0x70 8) ||| h.band.late, s := b.s, pr := b.pr, v := b.v, lanes := b.lanes,
                tl := false, handler := 0, late := 0, permit := false, log := b.log, icnt := h.band.icnt + 1 }
            ∧ (b.yld = true ↔ fr (h.frameTail + 0x1C0) 8 % 2 = 1)
            ∧ (∀ n, n < 64 → (∀ o ∈ h.band.log, o.kept = true → scalar o → o.dst ≠ n) →
                (b.sreg n).toNat = fr (0x80 + 8 * n) 8)
            ∧ (∀ l n, l < 32 → n < h.crew.regs → (∀ o ∈ h.band.log, o.kept = true → ¬vector o n l) →
                (b.v32 l n).toNat = fr (0x480 + 128 * n + 4 * l) 4)
            ∧ (∀ o, h.band.log.filter (·.kept) = [o] →
                (scalar o → ∀ e d, o.elems = [e] → e.st = .done d → b.sreg o.dst = BitVec.ofNat 64 (ofBytes d))
                ∧ ∀ l n e d, l < 32 → vector o n l → h.crew.paired = false → o.elems.find? (fun x => x.lane == l) = some e →
                    e.st = .done d → b.v32 l n = BitVec.ofNat 32
                      (if o.size ≤ 4 then ofBytes d else ofBytes ((d.drop (4 * (n - o.dst))).take 4)))
            ∧ (∀ l n, l < 32 → 1 ≤ n → n < 128 → ((b.pred n).getLsbD l = true ↔
                if met l ∧ pd l = n then 2 ≤ (h.object s (obj l)).phase else fr (0x280 + 16 * l) 16 / 2 ^ n % 2 = 1))
            ∧ (∀ l, l < 32 →
                ((b.lane l).st = .running ↔ st l = 0) ∧ ((b.lane l).st = .wanting ↔ st l = 1 ∨ met l)
                ∧ ((b.lane l).st = .blocked ↔ st l = 2 ∧ ¬met l) ∧ ((b.lane l).st = .exited ↔ st l = 3)
                ∧ (b.lane l).want = want l ∧ (b.lane l).depth.toNat = depth l
                ∧ (b.lane l).obj.toNat = obj l ∧ (b.lane l).gen.toNat = cond l / 2 ^ 20 % 2 ^ 4 ∧ (b.lane l).pd.toNat = pd l
                ∧ ∀ k, k < 4 → k < depth l → ((b.lane l).top.getD k 0).toNat =
                    fr (h.frameTail + 0xC0 + 8 * l) 8 / 2 ^ (16 * (3 - k)) % 2 ^ 16)
            ∧ (let keep := h.band.log.filter fun o => !o.kept
               b.log.length = keep.length
               ∧ ∀ (i : Nat) (o o' : MemOp), keep[i]? = some o → b.log[i]? = some o' → o' = { o with elems := o'.elems }
                ∧ o'.elems.length = o.elems.length ∧ ∀ (j : Nat) (e e' : Elem), o.elems[j]? = some e → o'.elems[j]? = some e' →
                    (held o e → e' = { e with seq := s.nextId, st := if e.st = .taken then .pending else e.st })
                    ∧ (¬held o e → e' = e))))

/-- Taking a trap, a kill, and the return. -/
def Obligations.TrapsKillsAndReturns : Prop := Claims.TrapsAndKills ∧ Claims.TrapReturn

/-! ### The scheduler (13_tasks.md, 15_traps.md, 04_sweep.md) -/

/-- R309, R310, R312, R313, R315, 20_host.md R410, R415, 03_assembly.md R75: what a core looks at, in order; what it can admit;
the room it has for a crew, and the lowest place in it. -/
def Claims.AdmissionChoice : Prop :=
  (∀ (s : State) k, k < 256 → (∀ q, (s.clusterAt q).queues.keys.Pairwise (· < ·) ∧ ∀ n ∈ (s.clusterAt q).queues.keys, n < 16) →
    let q := clusterOf k
    ∃ (run own free : List Task) (steal : List (List Task)), s.look k = run ++ own ++ free ++ steal.flatten
      ∧ run.Sublist (s.clusterAt q).launched
      ∧ (∀ t, t ∈ run ↔ t ∈ (s.clusterAt q).launched ∧ t.kind = 0 ∧ t.queue = k + 1)
      ∧ s.Ranked q (s.boundTo k) own ∧ s.Ranked q s.roams free
      ∧ steal.length = 15 ∧ ∀ i l, steal[i]? = some l → s.Ranked ((q + 1 + i) % 16) s.roams l)
  ∧ (∀ (s : State) k t,
      let detm := ∃ x, s.ctx? t.ctx = some x ∧ x.detm = true
      (s.roams t = true ↔ ¬detm ∧ ¬(t.kind = 0 ∧ t.queue ≠ 0))
      ∧ (s.boundTo k t = true ↔ detm ∧ if t.kind = 2 then k / 16 = t.cluster else k = 16 * t.cluster + t.id.toNat % 16))
  ∧ (∀ (s : State) k t,
      let debit : Launch → Int := fun l => (l.gang * (if l.energy = 0 then 0 else 2 ^ (l.energy - 1)) : Nat) * 2 ^ 32
      s.canAdmit k t = true ↔ ∃ x, s.ctx? t.ctx = some x ∧ ∀ l, t.launch x = some l →
        x.closing = false ∧ x.held = false ∧ (∀ m, x.modules.find t.mod = some m → m.old = false)
        ∧ debit l ≤ x.reserve
        ∧ (∀ e ∈ s.clusters, ∀ u ∈ s.heads e.1, u.ctx = t.ctx → t.prio < u.prio → ∀ y z, s.ctx? u.ctx = some y →
            u.launch y = some z → debit z ≤ y.reserve)
        ∧ if t.kind = 2 then ∃ r, s.gangCores (clusterOf k) t x l = some r else s.fitsOn k x l = true)
  ∧ (∀ (s : State) k x (l : Launch), 1 ≤ l.units →
      (s.fitsOn k x l = true ↔ s.MayShare k x ∧ ∃ c p, s.RoomAt k l.crew l.regs l.carve l.units c p)
      ∧ ∀ c p, (s.coreAt k).room l.crew l.regs l.carve l.units = some (c, p) ↔
          s.RoomAt k l.crew l.regs l.carve l.units c p ∧ ∀ o, o < p → ¬s.RoomAt k l.crew l.regs l.carve l.units c o)
  ∧ (∀ (s : State) q t (x : Ctx) l,
      let free : Nat → Prop := fun c => clusterOf c = q ∧ s.fitsOn c x l = true
      (x.detm = true → (∀ i, i < l.gang → free (16 * t.cluster + (t.id.toNat + i) % 16)) → s.gangCores q t x l =
          some (s, (List.range l.gang).map fun i => 16 * t.cluster + (t.id.toNat + i) % 16))
      ∧ (x.detm = true → (∃ i, i < l.gang ∧ ¬free (16 * t.cluster + (t.id.toNat + i) % 16)) → s.gangCores q t x l = none)
      ∧ (x.detm = false → ((∃ r, s.gangCores q t x l = some r) ↔ ∃ cs : List Nat, cs.Nodup ∧ cs.length = l.gang ∧ ∀ c ∈ cs, free c)))
  ∧ ∀ (s : State) k i x v, s.ctx? i = some x → x.held = false → v ∈ x.saved → v.crew.gang.length = 1 →
      clusterOf v.core = clusterOf k → s.canRestore k x v = true →
      (∀ t y, (s.look k).find? (s.canAdmit k) = some t → s.ctx? t.ctx = some y → t.launch y ≠ none) →
      Idles (.admitCrew k) s ∧ Idles (.gangAdmit k) s

/-- 13_tasks.md R314, R316, R317, 04_sweep.md R108, 15_traps.md R357: in normal mode a pipe selects, of the bands whose word is
ready for it, the one of highest HPRIO, then of the oldest crew, then of the lowest slot; YLD lets the others go first, each
once and for at most 32 cycles. In deterministic mode the turn goes to the first band from the pointer on that no rule passes
over; log entry 46 (DEDUCED) says which wait for a back-off counts as one, and what happens when all are passed over. -/
def Claims.BandChoice : Prop :=
  (∀ (s : State) h p, s.wordPipe h = some p →
    let bands := (s.coreAt h.core).bands
    let ready : Nat → Prop := fun j => s.readyWord h.core j ≠ none
    let first : Nat × Band → Prop := fun e => h.band.hprio.toNat < e.2.hprio.toNat
      ∨ (e.2.hprio = h.band.hprio ∧ (e.2.crew < h.band.crew ∨ (e.2.crew = h.band.crew ∧ e.1 < h.slot)))
    let young : Band → Prop := fun b => b.yld = true ∧ s.cycle < b.yldCycle + 32
    let waits : Nat × Band → Prop := fun e => young e.2 ∧ (h.band.picked ≤ e.2.yldMark
      ∨ ∃ d ∈ bands, d.1 ≠ h.slot ∧ d.1 ≠ e.1 ∧ ready d.1 ∧ d.2.picked ≤ e.2.yldMark)
    s.selects h = true ↔ h.band.stall ≤ s.cycle
      ∧ ¬(young h.band ∧ ∃ e ∈ bands, e.1 ≠ h.slot ∧ ready e.1 ∧ e.2.picked ≤ h.band.yldMark)
      ∧ ∀ e ∈ bands, e.1 ≠ h.slot → s.readyWord h.core e.1 = some p → first e → waits e)
  ∧ (∀ (s : State) h, s.wordPipe h = none → s.selects h = true)
  ∧ (∀ (s : State) k w j,
      (s.passes k w j = true ↔ ∀ b, s.band? k j = some b → b.allExited = true
        ∨ (∃ t, b.waitTo = some t ∧ (s.coreAt k).retires < t)
        ∨ (b.running = 0 ∧ b.wanting = 0 ∧ ∀ l, l < 32 → b.blocked.getLsbD l = true →
            (s.objRead k w (b.lane l).obj.toNat).inb = 0 ∧ (s.objRead k w (b.lane l).obj.toNat).outb = 0))
      ∧ (w.rot < 32 → j ∈ w.slots → j < 32 → s.passes k w j = false →
          (∀ i ∈ w.slots, i < 32 → (i + 32 - w.rot) % 32 < (j + 32 - w.rot) % 32 → s.passes k w i = true) → s.turn k w = some j)
      ∧ ((∀ i ∈ w.slots, i < 32 → s.passes k w i = true) → 4 ≤ ((s.coreAt k).bands.filter fun e => e.2.permit).length →
          s.turn k w = none))
  ∧ ∀ (s : State),
      ((∀ e ∈ s.ctxs, e.2.detm = false) → s.turns = s)
      ∧ s.turns = { s with cores := s.turns.cores } ∧ (∀ k j, s.turns.band? k j = s.band? k j)
      ∧ ∀ k n w x, s.crew? k n = some w → s.ctx? w.task.ctx = some x →
          s.turns.crew? k n = some (if x.detm then { w with rot := (s.turn k w).getD w.rot } else w)

/-- What a core admits, and which of its bands issues. -/
def Obligations.AdmissionAndBandChoice : Prop := Claims.AdmissionChoice ∧ Claims.BandChoice

/-- R302, R304, R309 to R313, 04_sweep.md R79, R96, 03_assembly.md R74: a bin's timer; what a core admits and how it starts; a
gang on its cores; a band that has retired, and its crew's exit. -/
def Obligations.AdmissionAndRetirement : Prop :=
  (∀ (s : State) q i b x, (s.clusterAt q).bins.find i = some b → s.ctx? b.ctx = some x →
    let due := x.detm = false ∧ x.btim ≠ 0 ∧ b.since + x.btim.toNat ≤ s.cycle
    (¬due → Idles (.binTimer q i) s)
    ∧ (due → ∃ t, exec (.binTimer q i) s = .next t ∧ t = { s with clusters := t.clusters }
        ∧ (∀ d, d ≠ q → t.clusterAt d = s.clusterAt d)
        ∧ t.clusterAt q = { s.clusterAt q with bins := (t.clusterAt q).bins,
                                               launched := (s.clusterAt q).launched ++ [binTask q b s.cycle] }
        ∧ ∀ j, (t.clusterAt q).bins.find j = if j = i then none else (s.clusterAt q).bins.find j))
  ∧ (∀ crew index (t : Task) (l : Launch) fs,
      let b := newBand crew index t l fs
      let lanes : Nat → Prop := fun i => t.kind ≠ 0 ∨ (if l.paired then i % 16 else i) < t.lanes.length
      b.crew = crew ∧ b.index = index ∧ b.p = -8 ∧ b.scnt = 0 ∧ b.flags = 0 ∧ b.tl = false ∧ b.icnt = 0 ∧ b.ccnt = 0
      ∧ b.tvec = 0xFFFFFFFF ∧ b.tfrm = BitVec.allOnes 64 ∧ b.fen = 0 ∧ b.cstk.toNat = l.stack % 2 ^ 64 ∧ b.fs = fs
      ∧ b.hprio = 0 ∧ b.log = [] ∧ b.kids = 0
      ∧ (∀ n, b.sreg n = 0) ∧ (∀ n, 1 ≤ n → b.pred n = 0)
      ∧ (∀ i, i < 32 → ((lanes i → b.lane i = ⟨.wanting, t.entry, 0, 0, 0, 0, []⟩) ∧ (¬lanes i → (b.lane i).st = .exited)))
      ∧ ∀ n i, i < 32 → ((b.v32 i n).toNat =
          if t.kind = 0 ∧ n < 2 ∧ (if l.paired then i % 16 else i) < t.lanes.length then
            (t.lanes.getD (if l.paired then i % 16 else i) (0, 0)).1.toNat / 2 ^ (32 * n) % 2 ^ 32 else 0))
  ∧ (∀ (s : State) k, (256 ≤ k ∨ (s.look k).find? (s.canAdmit k) = none) →
      Idles (.admitCrew k) s ∧ Idles (.gangAdmit k) s)
  ∧ (∀ (s : State) k t x, k < 256 → (s.look k).find? (s.canAdmit k) = some t → s.ctx? t.ctx = some x → t.launch x = none →
      exec (.admitCrew k) s = .next ((s.dropTask t).logRec t.ctx ⟨9, 0, 0, k, 0, 0, 2, 0, t.id⟩))
  ∧ (∀ (s : State) k t x l kib place, k < 256 → (s.look k).find? (s.canAdmit k) = some t → s.ctx? t.ctx = some x
    → t.launch x = some l → t.kind ≠ 2 → s.crewReturns k = false
    → (s.coreAt k).room l.crew l.regs l.carve l.units = some (kib, place) →
    let n := s.nextId
    let slots := (s.coreAt k).freeSlots.take l.crew
    Idles (.gangAdmit k) s
    ∧ ∃ u w x', exec (.admitCrew k) s = .next u ∧ u.crew? k n = some w
      ∧ w.task = t ∧ w.member = 0 ∧ w.gang = [(k, n)] ∧ w.slots = slots ∧ slots.length = l.crew ∧ w.place = place
      ∧ w.size = l.units * 4096 ∧ w.regs = l.regs ∧ w.idem = l.idem ∧ w.paired = l.paired ∧ w.checked = l.checked
      ∧ w.objs = [] ∧ w.since = s.cycle ∧ w.gone = false
      ∧ (∀ i j, slots[i]? = some j → u.band? k j = some (newBand n i t l (t.slotsOf x)))
      ∧ (∀ j, j ∉ slots → u.band? k j = s.band? k j)
      ∧ (u.coreAt k).carve = kib ∧ u.nextId = n + 1 ∧ w.count = s.cycle ∧ (∀ j, slots.head? = some j → w.rot = j)
      ∧ (let read := (t.ctx, t.mod, t.entry.toNat)
         (u.coreAt k).labels = (read :: (s.coreAt k).labels.filter fun e => e != read).take 1024)
      ∧ u.ctx? t.ctx = some x' ∧ x'.reserve = x.after (-((if l.energy = 0 then 0 else 2 ^ (l.energy - 1) : Nat) : Int)))
  ∧ (∀ (s : State) k t x l s1 cs, k < 256 → (s.look k).find? (s.canAdmit k) = some t → s.ctx? t.ctx = some x
    → t.launch x = some l → t.kind = 2 → s.crewReturns k = false → s.gangCores (clusterOf k) t x l = some (s1, cs) →
    Idles (.admitCrew k) s ∧ cs.length = l.gang ∧ cs.Nodup ∧ (∀ c ∈ cs, clusterOf c = clusterOf k ∧ s.fitsOn c x l = true)
    ∧ ∃ u, exec (.gangAdmit k) s = .next u ∧ ∀ m c, cs[m]? = some c → ∃ w, u.crew? c (s.nextId + m) = some w
        ∧ w.member = m ∧ w.task = t ∧ w.gang.length = l.gang ∧ w.gone = false
        ∧ (∀ i d, cs[i]? = some d → w.gang[i]? = some (d, s.nextId + i))
        ∧ ∀ i j, w.slots[i]? = some j → u.band? c j = some (newBand (s.nextId + m) i t l (t.slotsOf x)))
  ∧ (∀ (s : State) k j h, s.hereAt k j = some h →
    let done := (∀ l, l < 32 → (h.band.lane l).st = .exited) ∧ s.bandIdle h = true
    let more := ∃ e ∈ (s.coreAt k).bands, e.1 ≠ j ∧ e.2.crew = h.band.crew
    (¬done → Idles (.bandRetire k j) s)
    ∧ (done → more → ∃ t, exec (.bandRetire k j) s = .next t ∧ t = s.modCore k (fun x => { x with
        bands := x.bands.drop j, samples := x.samples.filter fun e => e.1 != j }) ∧ t.band? k j = none)
    ∧ (done → ¬more → ∀ w x, Lone s k h.band.crew w x → ∃ t x', exec (.bandRetire k j) s = .next t ∧ t.band? k j = none
        ∧ t.crew? k h.band.crew = none ∧ (t.coreAt k).mx.owner ≠ some h.band.crew ∧ t.ctx? w.task.ctx = some x'
        ∧ x'.reserve = x.after ((w.debit : Int) - ((w.used + 999) / 1000 : Nat))))

/-- R348, R357, R364 to R366, R369, R372, R380, 01_machine.md R14: the end of a back-off, a watchdog, what a pending HWERR and
WATCHDOG do at a boundary, a sample, a fetch that faults,
a page that has been serviced, the patrol scrubber and the request collector. -/
def Obligations.BandEvents : Prop :=
  (∀ (s : State) k j h t, s.hereAt k j = some h → h.band.waitTo = some t →
    let isDue := (h.ctx.detm = false ∧ t ≤ s.cycle) ∨ (h.ctx.detm = true ∧ s.turn k h.crew = some j)
    (isDue → exec (.trapBackoff k j) s = .next (s.setBand k j { h.band with waitTo := none }))
    ∧ (¬isDue → Idles (.trapBackoff k j) s))
  ∧ (∀ (s : State) k n w x, s.crew? k n = some w → s.ctx? w.task.ctx = some x →
    let saving := ∃ t, w.pre = some (.save t)
    let due := x.wdt ≠ 0 ∧ w.count + x.wdt.toNat ≤ s.cycle ∧ ¬saving
    let lowest : Nat → Band → Prop := fun j b => ∃ i, w.slots[i]? = some j ∧ s.band? k j = some b ∧ b.crew = n
      ∧ b.allExited = false ∧ ∀ (m d : Nat), m < i → w.slots[m]? = some d → ∀ e, s.band? k d = some e → e.crew = n → e.allExited = true
    let detail : BitVec 96 := BitVec.ofNat 96 (min (s.cycle - w.since) (2 ^ 32 - 1))
    (¬due → Idles (.watchdog k n) s)
    ∧ (due → ∀ j b, lowest j b →
        (b.tl = true → exec (.watchdog k n) s = .next (s.killCrew k n 5 12 detail false))
        ∧ (b.tl = false → exec (.watchdog k n) s = .next (s.setBand k j { b with wdog := true }))))
  ∧ (∀ (s : State) k j h, s.hereAt k j = some h → h.band.tl = false →
    let detail : BitVec 96 := BitVec.ofNat 96 (min (s.cycle - h.crew.since) (2 ^ 32 - 1))
    let left : LaneMask → Prop := fun m => ∀ l, l < 32 → (m.getLsbD l = true ↔ (h.band.lane l).st ≠ .exited)
    let watch := ∀ m, left m →
      let t := s.trap h { h.band with wdog := false } 12 detail m
      ∃ u, s.asyncTrap h = some u ∧ ((∀ b, t.band? k j = some b → b.waitTo ≠ none) → u = t)
        ∧ (∀ b, t.band? k j = some b → b.waitTo = none → u = t.modCrew k h.band.crew fun w => { w with count := s.cycle })
    (∀ d r, h.band.hwerr = d :: r → h.band.running ≠ 0 →
        s.asyncTrap h = some (s.trap h { h.band with hwerr := r } 11 d h.band.running))
    ∧ ((h.band.hwerr = [] ∨ h.band.running = 0) → h.band.wdog = true → watch)
    ∧ ((h.band.hwerr = [] ∨ h.band.running = 0) → h.band.wdog = false → s.asyncTrap h = none))
  ∧ (∀ (s : State) k j a (e : Nat × Sample) b, (s.coreAt k).samples = a ++ e :: b → e.1 = j → (∀ d ∈ a, d.1 ≠ j) →
    let s1 := s.modCore k fun x => { x with samples := a ++ b }
    exec (.sampleCheck k j none) s = .next s1
    ∧ ∀ l v, l < 32 → s.band? k j = some v → v.killed = false → exec (.sampleCheck k j (some l)) s = .next
        (s1.setBand k j { v with hwerr := v.hwerr ++ [BitVec.ofNat 96 (2 + l * 2 ^ 8 + e.2.off.toNat * 2 ^ 32)] }))
  ∧ (∀ (s : State) k j h, s.hereAt k j = some h →
    let p := h.band.p.toNat
    let traps : Nat → Prop := fun sub => exec (.fetchFault k j) s = .next (s.trap h { h.band with park := none } 4
      (memDetail sub h.band.leader false true p) h.band.running)
    (∀ t w, s.fetchWord h p = .ok t w → Idles (.fetchFault k j) s)
    ∧ (∀ e, s.fetchWord h p = .bad e → traps e)
    ∧ (s.fetchWord h p = .hold → ∀ ia, h.codeIa p = some ia →
        let page := ia % 2 ^ 48 / 2 ^ 16
        let granted := ∃ l, s.walk (ia % 2 ^ 48) = .leaf l ∧ l.mt = 1 ∧ l.x = true ∧ s.l2.find (ia / 128) = none
          ∧ (page, true) ∉ s.served
        let waits := (s.walk (ia % 2 ^ 48) = .bad 5 true ∨ granted) ∧ (page, false) ∉ s.served
        (¬waits → Idles (.fetchFault k j) s)
        ∧ (waits → h.band.tl = true → traps 5)
        ∧ (waits → h.band.tl = false →
            let t := s.setBand k j { h.band with park := some page }
            (granted → exec (.fetchFault k j) s = .next (t.send (.pageRequest h.ctx.fn ia)))
            ∧ (¬granted → exec (.fetchFault k j) s = .next t))))
  ∧ (∀ (s : State) ia,
    let page := ia % 2 ^ 48 / 2 ^ 16
    let wakes : State → Prop := fun t => t = { s with cores := t.cores, ptes := t.ptes, served := t.served }
      ∧ (∀ k j b, s.band? k j = some b → t.band? k j = some (if b.park = some page then { b with park := none } else b))
      ∧ ∀ v, v.1 ≠ page → (v ∈ t.served ↔ v ∈ s.served)
    (∃ t, exec (.pageServiced ia none) s = .next t ∧ wakes t ∧ t.ptes = s.ptes ∧ (page, false) ∈ t.served
        ∧ (page, true) ∉ t.served)
    ∧ ∀ leaf, ∃ t, exec (.pageServiced ia (some leaf)) s = .next t ∧ wakes t ∧ (page, false) ∉ t.served
        ∧ ((page, true) ∈ t.served ↔ leaf.toNat / 2 ^ 7 % 4 = 1)
        ∧ ∃ lv, (lv = 3 ∨ lv = 4) ∧ ∀ key, t.ptes.get 0 key = if key = pteKey lv (ia % 2 ^ 48) then leaf else s.ptes.get 0 key)
  ∧ (∀ s n, exec (.patrolScrub n) s = .next s)
  ∧ ∀ (s : State) k,
      ((s.coreAt k).window = none → exec (.collectorWindow k) s = .next (s.modCore k fun x => { x with window := some s.cycle }))
      ∧ ∀ t, (s.coreAt k).window = some t →
          (t + 32 ≤ s.cycle → exec (.collectorWindow k) s = .next (s.modCore k fun x => { x with window := none }))
          ∧ (s.cycle < t + 32 → Idles (.collectorWindow k) s)

/-- R364, R374 to R381, 11_matrix.md R254: pre-emption of a crew that is alone in its gang: when a request comes, what R375 chooses, a held
request, a drain that has gone on too long, a flush, a save and its return, a save that finds no room, and one that takes
too long. -/
def Obligations.Preemption : Prop :=
  (∀ (s : State) k,
    let waits : Task → Prop := fun t => t.since + 100000 ≤ s.cycle
      ∧ ∀ c, c < 256 → t ∈ s.look c → s.canAdmit c t = false
    ((∀ t ∈ s.look k, waits t → ∀ c n w, ¬s.Holder t c n w) → Idles (.preemptWait k) s)
    ∧ ∀ a t b, s.look k = a ++ t :: b → waits t → (∀ u ∈ a, waits u → ∀ c n w, ¬s.Holder u c n w) →
        ∀ c n w x, Lone s c n w x → s.Holder t c n w →
        (∀ d m u, s.Holder t d m u → (d, m, u) ≠ (c, n, w) → w.task.prio < u.task.prio
          ∨ (w.task.prio = u.task.prio ∧ u.serial < w.serial)) →
        (w.pre = none → s.calm c n → Decides (.preemptWait k) s c n (s.choice c n w x true))
        ∧ (w.pre = none → ¬s.calm c n → Decides (.preemptWait k) s c n (.hold s.cycle true))
        ∧ (w.pre ≠ none → Idles (.preemptWait k) s))
  ∧ (∀ (s : State) k n w x t, Lone s k n w x →
      (s.wouldAdmit w t = true ↔ ∃ d, d < 256 ∧ t ∈ (s.vacated k n w x).look d ∧ (s.vacated k n w x).canAdmit d t = true))
  ∧ (∀ (s : State) k n w x, Lone s k n w x →
    let window := if x.wdt = 0 then 2 ^ 30 else x.wdt.toNat
    (∀ v i, w.pre = some (.drain v i) →
      (s.maxIcnt k n < i + 2 * 2 ^ v → Idles (.drainRechoice k n) s)
      ∧ (i + 2 * 2 ^ v ≤ s.maxIcnt k n → s.calm k n → Decides (.drainRechoice k n) s k n (s.choice k n w x false))
      ∧ (i + 2 * 2 ^ v ≤ s.maxIcnt k n → ¬s.calm k n → Decides (.drainRechoice k n) s k n (.hold s.cycle false)))
    ∧ (∀ t drain, w.pre = some (.hold t drain) →
      (s.calm k n → Decides (.preemptHoldExpiry k n) s k n (s.choice k n w x drain))
      ∧ (¬s.calm k n → t + window ≤ s.cycle → Decides (.preemptHoldExpiry k n) s k n (.save s.cycle))
      ∧ (¬s.calm k n → s.cycle < t + window → Idles (.preemptHoldExpiry k n) s))
    ∧ (∀ t, w.pre = some (.retry t) →
      (s.cycle < t → Idles (.saveRetry k n) s)
      ∧ (t ≤ s.cycle → s.calm k n → Decides (.saveRetry k n) s k n (s.choice k n w x true))
      ∧ (t ≤ s.cycle → ¬s.calm k n → Decides (.saveRetry k n) s k n (.hold s.cycle true)))
    ∧ (∀ t, w.pre = some (.save t) →
      (¬(x.wdt ≠ 0 ∧ t + 2 * x.wdt.toNat < s.cycle) → Idles (.saveAborted k n) s)
      ∧ (x.wdt ≠ 0 → t + 2 * x.wdt.toNat < s.cycle → exec (.saveAborted k n) s = .next
          ((s.killCrew k n 6 0 0 false).modCrew k n fun u => { u with pre := none })))
    ∧ (w.pre = some .flush → (∀ e ∈ (s.coreAt k).bands, e.2.crew = n → ∀ o ∈ e.2.log, ∀ d ∈ o.elems, d.st.isHurt = false)
      → (∀ e ∈ (s.coreAt k).bands, e.2.crew = n → ∀ o ∈ e.2.log, ∃ d ∈ o.elems, d.st.isDone = false) →
      (s.crewIdle k n = false → ∃ t, exec (.flushRestart k n) s = .next t ∧ t.crew? k n = some w)
      ∧ (s.crewIdle k n = true → ∃ t x', exec (.flushRestart k n) s = .next t ∧ Left s t k n
          ∧ (let again := { w.task with since := s.cycle }
             if w.task.kind = 0 then (t.clusterAt (clusterOf k)).launched =
               (if x.detm then again else { again with queue := k + 1 }) :: (s.clusterAt (clusterOf k)).launched
             else (t.queueAt w.task.cluster w.task.queue).tasks = again :: (s.queueAt w.task.cluster w.task.queue).tasks)
          ∧ t.ctx? w.task.ctx = some x' ∧ x'.reserve = x.after ((w.debit : Int) - ((w.used + 999) / 1000 : Nat))))
    ∧ (w.pre = some .flush → (∃ j h, s.hereAt k j = some h ∧ h.band.crew = n
          ∧ ∃ o ∈ h.band.log, ∃ d ∈ o.elems, d.st.isHurt = false ∧ d.st.isDone = false) →
      ∃ t, exec (.flushRestart k n) s = .next t ∧ t = { s with cores := t.cores } ∧ t.crew? k n = some w
        ∧ ∀ j b, s.band? k j = some b → t.band? k j = some (if b.crew ≠ n then b else { b with
            log := (b.log.map fun o => { o with elems := o.elems.map fun d =>
              if d.st.isHurt then { d with st := .done [] } else d }).filter fun o => o.elems.any fun d => !d.st.isDone }))
    ∧ (∀ t0, w.pre = some (.save t0) →
      let need := 3 * 2 ^ 19 + ((s.coreAt k).bands.filter fun e => e.2.crew == n).length * 32 * x.pvsize.toNat
      (s.saveReady (k, n, w) = false → Idles (.crewSave k n) s)
      ∧ (s.saveReady (k, n, w) = true →
          (∀ c ∈ (s.coreAt k).eng, c.crew = n → c.accepted = false)
          ∧ (∀ c, (s.coreAt k).mx.queue.find? (fun c => c.crew == n) = some c → c.accepted = false)
          ∧ (∀ c ∈ (s.clusterAt (clusterOf k)).clause.queue, c.core = k → c.crew = n → c.op ≠ 0xC8 → c.accepted = false)
          ∧ ∀ e ∈ (s.coreAt k).bands, e.2.crew = n → ∀ o ∈ e.2.log, ∀ d ∈ o.elems, d.st.isSent = false)
      ∧ (s.saveReady (k, n, w) = true → 65536 * x.csavesz.toNat < x.saveUsed + need →
          Decides (.crewSave k n) s k n (.retry (s.cycle + window)))
      ∧ (s.saveReady (k, n, w) = true → x.saveUsed + need ≤ 65536 * x.csavesz.toNat →
          (∀ (i j : Nat), w.slots[i]? = some j → ∃ b, s.band? k j = some b ∧ b.crew = n) →
          ∃ t x' v, exec (.crewSave k n) s = .next t ∧ Left s t k n ∧ t.ctx? w.task.ctx = some x' ∧ x'.saved = x.saved ++ [v]
            ∧ v.core = k ∧ v.crew = { w with pre := none, debit := 0, used := 0 }
            ∧ (∀ (i j : Nat), w.slots[i]? = some j → ∃ b, s.band? k j = some b ∧ v.bands[i]? = some { b with permit := false })
            ∧ v.scr = (s.coreAt k).scr.read w.place w.size
            ∧ v.eng = (s.coreAt k).eng.filter (fun c => c.crew == n) ∧ v.mxq = (s.coreAt k).mx.queue.filter (fun c => c.crew == n)
            ∧ (∀ m, m = (s.coreAt k).mx → (m.owner = some n → v.mx = some { m with queue := [], gts := [] })
                ∧ (m.owner ≠ some n → v.mx = none)))))
  ∧ ∀ (s : State) k xid (x : Ctx) id (v : Saved), s.ctx? xid = some x → x.saved.find? (fun u => u.id == id) = some v
    → (∀ u ∈ x.saved, u.gang = v.gang → u = v) → x.held = false → clusterOf v.core = clusterOf k
    → (x.saved.filter fun u => u.gang == v.gang) = [v] → v.crew.gang = [(v.core, v.crew.serial)]
    → v.bands.length = v.crew.slots.length → v.crew.slots.Nodup →
    (s.canRestore k x v = false → Idles (.crewRestore k xid id) s)
    ∧ (s.canRestore k x v = true → ∃ t w x', exec (.crewRestore k xid id) s = .next t
        ∧ t.crew? k v.crew.serial = some w
        ∧ w = { v.crew with slots := w.slots, place := w.place, gang := [(k, v.crew.serial)], rot := w.rot, since := s.cycle,
                               count := s.cycle }
        ∧ t.ctx? xid = some x' ∧ x'.saved = x.saved.filter (fun u => u.gang != v.gang)
        ∧ (x.detm = true → w.slots = v.crew.slots) ∧ w.slots.length = v.bands.length
        ∧ (∀ (i j : Nat), w.slots[i]? = some j → ∃ b b', v.bands[i]? = some b ∧ t.band? k j = some b'
            ∧ b' = { b with permit := b.tl, lanes := b'.lanes, pr := b'.pr, park := none, yldCycle := b'.yldCycle,
                            yldMark := b'.yldMark, picked := b'.picked }
            ∧ ∀ l, l < 32 → (b'.lane l).st = (b.lane l).st ∨ ((b.lane l).st = .blocked ∧ (b'.lane l).st = .wanting))
        ∧ (∀ i, i < v.scr.length → (t.coreAt k).scr.at (w.place + i) = v.scr.getD i 0))

/-! ### The plane fabric (14_fabric.md) -/

/-- R326, R327, R328, R332, R333, R337, R339 to R342, 08_memory.md R183: a request of another device is performed once and its answer kept; what
is not whole, carries another EPOCH, is out of the window or is admitted by no inbound window; an answer or a timeout ends
the request of a band's access. -/
def Obligations.RemoteRequests : Prop :=
  h6 0x0100000000000300 = 19
  ∧ (∀ (s : State) a epoch q? o,
      let dst := a.ia / 2 ^ 48 % 2 ^ 8
      let open_ := (s.fab.reqs.filter fun r => r.dst == dst).length
      let next := s.fab.nextQ.get 0 dst
      let used := s.takenQ dst
      (4096 ≤ open_ → s.ask a epoch q? o = none)
      ∧ (open_ < 4096 → ∃ t r, s.ask a epoch q? o = some (t, r.q) ∧ t.fab.reqs = s.fab.reqs ++ [r] ∧ r.dst = dst
          ∧ (∀ n, q? = some n → r.q = n ∧ t.fab.nextQ = s.fab.nextQ)
          ∧ (q? = none → (used.length < 2 ^ 16 → r.q ∉ used)
              ∧ (∃ k, k ≤ used.length ∧ r.q = next + BitVec.ofNat 16 k ∧ ∀ i, i < k → next + BitVec.ofNat 16 i ∈ used)
              ∧ t.fab.nextQ.get 0 dst = r.q + 1 ∧ ∀ d, d ≠ dst → t.fab.nextQ.get 0 d = s.fab.nextQ.get 0 d)
          ∧ r.epoch = epoch ∧ r.ia = a.ia ∧ r.size = a.size ∧ r.data = a.data ∧ r.kind = a.kind ∧ r.owner = o ∧ r.sent = s.cycle
          ∧ r.cmp = a.cmp ∧ r.aop = a.aop ∧ r.uncached = a.uncached ∧ r.poison = a.poison ∧ r.acq = a.acq ∧ r.coll = a.coll
          ∧ (s.fab.rehash = none → r.plane = s.fab.pmap.getD (h6 a.ia) 0 ∧ r.stalled = false)
          ∧ (∀ v, s.fab.rehash = some v →
              let back : Nat → Prop := fun ia => (v.mask &&& s.fab.dead).getLsbD (v.map.getD (h6 ia) 0) = true
              r.plane = v.map.getD (h6 a.ia) 0 ∧ (r.stalled = true ↔ back a.ia ∧ ∃ u ∈ s.fab.reqs, back u.ia
                ∧ u.stalled = false ∧ u.plane ≠ v.map.getD (h6 u.ia) 0))
          ∧ t.out = (if r.stalled then s.out else s.out ++ [.request r])))
  ∧ (∀ (s : State) dst, (∀ r ∈ s.fab.reqs, r.dst = dst → r.q ∈ s.takenQ dst)
      ∧ ∀ k j b o e a q, s.band? k j = some b → o ∈ b.log → e ∈ o.elems → e.loc = .ia a → a / 2 ^ 48 % 2 ^ 8 = dst →
          e.q = some q → q ∈ s.takenQ dst)
  ∧ (∀ (s : State) r,
      let x := s.fab.source r.src
      let ahead := (r.q - x.la).toNat
      let behind := (x.la - r.q).toNat
      let answers : State → RemoteResult → Prop := fun t a => ∃ p, exec (.remoteRequest r) s = .next (t.send (.answer r.src r.q p a))
      (r.whole = false → Idles (.remoteRequest r) s)
      ∧ (r.whole = true → r.epoch ≠ s.fab.epoch → answers (s.targetLog r 5) (.refused 5))
      ∧ (r.whole = true → r.epoch = s.fab.epoch →
          (ahead < 4096 → r.q ∉ x.accepted → s.handle r = none → Idles (.remoteRequest r) s)
          ∧ (ahead < 4096 → r.q ∉ x.accepted → ∀ s1 a, s.handle r = some (s1, a) → s1.fab.sources = s.fab.sources →
              s1.fab.epoch = s.fab.epoch → (∀ e ∈ x.answers, e.1 ≠ r.q) →
              ∃ t p, exec (.remoteRequest r) s = .next (t.send (.answer r.src r.q p a))
                ∧ t = { s1 with fab := { s1.fab with sources := t.fab.sources } }
                ∧ (∀ d, d ≠ r.src → t.fab.source d = s.fab.source d)
                ∧ (r.kind ≠ .read → ∃ p', exec (.remoteRequest r) t = .next (t.send (.answer r.src r.q p' a))))
          ∧ ((r.q ∈ x.accepted ∨ (ahead ≥ 4096 ∧ 1 ≤ behind ∧ behind ≤ 4096)) →
              (r.kind ≠ .read → ∀ e, x.answers.find? (fun e => e.1 == r.q) = some e → answers s e.2)
              ∧ (r.kind = .read → ∀ s1 a, s.handle r = some (s1, a) → answers s1 a))
          ∧ (4096 ≤ ahead → r.q ∉ x.accepted → ¬(1 ≤ behind ∧ behind ≤ 4096) →
              exec (.remoteRequest r) s = .next (s.fabEvent 4 r.plane r.src)))
      ∧ ((∀ n, n < 32 → ¬s.fab.Admits r n) → s.handle r = some ((s.targetLog r 4).fabEvent 5 r.plane r.src, .refused 4))
      ∧ (∀ n, n < 32 → s.fab.Admits r n → ∀ s1 a, s.serve r = some (s1, a) → ∃ s2, s.handle r = some (s2, a)
          ∧ ((∀ k, a ≠ .refused k) → s2 = s1) ∧ (∀ k, a = .refused k → s2 = s1.targetLog r k))
      ∧ (∀ sub d, s.walk r.ia = .bad sub d → s.serve r = some (s, .refused (if sub = 5 then 1 else if sub = 6 then 2 else 3)))
      ∧ ∀ l, s.walk r.ia = .leaf l → ((r.kind = .read ∧ l.r = false) ∨ (r.kind = .write ∧ l.w = false)
          ∨ (r.kind ≠ .read ∧ r.kind ≠ .write ∧ (l.r && l.w) = false)) → s.serve r = some (s, .refused 2))
  ∧ (∀ (s : State) r h o e, s.fab.Quiet → Awaits s r h o e →
      let s0 := s.without r
      (∀ d, ∃ b, exec (.remoteAck r.dst r.q (.data d)) s =
          .next ((if o.acq then s0.acquireAt h.core o.scope else s0).setBand h.core h.slot b) ∧ h.Performed o e d s.nextId b)
      ∧ (∀ k, exec (.remoteAck r.dst r.q (.refused k)) s = .next (s0.setBand h.core h.slot
          (h.withFault o e (if k = 0 ∨ k = 5 then 9 else 8) k none)))
      ∧ (r.sent + s.fab.ftmo.toNat ≤ s.cycle → exec (.remoteTimeout r.dst r.q) s = .next (s0.setBand h.core h.slot
          (h.withFault o e 10 0 (some r.q))))
      ∧ (s.cycle < r.sent + s.fab.ftmo.toNat → Idles (.remoteTimeout r.dst r.q) s))

/-- R326, R329, R335 to R337, R341: a failed link retires its plane; a REHASH; the RHACK that completes the committer's
set, and the COMMIT; a committer that waits too long; a member that goes down. -/
def Obligations.PlanesAndMembers : Prop :=
  (∀ (s : State) p, p < 8 →
      let s1 := ({ s with fab := { s.fab with
        up := s.fab.up &&& ~~~(1#8 <<< p), resends := s.fab.resends.drop p } }).fabEvent 1 p s.domidx.toNat
      (s.fab.up.getLsbD p = false → Idles (.linkFailure p) s)
      ∧ (s.fab.up.getLsbD p = true → s.fab.live.getLsbD p = false → exec (.linkFailure p) s = .next s1)
      ∧ (s.fab.up.getLsbD p = true → s.fab.live.getLsbD p = true → s.fab.dead.getLsbD p = false → s.fab.rehash = none →
          s.committer ≠ s.domidx.toNat → s.fab.live &&& s.fab.up &&& ~~~(1#8 <<< p) ≠ 0 →
          ∃ t, exec (.linkFailure p) s = .next t ∧ Retires s1 t (1#8 <<< p) (1#8 <<< p))
      ∧ exec (.flitResend p true) s = .next { s with fab := { s.fab with resends := s.fab.resends.drop p } }
      ∧ (s.fab.resends.get 0 p + 1 < 16 → exec (.flitResend p false) s = .next { s with fab := { s.fab with
          resends := s.fab.resends.put p (s.fab.resends.get 0 p + 1) } })
      ∧ (16 ≤ s.fab.resends.get 0 p + 1 → exec (.flitResend p false) s = exec (.linkFailure p) s))
  ∧ ([3, 11, 19, 27, 35, 43, 51, 59].map (fun e => (deadMap ((List.range 64).map (· % 8)) 0x08 0xF7).getD e 9) = [0, 1, 2, 4, 5, 6, 7, 0]
      ∧ ∀ (pmap : List Nat) mask keep e, e < 64 → keep ≠ 0 → (∀ i, i < 64 → pmap.getD i 0 < 8) →
          let p := pmap.getD e 0
          let q := (deadMap pmap mask keep).getD e 9
          (mask.getLsbD p = false → q = p) ∧ (mask.getLsbD p = true → keep.getLsbD q = true))
  ∧ (∀ (s : State) gen mask,
      ((mask = 0 ∨ (gen ≠ s.fab.pgen + 1 ∧ (gen ≠ s.fab.pgen + 2 ∨ s.fab.rehash = none))) → Idles (.rehash gen mask) s)
      ∧ (mask ≠ 0 → gen = s.fab.pgen + 2 → s.fab.rehash ≠ none →
          exec (.rehash gen mask) s = .next { s with fab := { s.fab with early := s.fab.early ++ [mask] } })
      ∧ (gen = s.fab.pgen + 1 → mask ≠ 0 → mask &&& s.fab.live = mask → mask &&& s.fab.dead = 0 → s.committer ≠ s.domidx.toNat →
          (s.fab.rehash = none → s.fab.live &&& s.fab.up &&& ~~~mask ≠ 0 →
            ∃ t, exec (.rehash gen mask) s = .next t ∧ Retires s t mask mask)
          ∧ ∀ r, s.fab.rehash = some r →
              (r.mask ||| mask = r.mask → Idles (.rehash gen mask) s)
              ∧ (r.mask ||| mask ≠ r.mask → r.mask &&& s.fab.live = r.mask → r.mask &&& s.fab.dead = 0 →
                  s.fab.live &&& s.fab.up &&& ~~~(r.mask ||| mask) ≠ 0 → ∃ t, exec (.rehash gen mask) s = .next t
                    ∧ Retires { s with fab := { s.fab with rhacks := s.fab.rhacks.filter fun a => a.1 != s.domidx.toNat } } t
                        (r.mask ||| mask) (mask &&& ~~~r.mask)))
      ∧ (gen = s.fab.pgen + 1 → mask ≠ 0 → mask &&& s.fab.dead = mask → mask &&& s.fab.live = 0 → s.committer ≠ s.domidx.toNat →
          s.fab.rehash = none → ∃ t, exec (.rehash gen mask) s = .next t ∧ Returns s t mask))
  ∧ (∀ (s : State) (r : Rehash) src mask, s.fab.rehash = some r → r.gen = s.fab.pgen + 1 → s.committer = s.domidx.toNat
      → r.acked = true → src ≠ s.domidx.toNat →
      let keep : List (Nat × BitVec 16 × BitVec 8) := (s.fab.rhacks.filter fun a => a.1 != src) ++ [(src, r.gen, mask)]
      let all := ∀ d, d ∈ s.liveMembers → (d, r.gen, r.mask) ∈ keep
      (∀ gen, gen ≠ s.fab.pgen + 1 → Idles (.rhack src gen mask) s)
      ∧ (¬all → exec (.rhack src r.gen mask) s = .next { s with fab := { s.fab with rhacks := keep } })
      ∧ (all → s.fab.Settles r →
          ∃ t, exec (.rhack src r.gen mask) s = .next t ∧ s.fab.Committed t.fab r ∧ t.out = s.out
            ++ (s.peers.flatMap fun d => (planesOf s.fab.working).map fun p => .commit d p r.gen) ++ s.pfSignals))
  ∧ (∀ (s : State) gen,
      (s.fab.rehash = none → Idles (.commit gen) s)
      ∧ ∀ r, s.fab.rehash = some r → (r.gen ≠ gen → Idles (.commit gen) s)
          ∧ (r.gen = gen → (∀ q ∈ s.fab.reqs, q.stalled = false) → s.fab.Settles r →
              ∃ t, exec (.commit gen) s = .next t ∧ s.fab.Committed t.fab r ∧ t.out = s.out ++ s.pfSignals))
  ∧ (∀ (s : State),
      (s.fab.rehash = none → Idles .rhtmoExpiry s)
      ∧ ∀ r, s.fab.rehash = some r →
          ((s.committer ≠ s.domidx.toNat ∨ s.cycle < r.start + s.fab.rhtmo.toNat) → Idles .rhtmoExpiry s)
          ∧ (s.committer = s.domidx.toNat → r.start + s.fab.rhtmo.toNat ≤ s.cycle → ∃ t, exec .rhtmoExpiry s = .next t
              ∧ ∀ d, d ∈ s.peers → (d, r.gen, r.mask) ∉ s.fab.rhacks →
                  (∃ m, t.fab.members.find d = some m ∧ m.live = false) ∧ ∀ p, p ∈ s.peers → .memberDown p d ∈ t.out))
  ∧ ∀ (s : State) d, s.fab.Quiet →
      ((∀ m, s.fab.members.find d = some m → m.live = false) → Idles (.memberDown d) s)
      ∧ ∀ m, s.fab.members.find d = some m → m.live = true → ∃ t, exec (.memberDown d) s = .next t
          ∧ (∀ k, t.fab.members.find k = if k = d then some { m with live := false } else s.fab.members.find k)
          ∧ t.fab.reqs = s.fab.reqs.filter (fun r => r.dst != d)
          ∧ (∀ (r : Req) h o e, r.dst = d → Awaits s r h o e → ∃ h' o' e', t.hereAt h.core h.slot = some h'
              ∧ h'.band.log.find? (fun p => p.id == o.id) = some o' ∧ o'.elems.find? (fun x => x.lane == e.lane) = some e'
              ∧ e'.st = .faulted 9 0)
/-! ### The host interface (20_host.md) -/

/-- R404, R412, R413, 12_clause.md R278: the ring registers, BAR0 writes and reads; booting, at first and again for a firmware
update (log entry 82, DEDUCED); SPDM; and taking a clause array. -/
def Claims.HostRegistersAndBoot : Prop :=
  (∀ (s : State) fn, fn < 16 →
    let f := s.fnAt fn
    let became : HostFn → State := fun g => { s with fns := s.fns.put fn g }
    let fits : BitVec 4 → BitVec 12 → BitVec 12 → Prop := fun n a b =>
      4 ≤ n.toNat ∧ n.toNat ≤ 12 ∧ a.toNat < 2 ^ n.toNat ∧ b.toNat < 2 ^ n.toNat
    (∀ v, ∃ e, exec (.rtail fn v) s = .next (became { f with rtail := v, rerr := e })
        ∧ (e = true ↔ f.rerr = true ∨ (f.ren = true ∧ 2 ^ f.rlog.toNat ≤ v.toNat)))
    ∧ (∀ v, ∃ e, exec (.chead fn v) s = .next (became { f with chead := v, cerr := e })
        ∧ (e = true ↔ f.cerr = true ∨ (f.cen = true ∧ 2 ^ f.clog.toNat ≤ v.toNat)))
    ∧ (∀ n en, ∃ e, exec (.ren fn n en) s = .next (became { f with rlog := n, ren := en, rerr := e })
        ∧ (en = true → (e = false ↔ fits n f.rtail f.rhead ∧ (f.ren = true → f.rerr = false))) ∧ (en = false → e = f.rerr))
    ∧ (∀ n en, ∃ e, exec (.cen fn n en) s = .next (became { f with clog := n, cen := en, cerr := e })
        ∧ (en = true → (e = false ↔ fits n f.chead f.ctail ∧ (f.cen = true → f.cerr = false))) ∧ (en = false → e = f.cerr))
    ∧ ∀ off v,
        (off = 0x00 → exec (.bar0Write fn off v) s = .next (became { f with rbase := BitVec.ofNat 64 (v.toNat / 2 ^ 12 * 2 ^ 12) }))
        ∧ (off = 0x08 → exec (.bar0Write fn off v) s = exec (.ren fn (v.setWidth 4) (v.getLsbD 31)) s)
        ∧ (off = 0x10 → exec (.bar0Write fn off v) s = exec (.rtail fn (v.setWidth 12)) s)
        ∧ (off = 0x20 → exec (.bar0Write fn off v) s = .next (became { f with cbase := BitVec.ofNat 64 (v.toNat / 2 ^ 12 * 2 ^ 12) }))
        ∧ (off = 0x28 → exec (.bar0Write fn off v) s = exec (.cen fn (v.setWidth 4) (v.getLsbD 31)) s)
        ∧ (off = 0x30 → exec (.bar0Write fn off v) s = exec (.chead fn (v.setWidth 12)) s)
        ∧ (off ∉ [0x00, 0x08, 0x10, 0x20, 0x28, 0x30] → exec (.bar0Write fn off v) s = .next (became f)))
  ∧ (∀ (s : State) fn,
      let f := s.fnAt fn
      let sized : BitVec 4 → Bool → Nat := fun n en => n.toNat + if en then 2 ^ 31 else 0
      s.bar0Read fn 0x00 = f.rbase ∧ (s.bar0Read fn 0x08).toNat = sized f.rlog f.ren
      ∧ (s.bar0Read fn 0x10).toNat = f.rtail.toNat ∧ (s.bar0Read fn 0x18).toNat = f.rhead.toNat
      ∧ s.bar0Read fn 0x20 = f.cbase ∧ (s.bar0Read fn 0x28).toNat = sized f.clog f.cen
      ∧ (s.bar0Read fn 0x30).toNat = f.chead.toNat ∧ (s.bar0Read fn 0x38).toNat = f.ctail.toNat
      ∧ (let w := (s.bar0Read fn 0x40).toNat
         (w % 2 = 1 ↔ s.fw.ready = true) ∧ (w / 2 % 2 = 1 ↔ f.rerr = true ∨ f.cerr = true) ∧ w / 2 ^ 16 = s.fw.fwsvn.toNat
         ∧ w / 4 % 2 ^ 14 = 0)
      ∧ ∀ off, off ∉ [0x00, 0x08, 0x10, 0x18, 0x20, 0x28, 0x30, 0x38, 0x40] → s.bar0Read fn off = 0)
  ∧ (∀ (s : State) fn n v en off w, 16 ≤ fn → Idles (.rtail fn v) s ∧ Idles (.chead fn v) s ∧ Idles (.ren fn n en) s
      ∧ Idles (.cen fn n en) s ∧ Idles (.bar0Write fn off w) s)
  ∧ (∀ (s : State) l,
      ((s.fw.job ≠ none ∨ l = [] ∨ 8 < l.length) → Idles (.boot l) s)
      ∧ (s.fw.job = none → l ≠ [] → l.length ≤ 8 → s.fw.measures.length = 8 → ∀ k, k ≤ l.length →
          (∀ i, i < k → Config.stageVerifies (l.getD i []) = true) → (k < l.length → Config.stageVerifies (l.getD k []) = false) →
          ∃ m : List (List Byte), exec (.boot l) s = .next { s with fw := { s.fw with
              ready := s.fw.ready || decide (k = l.length), measures := m,
              fwsvn := ((l.take k).map fun d => (Config.stageSvn d).1).foldl (fun v n => BitVec.ofNat 16 (max v.toNat n)) s.fw.fwsvn,
              modsvn := ((l.take k).map fun d => (Config.stageSvn d).2).foldl max s.fw.modsvn } }
            ∧ m.length = 8 ∧ ∀ i, i < 8 → m.getD i [] = if i ≤ k ∧ i < l.length then Config.sha384 (l.getD i []) else
                s.fw.measures.getD i []))
  ∧ (∀ (s : State) n d,
      (n ≤ 6 → exec (.spdmRequest n d) s = .next { s with out := s.out ++ [.spdm (Config.spdmAnswer n s.fw.measures.flatten d)] })
      ∧ (6 < n → Idles (.spdmRequest n d) s))
  ∧ ∀ (s : State) q,
      let a := (s.clusterAt q).clause
      (a.owner = none → Idles (.takeClauseArray q) s)
      ∧ ∀ x, a.owner = some x →
          ((∃ e ∈ a.queue, e.accepted = true) → Idles (.takeClauseArray q) s)
          ∧ ((∀ e ∈ a.queue, e.accepted = false) → ∃ u : State, u = { s with ctxs := u.ctxs, clusters := u.clusters }
              ∧ (∀ y, u.ctx? y = if y = x then (s.ctx? y).map (fun v => { v with arrays := v.arrays.put q a.st }) else s.ctx? y)
              ∧ (∀ p, u.clusterAt p = if p = q then { s.clusterAt p with clause := { a with owner := none, st := ClState.reset } }
                  else s.clusterAt p)
              ∧ exec (.takeClauseArray q) s =
                  .next (((u.crewsOf x).filter fun e => e.1 / 16 == q).foldl (fun s e => s.preempt e.1 e.2.1) u))

/-- R406, R408, R409: what each command answers when its context is not open, belongs to another function or is damaged,
and when a physical function's command comes from a virtual function. -/
def Claims.HostAccess : Prop :=
  let onCtx : (HostCmd → Instr) → Nat → Bool → Prop := fun i code always => ∀ s c, Heads s code c →
    ((∀ v, s.ctx? c.ctx.toNat = some v → v.fn ≠ c.fn) → Completes (i c) s c (s.taken c.fn) 2 0)
    ∧ (∀ v, s.ctx? c.ctx.toNat = some v → v.fn = c.fn → v.cerr.getLsbD 5 = true → always = false →
        Completes (i c) s c (s.taken c.fn) 11 0)
  let pf : (HostCmd → Instr) → Nat → Prop := fun i code => ∀ s c, Heads s code c → c.fn ≠ 0 →
    Completes (i c) s c (s.taken c.fn) 1 0
  onCtx .closeContext 2 true ∧ (∀ a, onCtx (.mapRange · a) 3 false) ∧ (∀ a n, onCtx (.unmapRange · a n) 4 false)
  ∧ (∀ n lo hi, onCtx (.setWindow · n lo hi) 5 false) ∧ (∀ i d, onCtx (.setFstab · i d) 6 false)
  ∧ (∀ a n h, onCtx (.loadModule · a n h) 7 false) ∧ (∀ a q, onCtx (.submit · a q) 8 false)
  ∧ (∀ b n x y, onCtx (.readLog · b n x y) 9 true) ∧ (∀ m a n t k, onCtx (.checkpoint · m a n t k) 10 false)
  ∧ (∀ t a n b, onCtx (.restoreImage · t a n b) 11 false)
  ∧ (∀ w n, pf (.setBudget · w n) 12) ∧ (∀ r m b, pf (.planeStatus · r m b) 13) ∧ (∀ n lo hi, pf (.setInwin · n lo hi) 15)
  ∧ (∀ j d e, pf (.memberReport · j d e) 16)

/-- Who may use a command; the ring registers, booting, SPDM, and taking a clause array. -/
def Obligations.HostAccessAndRegisters : Prop := Claims.HostAccess ∧ Claims.HostRegistersAndBoot

/-- R408, R410, R411: OPEN_CONTEXT, CLOSE_CONTEXT, MAP, UNMAP, SET_WINDOW and SET_FSTAB. -/
def Obligations.HostContexts : Prop :=
  (∀ s c a, Heads s 1 c →
    let save := if a.savesz = 0 then 4096 else a.savesz
    let ok := 1 ≤ a.weight ∧ a.weight ≤ 255 ∧ 24 ≤ save ∧ save ≤ 65535 ∧ a.pvsize % 4 = 0 ∧ a.pvsize < 2 ^ 30 ∧ a.ftcount ≤ 65535
    let free := (∃ i, i < 64 ∧ s.ctx? i = none)
      ∧ (∀ q n, q < 16 → n < 16 → a.qmask.getLsbD n = true → (s.queueAt q n).owner = none)
      ∧ (∀ q, q < 16 → a.clmask.getLsbD q = true → (s.clusterAt q).clause.owner = none)
    let apart : Nat → Nat → Nat → Nat → Prop := fun a n b m => a + n ≤ b ∨ b + (m - b) ≤ a
    let chips : Nat → Prop := fun p => p + a.chip ≤ 0x3F00000
      ∧ ∀ e ∈ s.ctxs, apart p a.chip e.2.chiplo.toNat e.2.chiphi.toNat
    let cells : Nat → Prop := fun p => p + a.dccnt ≤ 2 ^ 18
      ∧ ∀ e ∈ s.ctxs, apart p a.dccnt e.2.dcbase.toNat (e.2.dcbase.toNat + e.2.dccnt.toNat)
    (¬ok → Completes (.openContext c a) s c (s.taken c.fn) 1 0)
    ∧ (ok → ¬free → Completes (.openContext c a) s c (s.taken c.fn) 3 0)
    ∧ (ok → free → (∃ p, chips p) → (∃ p, cells p) → ∀ s1 s2 s3 pv ft cs,
        State.fwRegion { s.taken c.fn with fresh := s.fresh + 3 } (2 ^ 18 * a.pvsize) = some (s1, pv) →
        s1.fwRegion (32 * a.ftcount) = some (s2, ft) → s2.fwRegion (2 ^ 16 * save) = some (s3, cs) →
        ∃ (t : State) (i : Nat) (v : Ctx), Completes (.openContext c a) s c t 0 (BitVec.ofNat 64 i) ∧ i < 64 ∧ s.ctx? i = none ∧ t.ctx? i = some v
          ∧ (∀ j, j ≠ i → t.ctx? j = s.ctx? j) ∧ t.ptes = s3.ptes
          ∧ v.fn = c.fn ∧ v.detm = a.detm ∧ (v.sigreq = true ↔ a.sigreq = true ∨ c.fn ≠ 0) ∧ v.cerr = 0 ∧ v.closing = false
          ∧ (∀ n, v.vw.get 0 n = 0) ∧ v.pvsize.toNat = a.pvsize ∧ v.ftcount.toNat = a.ftcount ∧ v.csavesz.toNat = save
          ∧ v.pvbase = BitVec.ofNat 64 (s.domidx.toNat * 2 ^ 48 + pv) ∧ v.ftbase = BitVec.ofNat 64 (s.domidx.toNat * 2 ^ 48 + ft)
          ∧ v.csave = BitVec.ofNat 64 (s.domidx.toNat * 2 ^ 48 + cs)
          ∧ chips v.chiplo.toNat ∧ v.chiphi.toNat = v.chiplo.toNat + a.chip ∧ cells v.dcbase.toNat ∧ v.dccnt.toNat = a.dccnt
          ∧ v.weight = a.weight ∧ v.cap = a.cap ∧ v.reserve = (a.cap : Int) * 2 ^ 32 ∧ v.ecnt = 0 ∧ v.modules = []
          ∧ v.log = [] ∧ v.saved = [] ∧ v.submits = 0
          ∧ (∀ q n, t.queueAt q n = if q < 16 ∧ n < 16 ∧ a.qmask.getLsbD n = true then ⟨some i, []⟩ else s.queueAt q n)
          ∧ ∀ q, let u := (t.clusterAt q).clause
              if q < 16 ∧ a.clmask.getLsbD q = true then u.owner = some i ∧ u.st = ClState.reset
                else u = (s.clusterAt q).clause))
  ∧ (∀ (s : State) x v c, s.ctx? x = some v →
      let u := (s.taken c).closeBegin x
      (∃ w, u.ctx? x = some w ∧ w.closing = true ∧ w.saved = [])
      ∧ (∀ q, (∀ n, ∀ k ∈ (u.queueAt q n).tasks, k.ctx ≠ x) ∧ (∀ k ∈ (u.clusterAt q).launched, k.ctx ≠ x)
          ∧ ∀ b ∈ (u.clusterAt q).bins, b.2.ctx ≠ x)
      ∧ let t := s.closeEnd x v
        t.ctx? x = none ∧ (∀ y, y ≠ x → t.ctx? y = s.ctx? y)
        ∧ (∀ q, (∀ n, t.queueAt q n = if (s.queueAt q n).owner = some x then ⟨none, []⟩ else s.queueAt q n)
          ∧ (t.clusterAt q).clause.owner = if (s.clusterAt q).clause.owner = some x then none else (s.clusterAt q).clause.owner)
        ∧ ∀ k, (t.coreAt k).labels = (s.coreAt k).labels.filter fun l => l.1 != x)
  ∧ (∀ s c v, s.ctx? c.ctx.toNat = some v → v.fn = c.fn →
      (Heads s 2 c →
        let u := (s.taken c.fn).closeBegin c.ctx.toNat
        (u.crewsOf c.ctx.toNat = [] → Completes (.closeContext c) s c (u.closeEnd c.ctx.toNat v) 0 0)
        ∧ (u.crewsOf c.ctx.toNat ≠ [] → Goes (.closeContext c) s u (Job.at (.closeContext c) 1 s.cycle)))
      ∧ ∀ n, s.fw.job = some (Job.at (.closeContext c) 1 n) →
          (s.crewsOf c.ctx.toNat = [] → Completes (.closeContext c) s c (s.closeEnd c.ctx.toNat v) 0 0)
          ∧ (s.crewsOf c.ctx.toNat ≠ [] → Idles (.closeContext c) s))
  ∧ (∀ s c v a, Heads s 3 c → Names s c v →
      let u := if a.big = true then 2 ^ 21 else 2 ^ 16
      let p := a.ia % 2 ^ 48
      let ok := a.ia / 2 ^ 48 = s.domidx.toNat ∧ 0 < a.len ∧ a.len % u = 0 ∧ a.ia % u = 0 ∧ p + a.len ≤ 2 ^ 48
        ∧ (a.mt = 0 ∨ (a.mt = 1 ∧ a.host % u = 0 ∧ a.host + a.len ≤ 2 ^ 64)) ∧ s.leavesIn p a.len = []
      let leaf : State → Nat → Nat → Prop := fun t k pa =>
        ∃ l, t.walk (p + k) = .leaf l ∧ l.pa = pa ∧ l.mt = a.mt ∧ l.r = a.r ∧ l.w = a.w ∧ l.x = a.x
      let later : State → Prop := fun t => a.dsvc = true ∧ ∀ k, k < a.len → t.walk (p + k) = .bad 5 true
      let others : State → Prop := fun t => ∀ b l, b < p ∨ (p + a.len ≤ b ∧ b < 2 ^ 48) → s.walk b = .leaf l → t.walk b = .leaf l
      (¬ok → Completes (.mapRange c a) s c (s.taken c.fn) 1 0)
      ∧ (ok → a.mt = 1 → ∃ t : State, Completes (.mapRange c a) s c t 0 0 ∧ others t
          ∧ (later t ∨ ∀ k, k < a.len → leaf t k (a.host + k)))
      ∧ (ok → a.mt = 0 → s.takePages u (a.len / u) ≠ none → ∃ (t : State) (pas : List Nat), Completes (.mapRange c a) s c t 0 0 ∧ others t
          ∧ pas.length = a.len / u ∧ pas.Nodup
          ∧ (∀ q ∈ pas, q % u = 0 ∧ q < 2 ^ 39 ∧ ∀ r ∈ s.hbmUsed, q + u ≤ r.1 ∨ r.1 + r.2 ≤ q)
          ∧ (later t ∨ ∀ k, k < a.len → leaf t k (pas.getD (k / u) 0 + k % u))))
  ∧ (∀ s c v ia n, Heads s 4 c → Names s c v →
      let p := ia % 2 ^ 48
      let ok := ia / 2 ^ 48 = s.domidx.toNat ∧ 0 < n ∧ n % 65536 = 0 ∧ ia % 65536 = 0 ∧ p + n ≤ 2 ^ 48
        ∧ ∀ e ∈ s.leavesIn p n, p ≤ e.2.1 ∧ e.2.1 + e.2.2 ≤ p + n
      (¬ok → Completes (.unmapRange c ia n) s c (s.taken c.fn) 1 0)
      ∧ (ok →
          let u := (s.linesIn ia n).foldl State.expel (s.taken c.fn)
          ∃ t : State, Completes (.unmapRange c ia n) s c t 0 0 ∧ t = { u with ptes := t.ptes, served := t.served } ∧ u.linesIn ia n = []
            ∧ (∀ e, e ∈ t.served ↔ e ∈ s.served ∧ (e.1 * 65536 < p ∨ p + n ≤ e.1 * 65536))
            ∧ (∀ k l, k < n → t.walk (p + k) ≠ .leaf l)
            ∧ ∀ b l, b < p ∨ (p + n ≤ b ∧ b < 2 ^ 48) → u.walk b = .leaf l → t.walk b = .leaf l))
  ∧ (∀ s c v n lo hi, Heads s 5 c → Names s c v →
      (16 ≤ n → Completes (.setWindow c n lo hi) s c (s.taken c.fn) 1 0)
      ∧ (n < 16 → ∃ w : Tab DWord, Completes (.setWindow c n lo hi) s c ((s.taken c.fn).setCtx c.ctx.toNat { v with vw := w }) 0 0
          ∧ w.get 0 (2 * n) = lo &&& 0x01FFFFFFFFFF01FF ∧ w.get 0 (2 * n + 1) = hi
          ∧ ∀ k, k ≠ 2 * n → k ≠ 2 * n + 1 → w.get 0 k = v.vw.get 0 k))
  ∧ (∀ s c v i d, Heads s 6 c → Names s c v →
      ((i = 0 ∨ v.ftcount.toNat < i ∨ d.length ≠ 8) → Completes (.setFstab c i d) s c (s.taken c.fn) 1 0)
      ∧ (1 ≤ i → i ≤ v.ftcount.toNat → d.length = 8 → Completes (.setFstab c i d) s c
          ((s.taken c.fn).fwWrite (pieces 3 (v.ftbase.toNat + 32 * (i - 1)) 32) (d.flatMap fun w => toBytes 4 w.toNat)) 0 0))

/-- R72, R73, R75, R306, R408, R412: LOAD_MODULE, with what verification answers, SUBMIT and READ_LOG. -/
def Obligations.HostModulesAndTasks : Prop :=
  (∀ (f : Firmware) sigreq d (z : Zof),
      (zSect z.sects 11 = none → f.verify sigreq d z = (if sigreq = true then 8 else 0, f.cache))
      ∧ ∀ x, zSect z.sects 11 = some x →
          let part : Nat → Nat → List Byte := fun o n => (d.drop o).take n
          let digest := part (x.off + 8) 48
          let key : Nat → Nat := fun o => ofBytes (part (x.off + o) 4)
          let msg := d.take x.off ++ part x.off 64
          let cached := ∃ e ∈ f.cache, e.1 = digest
          let signed := Config.keyKnown (key 0x38) = true ∧ key 0x38 ∉ f.revoked ∧ Config.keyKnown (key 0x3C) = true
            ∧ key 0x3C ∉ f.revoked ∧ Config.rsaVerifies (key 0x38) msg (part (x.off + 0x40) 384) = true
            ∧ Config.slhVerifies (key 0x3C) msg (part (x.off + 0x1C0) 16224) = true
          (Config.sha384 (d.take x.off) ≠ digest → f.verify sigreq d z = (5, f.cache))
          ∧ (Config.sha384 (d.take x.off) = digest →
              (cached → f.modsvn ≤ z.svn → f.verify sigreq d z = (0, f.cache))
              ∧ (cached → z.svn < f.modsvn → f.verify sigreq d z = (7, f.cache.filter fun e => e.1 != digest))
              ∧ (¬cached → ¬signed → f.verify sigreq d z = (5, f.cache))
              ∧ (¬cached → signed → z.svn < f.modsvn → f.verify sigreq d z = (6, f.cache))
              ∧ (¬cached → signed → f.modsvn ≤ z.svn → f.verify sigreq d z = (0, f.cache ++ [(digest, z.svn)]))))
  ∧ (∀ s c v addr len hd, Heads s 7 c → Names s c v →
      let i := Instr.loadModule c addr len hd
      let x := c.ctx.toNat
      let d := s.hostMem.read addr len
      (parseZof d = none → Completes i s c (s.taken c.fn) 4 0)
      ∧ ∀ z, parseZof d = some z →
          ((65535 < hd ∨ (hd ≠ 0 ∧ v.modules.find hd = none)) → Completes i s c (s.taken c.fn) 1 0)
          ∧ (hd ≤ 65535 → (hd = 0 ∨ v.modules.find hd ≠ none) →
              Loads i s (s.taken c.fn) c v hd z d (Job.at i 0 s.cycle)))
  ∧ (∀ s c v addr len hd (j : Job) z, Names s c v → s.fw.job = some j → j.cmd = Instr.loadModule c addr len hd → j.stage = 1 →
      parseZof j.part = some z → hd ≠ 0 → hd ≤ 65535 → v.modules.find hd ≠ none →
      Loads (.loadModule c addr len hd) s s c v hd z j.part j)
  ∧ (∀ (s : State) y v d z k t, s.ctx? y = some v → s.installModule y k v d z = .ok t →
          ∃ m v', t.ctx? y = some v' ∧ v' = { v with modules := v'.modules } ∧ v'.modules.find k = some m
            ∧ (∀ j, j ≠ k → v'.modules.find j = v.modules.find j)
            ∧ m.size = zSize z.sects 1 ∧ m.labels = z.labels ∧ m.kernels = z.kernels ∧ m.old = false)
  ∧ (∀ s c v addr (queue : DWord), Heads s 8 c → Names s c v →
      let x := c.ctx.toNat
      let i := Instr.submit c addr queue
      let s1 := s.taken c.fn
      let d := s.hostMem.read addr 64
      let n := queue.toNat % 16
      let q := queue.toNat / 16 % 16
      let named := queue.toNat < 2 ^ 9 ∧ queue.toNat / 2 ^ 8 = 1 ∧ (s.queueAt q n).owner = some x
      (¬named → Completes i s c s1 1 0)
      ∧ (named → s.checkRec v 0 d = none → Completes i s c (s1.logRec x ⟨9, 0, 0, 0, 0, 0, 2, 0, 0⟩) 10 0)
      ∧ (named → ∀ m fs l, s.checkRec v 0 d = some (m, fs, l) →
          (4096 ≤ (s.queueAt q n).tasks.length → Completes i s c s1 3 0)
          ∧ ((s.queueAt q n).tasks.length < 4096 →
              let field : Nat → Nat → Nat := fun o n => ofBytes ((d.drop o).take n)
              let dep := field 0x14 4
              let held := decide (2 ^ 31 ≤ dep)
                && ofBytes (s.chip.read (0x3F00000 + 4 * (v.dcbase.toNat + dep % 2 ^ 18)) 4) != 0
              let id := mix (BitVec.ofNat 64 (x * 2 ^ 32 + v.submits))
              let t : Task := ⟨id, x, m, BitVec.ofNat 16 (field 2 2), field 4 1, d, fs, q, n, held, field 0xB 1 % 8, [], s.cycle⟩
              Completes i s c ((s1.setQueue q n { s.queueAt q n with tasks := (s.queueAt q n).tasks ++ [t] }).setCtx x
                { v with submits := v.submits + 1 }) 0 (id.setWidth 64))))
  ∧ ∀ s c v buf most clear wipe, Heads s 9 c → s.ctx? c.ctx.toNat = some v → v.fn = c.fn →
      let l := v.log.take most
      ∃ m : Memory, Completes (.readLog c buf most clear wipe) s c ({ s.taken c.fn with hostMem := m }.setCtx c.ctx.toNat { v with
          log := if clear = true then v.log.drop most else v.log,
          cerr := if wipe = true then v.cerr &&& 0x20 else v.cerr }) 0 (BitVec.ofNat 64 l.length)
        ∧ (∀ a, a < buf ∨ buf + 48 * l.length ≤ a → m.at a = s.hostMem.at a)
        ∧ ∀ k, k < l.length → ∀ r, l[k]? = some r →
            let at_ : Nat → Nat → Nat := fun o n => ofBytes (m.read (buf + 48 * k + o) n)
            at_ 0 1 = r.group % 2 ^ 8 ∧ at_ 1 1 = r.kind % 2 ^ 8 ∧ at_ 2 2 = r.status % 2 ^ 16 ∧ at_ 4 2 = r.core % 2 ^ 16
            ∧ at_ 6 1 = r.slot % 2 ^ 8 ∧ at_ 8 8 = r.p.toNat ∧ at_ 0x10 12 = r.detail.toNat ∧ at_ 0x20 8 = r.word.toNat
            ∧ at_ 0x28 8 = r.task.toNat

/-- R243, R415: CHECKPOINT and RESTORE, step by step. -/
def Claims.HostCopies : Prop :=
  (∀ s c v all ia n safe ck, Names s c v →
    let i := Instr.checkpoint c all ia n safe ck
    let p := ia % 2 ^ 48
    let ok := ia / 2 ^ 48 = s.domidx.toNat ∧ ia % 65536 = 0 ∧ n % 65536 = 0 ∧ safe % 16 = 0 ∧ p + n ≤ 2 ^ 48
    let want := if all = true then 4096 else 4112
    (Heads s 10 c →
      (¬ok → Completes i s c (s.taken c.fn) 1 0)
      ∧ (ok → Goes i s ((s.taken c.fn).setCtx c.ctx.toNat { v with held := true }) (Job.at i 1 s.cycle)))
    ∧ ∀ j, s.fw.job = some j → j.cmd = i →
        (j.stage = 1 →
          let u := s.saveAll c.ctx.toNat v j.since
          (u.crewsOf c.ctx.toNat ≠ [] → Goes i s u j)
          ∧ (u.crewsOf c.ctx.toNat = [] → Goes i s (u.cleanFor v ia n) { j with stage := 2 }))
        ∧ (2 ≤ j.stage →
          let a := ia + j.cursor
          let out := safe + j.out + j.woff
          let got := j.part.length + 4096 - want
          (j.sent ≠ none → Idles i s)
          ∧ (j.sent = none → (j.failed = true ∨ n ≤ j.cursor) → Completes i s c (s.setCtx c.ctx.toNat { v with held := false }) 0
              (BitVec.ofNat 64 (if all = true then j.cursor else j.count)))
          ∧ (j.sent = none → j.failed = false → j.cursor < n →
              (j.part = [] → all = false →
                let dirty : Nat → Prop := fun g => ∃ l, s.walk (a % 2 ^ 48) = .leaf l ∧ l.mt = 0 ∧ g = l.pa / 4096 ∧ g ∈ s.granules
                ((∀ g, ¬dirty g) → Goes i s s { j with cursor := j.cursor + 4096 })
                ∧ ∀ g, dirty g → Goes i s { s with granules := s.granules.erase g }
                    { j with part := toBytes 8 j.cursor ++ toBytes 8 ck.toNat })
              ∧ ((j.part ≠ [] ∨ all = true) → j.part.length < want → ∀ t d,
                  s.farRead 0 (a + got) (min (4096 - got) (64 - (a + got) % 64)) 2 .fw = .ok t d →
                  Goes i s t { j with part := j.part ++ d })
              ∧ (want ≤ j.part.length → j.woff < want → ∀ t e,
                  let d := (j.part.drop j.woff).take (min (j.part.length - j.woff) (64 - out % 64))
                  s.farWrite 0 out 2 d false .fw = .ok t e → Goes i s t { j with woff := j.woff + d.length })
              ∧ (want ≤ j.part.length → want ≤ j.woff → Goes i s s { j with
                  cursor := j.cursor + 4096, part := [], woff := 0, out := j.out + want, count := j.count + 1 }))))
  ∧ ∀ s c v safe ia n blocks, Names s c v →
    let i := Instr.restoreImage c safe ia n blocks
    let p := ia % 2 ^ 48
    let ok := ia / 2 ^ 48 = s.domidx.toNat ∧ ia % 65536 = 0 ∧ n % 65536 = 0 ∧ p + n ≤ 2 ^ 48
    let meets : Nat → Nat → Prop := fun a m => a < ia + n ∧ ia < a + m
    let reach := ∃ e ∈ s.crewsOf c.ctx.toNat, e.2.2.gone = false
      ∧ ((∃ k, k < 16 ∧ (v.vwLo k).getLsbD 0 = true ∧ meets (v.iabase k) (v.vsize k))
        ∨ ∃ b ∈ (s.coreAt e.1).bands, b.2.crew = e.2.1
            ∧ meets (v.pvbase.toNat + (32 * e.1 + b.1) * 32 * v.pvsize.toNat) (32 * v.pvsize.toNat))
    let mark : State → Nat → State := fun u a => match u.walk (a % 2 ^ 48) with
      | .leaf l => if l.mt = 0 then { u with granules := if l.pa / 4096 ∈ u.granules then u.granules
          else u.granules ++ [l.pa / 4096] } else u
      | .bad _ _ => u
    (Heads s 11 c →
      (¬ok → Completes i s c (s.taken c.fn) 1 0)
      ∧ (ok → reach → Completes i s c (s.taken c.fn) 12 0)
      ∧ (ok → ¬reach → Goes i s (s.taken c.fn) (Job.at i 1 s.cycle)))
    ∧ ∀ j, s.fw.job = some j → j.cmd = i → 1 ≤ j.stage →
        (j.sent ≠ none → Idles i s)
        ∧ (j.sent = none → j.failed = true → Completes i s c s 0 (BitVec.ofNat 64 j.count))
        ∧ (j.sent = none → j.failed = false →
          let step : Nat → Nat → Option Nat → Nat → Prop := fun src skip dst unit =>
            (j.part.length < 4096 + skip → ∀ t d,
              s.farRead 0 (src + j.part.length) (min (4096 + skip - j.part.length) (64 - (src + j.part.length) % 64)) 2 .fw = .ok t d →
              Goes i s t { j with part := j.part ++ d })
            ∧ (4096 + skip ≤ j.part.length → dst = none → Goes i s s { j with part := [], woff := 0, cursor := j.cursor + unit })
            ∧ (4096 + skip ≤ j.part.length → ∀ a, dst = some a →
                (j.woff < 4096 + skip → ∀ t e,
                  let o := max j.woff skip
                  let d := (j.part.drop o).take (min (j.part.length - o) (64 - (a + (o - skip)) % 64))
                  s.farWrite 0 (a + (o - skip)) 2 d false .fw = .ok t e → Goes i s t { j with woff := o + d.length })
                ∧ (4096 + skip ≤ j.woff → Goes i s (mark s a)
                    { j with part := [], woff := 0, count := j.count + 1, cursor := j.cursor + unit }))
          (j.stage = 1 → n ≤ j.cursor → Goes i s s { j with stage := 2, cursor := 0 })
          ∧ (j.stage = 1 → j.cursor < n → step (safe + j.cursor) 0 (some (ia + j.cursor)) 4096)
          ∧ (2 ≤ j.stage → blocks.length ≤ j.stage - 2 → Completes i s c s 0 (BitVec.ofNat 64 j.count))
          ∧ ∀ b, 2 ≤ j.stage → blocks[j.stage - 2]? = some b →
              (b.2 ≤ j.cursor → Goes i s s { j with stage := j.stage + 1, cursor := 0 })
              ∧ (j.cursor < b.2 →
                  let off := ofBytes (j.part.take 8)
                  step (b.1 + 4112 * j.cursor) 16 (if off % 4096 = 0 ∧ off + 4096 ≤ n then some (ia + off) else none) 1))

/-- R329, R337, R339, R341, R408, R413, R414: SET_BUDGET, PLANE_STATUS, ATTEST, SET_INWIN and MEMBER_REPORT. -/
def Claims.HostDevice : Prop :=
  (∀ s c w, Heads s 12 c → c.fn = 0 →
    let go : State → State := fun s =>
      if w < s.budget then (s.cores.flatMap fun e => (e.2.crews.filter fun k => !k.2.gone).map fun k => (e.1, k.1)).foldl
        (fun s e => s.preempt e.1 e.2) { s with budget := w } else { s with budget := w }
    (∀ n, w < 1200 ∨ 2000 < w → Completes (.setBudget c w n) s c (s.taken c.fn) 1 0)
    ∧ (1200 ≤ w → w ≤ 2000 →
        Completes (.setBudget c w none) s c (go (s.taken c.fn)) 0 0
        ∧ ∀ n v, Names s c v →
            ((n = 0 ∨ 255 < n) → Completes (.setBudget c w (some n)) s c (s.taken c.fn) 1 0)
            ∧ (1 ≤ n → n ≤ 255 →
                Completes (.setBudget c w (some n)) s c (go ((s.taken c.fn).setCtx c.ctx.toNat { v with weight := n })) 0 0)))
  ∧ (∀ s c mask buf, Heads s 13 c → c.fn = 0 → (∀ e, e < 64 → s.fab.pmap.getD e 0 < 8) →
      ∃ m : Memory, (∀ a, a < buf ∨ buf + 24 ≤ a → m.at a = s.hostMem.at a)
        ∧ (∀ e, e < 64 → ofBytes (m.read buf 24) / 8 ^ e % 8 = s.fab.pmap.getD e 0)
        ∧ (let s1 : State := { s.taken c.fn with hostMem := m }
          Completes (.planeStatus c false mask buf) s c s1 0 s.fab.pstat
          ∧ ((mask = 0 ∨ mask &&& s.fab.dead ≠ mask) → Completes (.planeStatus c true mask buf) s c (s.taken c.fn) 1 0)
          ∧ (mask ≠ 0 → mask &&& s.fab.dead = mask →
              (s.fab.rehash ≠ none →
                Goes (.planeStatus c true mask buf) s (s.taken c.fn) (Job.at (.planeStatus c true mask buf) 1 s.cycle))
              ∧ (s.fab.rehash = none → ∀ t, exec (.rehash (s.fab.pgen + 1) mask) s1 = .next t →
                  Completes (.planeStatus c true mask buf) s c t 0 t.fab.pstat))))
  ∧ (∀ s c buf nonce, Heads s 14 c →
      let r := Config.attestReport (s.fw.measures.flatten ++ toBytes 2 s.fw.fwsvn.toNat ++ toBytes 4 s.fw.modsvn
        ++ toBytes 8 s.devid.toNat ++ nonce)
      (nonce.length ≠ 32 → Completes (.attest c buf nonce) s c (s.taken c.fn) 1 0)
      ∧ (nonce.length = 32 → ∃ m : Memory, Completes (.attest c buf nonce) s c { s.taken c.fn with hostMem := m } 0
            (BitVec.ofNat 64 r.length)
          ∧ m.read buf r.length = r ∧ ∀ a, a < buf ∨ buf + r.length ≤ a → m.at a = s.hostMem.at a))
  ∧ (∀ s c n lo hi, Heads s 15 c → c.fn = 0 →
      (32 ≤ n → Completes (.setInwin c n lo hi) s c (s.taken c.fn) 1 0)
      ∧ (n < 32 → ∃ w : Tab DWord, Completes (.setInwin c n lo hi) s c { s.taken c.fn with fab := { s.fab with inwin := w } } 0 0
          ∧ w.get 0 (2 * n) = lo &&& 0xFFFFFFFF00FFFF0F ∧ w.get 0 (2 * n + 1) = hi &&& 0xFFFFFFFF
          ∧ ∀ k, k ≠ 2 * n → k ≠ 2 * n + 1 → w.get 0 k = s.fab.inwin.get 0 k))
  ∧ ∀ s c d epoch, Heads s 16 c → c.fn = 0 →
      (∀ join, 255 < d → Completes (.memberReport c join d epoch) s c (s.taken c.fn) 1 0)
      ∧ (d ≤ 255 →
          let own := s.fab.members = [] ∨ d = s.domidx.toNat
          let map : State → Prop := fun t =>
            ∀ k, t.fab.members.find k = if k = d then some ⟨true, epoch⟩ else s.fab.members.find k
          (own → s.fab.up = 0xFF → ∃ t : State, Completes (.memberReport c true d epoch) s c t 0 0 ∧ map t
            ∧ t.domidx = BitVec.ofNat 8 d
            ∧ t.fab = { s.fab with
                members := t.fab.members, epoch := epoch, pmap := (List.range 64).map (· % 8), pgen := 0, live := 0xFF,
                dead := 0, rhb := false, rehash := none, rhacks := [], early := [] })
          ∧ (¬own → ∃ t : State, Completes (.memberReport c true d epoch) s c t 0 0 ∧ map t
            ∧ t = { s.taken c.fn with fab := { s.fab with members := t.fab.members } })
          ∧ ∀ t, exec (.memberDown d) (s.taken c.fn) = .next t → Completes (.memberReport c false d epoch) s c t 0 0)

/-- CHECKPOINT and RESTORE; the commands on the device as a whole. -/
def Obligations.HostCopiesAndDevice : Prop := Claims.HostCopies ∧ Claims.HostDevice

/-- R167: FCLASS writes, for each element, the mask that has the bit of the element's class, bit 16 e + n for class n of
element e, and zero elsewhere; it raises no flag, and its RM must be 0. -/
def Obligations.FloatClass : Prop :=
  (∀ f, (Instr.fclass f).wf = true → f.rm = 0)
  ∧ LaneOp .fclass (fun f => [f.vd.toNat]) (fun _ => []) (fun f h b => KeepsFlags h b ∧
    Writes32 h f.g f.vd.toNat (fun l =>
      let n := if f.ty.toNat = 8 then 32 else 16
      let m := if f.ty.toNat = 8 then 23 else if f.ty.toNat = 9 then 7 else 10
      let code : Nat → Nat := fun e => (h.band.v32 l f.va.toNat).toNat / 2 ^ (16 * e) % 2 ^ n
      let bit : Nat → Nat := fun c =>
        let man := c % 2 ^ m
        let exp := c / 2 ^ m % 2 ^ (n - 1 - m)
        let neg := c / 2 ^ (n - 1) = 1
        if exp = 2 ^ (n - 1 - m) - 1 then
          if man = 0 then (if neg then 0 else 7) else if man / 2 ^ (m - 1) = 0 then 8 else 9
        else if exp = 0 then
          if man = 0 then (if neg then 3 else 4) else (if neg then 2 else 5)
        else if neg then 1 else 6
      BitVec.ofNat 32 (2 ^ bit (code 0) + if f.ty.toNat = 8 then 0 else 2 ^ (16 + bit (code 1)))) b)

/-- R388: FLAGC clears the flags its mask names, whatever is outstanding, when its guard holds in Leader; its mask has
nine bits. -/
def Obligations.FlagsClear : Prop :=
  (∀ f, 2 ^ 9 ≤ f.imm.toNat → (Instr.flagc f).wf = false)
  ∧ ∀ s h f, Ready s h →
    (h.band.leads f.g = true → Runs (.flagc f) s h [] [] [] fun b => ∀ i, i < 9 →
      b.flags.getLsbD i = (h.band.flags.getLsbD i && !f.imm.getLsbD i))
    ∧ (h.band.leads f.g = false → Runs (.flagc f) s h [] [] [] (KeepsFlags h))

/-! ### Encodings, the step and the invariants -/

/-- R31, R37, R43: words that the spec writes out decode to the instructions they stand for, and illegal ones do not. -/
def Obligations.DecodeWords : Prop :=
  let always : Guard := ⟨0, false⟩
  decodeTableWord 64 0x0000000000000900 = some (.nop ⟨⟨9, false⟩, 0, 0, 0, 0⟩)
  ∧ decodeTableWord 64 0x0000000000010102 = some (.go ⟨⟨1, false⟩, 1, 0, 0, 0⟩)
  ∧ decodeTableWord 64 0x0009000000000603 = some (.goi ⟨⟨6, false⟩, 0, 0, 9, 0⟩)
  ∧ decodeTableWord 64 0x0000000000008206 = some (.ret ⟨⟨2, true⟩, 0, 0, 0, 0⟩)
  ∧ decodeTableWord 64 0x0000100040010075 = some (.sprd ⟨always, 1, 0, 1, 0, 1, 0, 0, 0⟩)
  ∧ decodeTableWord 64 0x00240000020A0051 = some (.scan ⟨always, 10, 4, 0, 0, 0, 16, 2, 0⟩)
  ∧ decodeTableWord 64 0x000165000001006E = some (.smovi ⟨always, 1, 0, 0, 0, true, 0xB2⟩)
  ∧ decodeTableWord 64 0x0010C2DC400A0080 = some (.ld ⟨always, 10, 0, 1, 4, 3, 3, 1, 0, 6, 2⟩)
  ∧ decodeTableWord 64 0x0840625140060092 = some (.atoms ⟨always, 6, 0, 1, 1, 2, 1, 1, 0, 3, 8, 4⟩)
  ∧ decodeTableWord 64 0x0000000C00000086 = some (.fence ⟨always, 0, 0, 3, 0⟩)
  ∧ decodeTableWord 64 0x00011810810000A0 = some (.cpyMrow ⟨always, 0, 4, 8, false, 6, 1⟩)
  ∧ decodeTableWord 64 0x00007086000100A3 = some (.bwait ⟨always, 1, 6, 2, 7⟩)
  ∧ decodeTableWord 64 0x00000020620700B2 = some (.mma ⟨always, 7, 8, 6, 0, 1, 0, false, 0⟩)
  ∧ decodeTableWord 64 0x00060000628700C4 = some (.clvote ⟨always, 7, 10, 6, 0, 0, 0, false, 12⟩)
  ∧ decodeTableWord 64 0x00040000000101D0 = some (.spawn ⟨⟨1, false⟩, 1, 0, 4, 0⟩)
  ∧ decodeTableWord 64 0x00012300000000E1 = some (.trap ⟨always, 0, 0, 0, 0x123⟩)
  ∧ decodeTableWord 64 0x00400001420300F8 = some (.idot4 0x00400001420300F8)
  ∧ decodeTableWord 64 0x00000000000000FF = none
  ∧ decodeTableWord 64 0x8000000000000900 = none
  ∧ decodeTableWord 64 0x0200000000000086 = none
  ∧ decodeFor 8 0x00240000020A0051 = .illenc 0x00240000020A0051

/-- R30, R31, R37, R43: an instruction that has a word, and whose fields and registers are legal, is what its word
decodes to; no word decodes to an instruction of another word or with an illegal field, so no two instructions share a
word. -/
def Obligations.WordsRoundTrip : Prop :=
  (∀ i n, isEvent i = false → i ≠ .skip → (∀ w, i ≠ .illenc w) → i.wf = true → i.regsOk n = true →
    decodeFor n (encode i) = i ∧ decodeTableWord 64 (encode i).toNat = some i)
  ∧ (∀ w i, decode w = .ok i → encode i = w ∧ i.wf = true ∧ isEvent i = false)
  ∧ (∀ n w, (∃ i, decodeFor n w = i ∧ decode w = .ok i ∧ i.regsOk n = true) ∨ decodeFor n w = .illenc w)

/-- 04_sweep.md R88, 13_tasks.md R316, 15_traps.md R348, assumption log entry 1: a step whose move is the issue of a band that a
pipe selects runs the word at its P, decoded for its registers, when nothing of it is due or outstanding; in deterministic mode
the turn then passes. A band that is not selected does not issue. -/
def Obligations.StepRunsDecoded : Prop :=
  (∀ (s s0 : State) c k rest h w s1, Selected s s0 c k rest h → h.band.park = none → h.band.running ≠ 0
    → h.band.p.toNat < h.codeSize → s0.fetchWord h h.band.p.toNat = .ok s1 (w, false)
    → h.band.log = [] → h.band.hwerr = [] → h.band.wdog = false
    → let i := decodeFor h.crew.regs w
      (useOf i).meets (s1.unitDest h (useOf i).all) = false → ∀ t, exec i s1 = .next t →
      let passed := t.modCrew c h.band.crew fun w => { w with rot := w.nextSlot k }
      (h.ctx.detm = false → step s = .next t.turns)
      ∧ (h.ctx.detm = true →
          ((∀ b, t.band? c k = some b → b.icnt = h.band.icnt) → step s = .next t.turns)
          ∧ ∀ b, t.band? c k = some b → b.icnt ≠ h.band.icnt → step s = .next passed.turns))
  ∧ ∀ (s : State) c k rest g, s.agenda = .issue c k :: rest →
      let u : State := { s with agenda := rest, cur := some (c, k) }
      u.hereAt c k = some g →
      (g.crew.issues = false → step s = .next { s with agenda := rest }.turns)
      ∧ (g.crew.issues = true → g.ctx.detm = false → (g.band.waitTo ≠ none ∨ u.selects g = false) →
          step s = .next { s with agenda := rest }.turns)
      ∧ (g.crew.issues = true → g.ctx.detm = true → u.turn c g.crew ≠ some k → step s = .next (u.outOfTurn g).turns)
      ∧ (g.crew.issues = true → g.ctx.detm = true → u.turn c g.crew = some k → g.band.yld = true →
          step s = .next ((State.modCrew { s with agenda := rest } c g.band.crew fun w => { w with rot := w.nextSlot k }).setBand
            c k { g.band with yld := false }).turns)

/-- The model's own invariant (08_memory.md, assumption log entries 3 and 8): whatever a step does, every memory keeps its
canonical form, so that equal memories are equal data, and every cached line its 128 bytes. -/
def Obligations.StepKeepsMemoryForm : Prop := ∀ s t, s.wf = true → step s = .next t → t.wf = true

/-- 12_clause.md R275, R276, 13_tasks.md R311, R313: whatever a step does, the tables of every clause array stay within the
array, and every crew stays the member of its gang that it says it is, on its own core. -/
def Obligations.StepKeepsStructure : Prop :=
  (∀ s t, s.arraysTidy = true → step s = .next t → t.arraysTidy = true)
  ∧ ∀ s t, s.gangsKnown = true → step s = .next t → t.gangsKnown = true

/-- 20_host.md R404, 14_fabric.md R328 to R330, R339, 13_tasks.md R310 and the invariants: what reset leaves. -/
def Obligations.ResetState : Prop :=
  let s := State.reset
  s.wf = true ∧ s.arraysTidy = true ∧ s.gangsKnown = true
  ∧ (∀ n, s.fnAt n = ⟨0, 0, false, 0, 0, 0, 0, false, 0, 0, false, false⟩) ∧ s.fw.ready = false
  ∧ (∀ e, e < 64 → s.fab.pmap.getD e 9 = e % 8) ∧ s.fab.live = 0xFF ∧ s.fab.dead = 0 ∧ s.fab.pgen = 0 ∧ s.fab.rhb = false
  ∧ s.fab.ftmo.toNat = 5400000 ∧ s.fab.rhtmo.toNat = 27000000 ∧ (∀ n, s.fab.inwin.get 0 n = 0)
  ∧ (∀ x, s.ctx? x = none) ∧ (∀ c, (s.coreAt c).crews = [] ∧ (s.coreAt c).bands = [] ∧ (s.coreAt c).carve = 256)
  ∧ ∀ q n, (s.queueAt q n) = ⟨none, []⟩ ∧ (s.clusterAt q).clause.owner = none

/-- 15_traps.md R354, R387: no word, whatever its operands, its mode and the state, changes anything of
a context other than its band's own; and unless SYS is set it changes nothing of its own but the error log and CERR. So
no instruction of a user program reaches a privileged register. -/
def Obligations.WordsKeepContexts : Prop :=
  ∀ i s h t, isEvent i = false → s.here? = some h → exec i s = .next t →
    (∀ y, y ≠ h.ctxId → t.ctx? y = s.ctx? y)
    ∧ (h.ctx.sys = false → ∃ v, t.ctx? h.ctxId = some v ∧ v = { h.ctx with cerr := v.cerr, log := v.log })
end

