-- ==== Sys2Proof/Laws/Codec.lean ====
section
/-! SUPPORT. The ten layouts of 02_formats.md R31 lose no field: reading what a packer wrote gives the fields back, and the
opcode. -/

set_option linter.unusedSimpArgs false

namespace Sys2Proof

theorem toNat_app {m k : Nat} (a : BitVec m) (b : BitVec k) : (a ++ b).toNat = a.toNat * 2 ^ k + b.toNat := by
  rw [BitVec.toNat_append, Nat.shiftLeft_eq, Nat.mul_comm, Nat.two_pow_add_eq_or_of_lt b.isLt]

theorem bitsOf_eq {n : Nat} (w : DWord) (s : Nat) (x : BitVec n) (h : w.toNat / 2 ^ s % 2 ^ n = x.toNat) :
    bitsOf w s n = x := by
  apply BitVec.eq_of_toNat_eq
  simp only [bitsOf, BitVec.extractLsb'_toNat, Nat.shiftRight_eq_div_pow, h]

theorem bit_eq (w : DWord) (s : Nat) (b : Bool) (h : w.toNat / 2 ^ s % 2 = b.toNat) : w.getLsbD s = b := by
  rw [BitVec.getLsbD, Nat.testBit_eq_decide_div_mod_eq, h]
  cases b <;> rfl

theorem toNat_packLow (g : Guard) (opc : BitVec 8) :
    (packLow g opc).toNat = g.gn.toNat * 2 ^ 15 + g.pg.toNat * 2 ^ 8 + opc.toNat := by
  change @BitVec.toNat (1 + 7 + 8) (BitVec.ofBool g.gn ++ g.pg ++ opc) = _
  simp only [toNat_app, BitVec.toNat_ofBool]
  omega

theorem Guard.ext' {a b : Guard} (h : a.pg = b.pg) (h' : a.gn = b.gn) : a = b := by
  cases a
  cases b
  simp_all

/-! ### F-V -/

theorem toNat_packFV (opc : BitVec 8) (f : FV) : (packFV opc f).toNat =
    (((((((f.rm.toNat * 2 ^ 4 + f.ty.toNat) * 2 ^ 6 + f.sub.toNat) * 2 ^ 2 + f.bk.toNat) * 2 ^ 7 + f.vc.toNat) * 2 ^ 7 + f.vb.toNat) * 2 ^ 7 + f.va.toNat) * 2 ^ 7 + f.vd.toNat) * 2 ^ 16 + (f.g.gn.toNat * 2 ^ 15 + f.g.pg.toNat * 2 ^ 8 + opc.toNat) := by
  unfold packFV
  change @BitVec.toNat (4 + 4 + 4 + 6 + 2 + 7 + 7 + 7 + 7 + 16)
    ((0#4) ++ f.rm ++ f.ty ++ f.sub ++ f.bk ++ f.vc ++ f.vb ++ f.va ++ f.vd ++ packLow f.g opc) = _
  simp only [toNat_app, toNat_packLow, BitVec.toNat_ofNat, BitVec.toNat_ofBool, Nat.zero_mod, Nat.zero_mul, Nat.zero_add]

theorem opc_packFV (opc : BitVec 8) (f : FV) : bitsOf (packFV opc f) 0 8 = opc := by
  have h := toNat_packFV opc f
  have := opc.isLt
  exact bitsOf_eq _ _ _ (by rw [h]; omega)

theorem parse_packFV (opc : BitVec 8) (f : FV) : parseFV (packFV opc f) = f := by
  have h := toNat_packFV opc f
  have := f.rm.isLt; have := f.ty.isLt; have := f.sub.isLt; have := f.bk.isLt
  have := f.vc.isLt; have := f.vb.isLt; have := f.va.isLt; have := f.vd.isLt
  have := f.g.pg.isLt; have := f.g.gn.toNat_lt; have := opc.isLt
  have hg : parseGuard (packFV opc f) = f.g :=
    Guard.ext' (bitsOf_eq _ _ _ (by rw [h]; omega)) (bit_eq _ _ _ (by rw [h]; omega))
  have h_vd : bitsOf (packFV opc f) 16 7 = f.vd := bitsOf_eq _ _ _ (by rw [h]; omega)
  have h_va : bitsOf (packFV opc f) 23 7 = f.va := bitsOf_eq _ _ _ (by rw [h]; omega)
  have h_vb : bitsOf (packFV opc f) 30 7 = f.vb := bitsOf_eq _ _ _ (by rw [h]; omega)
  have h_vc : bitsOf (packFV opc f) 37 7 = f.vc := bitsOf_eq _ _ _ (by rw [h]; omega)
  have h_bk : bitsOf (packFV opc f) 44 2 = f.bk := bitsOf_eq _ _ _ (by rw [h]; omega)
  have h_sub : bitsOf (packFV opc f) 46 6 = f.sub := bitsOf_eq _ _ _ (by rw [h]; omega)
  have h_ty : bitsOf (packFV opc f) 52 4 = f.ty := bitsOf_eq _ _ _ (by rw [h]; omega)
  have h_rm : bitsOf (packFV opc f) 56 4 = f.rm := bitsOf_eq _ _ _ (by rw [h]; omega)
  simp only [parseFV, hg, h_vd, h_va, h_vb, h_vc, h_bk, h_sub, h_ty, h_rm]

/-! ### F-I -/

theorem toNat_packFI (opc : BitVec 8) (f : FI) : (packFI opc f).toNat =
    (((f.imm.toNat * 2 ^ 2 + f.ty2.toNat) * 2 ^ 7 + f.va.toNat) * 2 ^ 7 + f.vd.toNat) * 2 ^ 16 + (f.g.gn.toNat * 2 ^ 15 + f.g.pg.toNat * 2 ^ 8 + opc.toNat) := by
  unfold packFI
  change @BitVec.toNat (32 + 2 + 7 + 7 + 16)
    (f.imm ++ f.ty2 ++ f.va ++ f.vd ++ packLow f.g opc) = _
  simp only [toNat_app, toNat_packLow, BitVec.toNat_ofNat, BitVec.toNat_ofBool, Nat.zero_mod, Nat.zero_mul, Nat.zero_add]

theorem opc_packFI (opc : BitVec 8) (f : FI) : bitsOf (packFI opc f) 0 8 = opc := by
  have h := toNat_packFI opc f
  have := opc.isLt
  exact bitsOf_eq _ _ _ (by rw [h]; omega)

theorem parse_packFI (opc : BitVec 8) (f : FI) : parseFI (packFI opc f) = f := by
  have h := toNat_packFI opc f
  have := f.imm.isLt; have := f.ty2.isLt; have := f.va.isLt; have := f.vd.isLt
  have := f.g.pg.isLt; have := f.g.gn.toNat_lt; have := opc.isLt
  have hg : parseGuard (packFI opc f) = f.g :=
    Guard.ext' (bitsOf_eq _ _ _ (by rw [h]; omega)) (bit_eq _ _ _ (by rw [h]; omega))
  have h_vd : bitsOf (packFI opc f) 16 7 = f.vd := bitsOf_eq _ _ _ (by rw [h]; omega)
  have h_va : bitsOf (packFI opc f) 23 7 = f.va := bitsOf_eq _ _ _ (by rw [h]; omega)
  have h_ty2 : bitsOf (packFI opc f) 30 2 = f.ty2 := bitsOf_eq _ _ _ (by rw [h]; omega)
  have h_imm : bitsOf (packFI opc f) 32 32 = f.imm := bitsOf_eq _ _ _ (by rw [h]; omega)
  simp only [parseFI, hg, h_vd, h_va, h_ty2, h_imm]

/-! ### F-S -/

theorem toNat_packFS (opc : BitVec 8) (f : FS) : (packFS opc f).toNat =
    (((((f.imm.toNat * 2 ^ 1 + f.im.toNat) * 2 ^ 6 + f.sub.toNat) * 2 ^ 6 + f.sb.toNat) * 2 ^ 6 + f.sa.toNat) * 2 ^ 6 + f.sd.toNat) * 2 ^ 16 + (f.g.gn.toNat * 2 ^ 15 + f.g.pg.toNat * 2 ^ 8 + opc.toNat) := by
  unfold packFS
  change @BitVec.toNat (23 + 1 + 6 + 6 + 6 + 6 + 16)
    (f.imm ++ BitVec.ofBool f.im ++ f.sub ++ f.sb ++ f.sa ++ f.sd ++ packLow f.g opc) = _
  simp only [toNat_app, toNat_packLow, BitVec.toNat_ofNat, BitVec.toNat_ofBool, Nat.zero_mod, Nat.zero_mul, Nat.zero_add]

theorem opc_packFS (opc : BitVec 8) (f : FS) : bitsOf (packFS opc f) 0 8 = opc := by
  have h := toNat_packFS opc f
  have := opc.isLt
  exact bitsOf_eq _ _ _ (by rw [h]; omega)

theorem parse_packFS (opc : BitVec 8) (f : FS) : parseFS (packFS opc f) = f := by
  have h := toNat_packFS opc f
  have := f.imm.isLt; have := f.im.toNat_lt; have := f.sub.isLt; have := f.sb.isLt
  have := f.sa.isLt; have := f.sd.isLt; have := f.g.pg.isLt; have := f.g.gn.toNat_lt
  have := opc.isLt
  have hg : parseGuard (packFS opc f) = f.g :=
    Guard.ext' (bitsOf_eq _ _ _ (by rw [h]; omega)) (bit_eq _ _ _ (by rw [h]; omega))
  have h_sd : bitsOf (packFS opc f) 16 6 = f.sd := bitsOf_eq _ _ _ (by rw [h]; omega)
  have h_sa : bitsOf (packFS opc f) 22 6 = f.sa := bitsOf_eq _ _ _ (by rw [h]; omega)
  have h_sb : bitsOf (packFS opc f) 28 6 = f.sb := bitsOf_eq _ _ _ (by rw [h]; omega)
  have h_sub : bitsOf (packFS opc f) 34 6 = f.sub := bitsOf_eq _ _ _ (by rw [h]; omega)
  have h_im : (packFS opc f).getLsbD 40 = f.im := bit_eq _ _ _ (by rw [h]; omega)
  have h_imm : bitsOf (packFS opc f) 41 23 = f.imm := bitsOf_eq _ _ _ (by rw [h]; omega)
  simp only [parseFS, hg, h_sd, h_sa, h_sb, h_sub, h_im, h_imm]

/-! ### F-M -/

theorem toNat_packFM (opc : BitVec 8) (f : FM) : (packFM opc f).toNat =
    (((((((((f.off.toNat * 2 ^ 6 + f.sb.toNat) * 2 ^ 2 + f.cp.toNat) * 2 ^ 2 + f.ord.toNat) * 2 ^ 3 + f.sc.toNat) * 2 ^ 3 + f.w.toNat) * 2 ^ 3 + f.sp.toNat) * 2 ^ 2 + f.am.toNat) * 2 ^ 7 + f.va.toNat) * 2 ^ 7 + f.vt.toNat) * 2 ^ 16 + (f.g.gn.toNat * 2 ^ 15 + f.g.pg.toNat * 2 ^ 8 + opc.toNat) := by
  unfold packFM
  change @BitVec.toNat (13 + 6 + 2 + 2 + 3 + 3 + 3 + 2 + 7 + 7 + 16)
    (f.off ++ f.sb ++ f.cp ++ f.ord ++ f.sc ++ f.w ++ f.sp ++ f.am ++ f.va ++ f.vt ++ packLow f.g opc) = _
  simp only [toNat_app, toNat_packLow, BitVec.toNat_ofNat, BitVec.toNat_ofBool, Nat.zero_mod, Nat.zero_mul, Nat.zero_add]

theorem opc_packFM (opc : BitVec 8) (f : FM) : bitsOf (packFM opc f) 0 8 = opc := by
  have h := toNat_packFM opc f
  have := opc.isLt
  exact bitsOf_eq _ _ _ (by rw [h]; omega)

theorem parse_packFM (opc : BitVec 8) (f : FM) : parseFM (packFM opc f) = f := by
  have h := toNat_packFM opc f
  have := f.off.isLt; have := f.sb.isLt; have := f.cp.isLt; have := f.ord.isLt
  have := f.sc.isLt; have := f.w.isLt; have := f.sp.isLt; have := f.am.isLt
  have := f.va.isLt; have := f.vt.isLt; have := f.g.pg.isLt; have := f.g.gn.toNat_lt
  have := opc.isLt
  have hg : parseGuard (packFM opc f) = f.g :=
    Guard.ext' (bitsOf_eq _ _ _ (by rw [h]; omega)) (bit_eq _ _ _ (by rw [h]; omega))
  have h_vt : bitsOf (packFM opc f) 16 7 = f.vt := bitsOf_eq _ _ _ (by rw [h]; omega)
  have h_va : bitsOf (packFM opc f) 23 7 = f.va := bitsOf_eq _ _ _ (by rw [h]; omega)
  have h_am : bitsOf (packFM opc f) 30 2 = f.am := bitsOf_eq _ _ _ (by rw [h]; omega)
  have h_sp : bitsOf (packFM opc f) 32 3 = f.sp := bitsOf_eq _ _ _ (by rw [h]; omega)
  have h_w : bitsOf (packFM opc f) 35 3 = f.w := bitsOf_eq _ _ _ (by rw [h]; omega)
  have h_sc : bitsOf (packFM opc f) 38 3 = f.sc := bitsOf_eq _ _ _ (by rw [h]; omega)
  have h_ord : bitsOf (packFM opc f) 41 2 = f.ord := bitsOf_eq _ _ _ (by rw [h]; omega)
  have h_cp : bitsOf (packFM opc f) 43 2 = f.cp := bitsOf_eq _ _ _ (by rw [h]; omega)
  have h_sb : bitsOf (packFM opc f) 45 6 = f.sb := bitsOf_eq _ _ _ (by rw [h]; omega)
  have h_off : bitsOf (packFM opc f) 51 13 = f.off := bitsOf_eq _ _ _ (by rw [h]; omega)
  simp only [parseFM, hg, h_vt, h_va, h_am, h_sp, h_w, h_sc, h_ord, h_cp, h_sb, h_off]

/-! ### F-A -/

theorem toNat_packFA (opc : BitVec 8) (f : FA) : (packFA opc f).toNat =
    ((((((((((f.vx.toNat * 2 ^ 6 + f.aop.toNat) * 2 ^ 6 + f.sb.toNat) * 2 ^ 2 + f.cp.toNat) * 2 ^ 2 + f.ord.toNat) * 2 ^ 3 + f.sc.toNat) * 2 ^ 3 + f.w.toNat) * 2 ^ 3 + f.sp.toNat) * 2 ^ 2 + f.am.toNat) * 2 ^ 7 + f.va.toNat) * 2 ^ 7 + f.vt.toNat) * 2 ^ 16 + (f.g.gn.toNat * 2 ^ 15 + f.g.pg.toNat * 2 ^ 8 + opc.toNat) := by
  unfold packFA
  change @BitVec.toNat (7 + 6 + 6 + 2 + 2 + 3 + 3 + 3 + 2 + 7 + 7 + 16)
    (f.vx ++ f.aop ++ f.sb ++ f.cp ++ f.ord ++ f.sc ++ f.w ++ f.sp ++ f.am ++ f.va ++ f.vt ++ packLow f.g opc) = _
  simp only [toNat_app, toNat_packLow, BitVec.toNat_ofNat, BitVec.toNat_ofBool, Nat.zero_mod, Nat.zero_mul, Nat.zero_add]

theorem opc_packFA (opc : BitVec 8) (f : FA) : bitsOf (packFA opc f) 0 8 = opc := by
  have h := toNat_packFA opc f
  have := opc.isLt
  exact bitsOf_eq _ _ _ (by rw [h]; omega)

theorem parse_packFA (opc : BitVec 8) (f : FA) : parseFA (packFA opc f) = f := by
  have h := toNat_packFA opc f
  have := f.vx.isLt; have := f.aop.isLt; have := f.sb.isLt; have := f.cp.isLt
  have := f.ord.isLt; have := f.sc.isLt; have := f.w.isLt; have := f.sp.isLt
  have := f.am.isLt; have := f.va.isLt; have := f.vt.isLt; have := f.g.pg.isLt
  have := f.g.gn.toNat_lt; have := opc.isLt
  have hg : parseGuard (packFA opc f) = f.g :=
    Guard.ext' (bitsOf_eq _ _ _ (by rw [h]; omega)) (bit_eq _ _ _ (by rw [h]; omega))
  have h_vt : bitsOf (packFA opc f) 16 7 = f.vt := bitsOf_eq _ _ _ (by rw [h]; omega)
  have h_va : bitsOf (packFA opc f) 23 7 = f.va := bitsOf_eq _ _ _ (by rw [h]; omega)
  have h_am : bitsOf (packFA opc f) 30 2 = f.am := bitsOf_eq _ _ _ (by rw [h]; omega)
  have h_sp : bitsOf (packFA opc f) 32 3 = f.sp := bitsOf_eq _ _ _ (by rw [h]; omega)
  have h_w : bitsOf (packFA opc f) 35 3 = f.w := bitsOf_eq _ _ _ (by rw [h]; omega)
  have h_sc : bitsOf (packFA opc f) 38 3 = f.sc := bitsOf_eq _ _ _ (by rw [h]; omega)
  have h_ord : bitsOf (packFA opc f) 41 2 = f.ord := bitsOf_eq _ _ _ (by rw [h]; omega)
  have h_cp : bitsOf (packFA opc f) 43 2 = f.cp := bitsOf_eq _ _ _ (by rw [h]; omega)
  have h_sb : bitsOf (packFA opc f) 45 6 = f.sb := bitsOf_eq _ _ _ (by rw [h]; omega)
  have h_aop : bitsOf (packFA opc f) 51 6 = f.aop := bitsOf_eq _ _ _ (by rw [h]; omega)
  have h_vx : bitsOf (packFA opc f) 57 7 = f.vx := bitsOf_eq _ _ _ (by rw [h]; omega)
  simp only [parseFA, hg, h_vt, h_va, h_am, h_sp, h_w, h_sc, h_ord, h_cp, h_sb, h_aop, h_vx]

/-! ### F-C -/

theorem toNat_packFC (opc : BitVec 8) (f : FC) : (packFC opc f).toNat =
    (((f.attr.toNat * 2 ^ 7 + f.va.toNat) * 2 ^ 16 + f.lid2.toNat) * 2 ^ 16 + f.lid.toNat) * 2 ^ 16 + (f.g.gn.toNat * 2 ^ 15 + f.g.pg.toNat * 2 ^ 8 + opc.toNat) := by
  unfold packFC
  change @BitVec.toNat (7 + 2 + 7 + 16 + 16 + 16)
    ((0#7) ++ f.attr ++ f.va ++ f.lid2 ++ f.lid ++ packLow f.g opc) = _
  simp only [toNat_app, toNat_packLow, BitVec.toNat_ofNat, BitVec.toNat_ofBool, Nat.zero_mod, Nat.zero_mul, Nat.zero_add]

theorem opc_packFC (opc : BitVec 8) (f : FC) : bitsOf (packFC opc f) 0 8 = opc := by
  have h := toNat_packFC opc f
  have := opc.isLt
  exact bitsOf_eq _ _ _ (by rw [h]; omega)

theorem parse_packFC (opc : BitVec 8) (f : FC) : parseFC (packFC opc f) = f := by
  have h := toNat_packFC opc f
  have := f.attr.isLt; have := f.va.isLt; have := f.lid2.isLt; have := f.lid.isLt
  have := f.g.pg.isLt; have := f.g.gn.toNat_lt; have := opc.isLt
  have hg : parseGuard (packFC opc f) = f.g :=
    Guard.ext' (bitsOf_eq _ _ _ (by rw [h]; omega)) (bit_eq _ _ _ (by rw [h]; omega))
  have h_lid : bitsOf (packFC opc f) 16 16 = f.lid := bitsOf_eq _ _ _ (by rw [h]; omega)
  have h_lid2 : bitsOf (packFC opc f) 32 16 = f.lid2 := bitsOf_eq _ _ _ (by rw [h]; omega)
  have h_va : bitsOf (packFC opc f) 48 7 = f.va := bitsOf_eq _ _ _ (by rw [h]; omega)
  have h_attr : bitsOf (packFC opc f) 55 2 = f.attr := bitsOf_eq _ _ _ (by rw [h]; omega)
  simp only [parseFC, hg, h_lid, h_lid2, h_va, h_attr]

/-! ### F-B -/

theorem toNat_packFB (opc : BitVec 8) (f : FB) : (packFB opc f).toNat =
    (((f.pd.toNat * 2 ^ 6 + f.sa.toNat) * 2 ^ 6 + f.so.toNat) * 2 ^ 16 + f.lid.toNat) * 2 ^ 16 + (f.g.gn.toNat * 2 ^ 15 + f.g.pg.toNat * 2 ^ 8 + opc.toNat) := by
  unfold packFB
  change @BitVec.toNat (13 + 7 + 6 + 6 + 16 + 16)
    ((0#13) ++ f.pd ++ f.sa ++ f.so ++ f.lid ++ packLow f.g opc) = _
  simp only [toNat_app, toNat_packLow, BitVec.toNat_ofNat, BitVec.toNat_ofBool, Nat.zero_mod, Nat.zero_mul, Nat.zero_add]

theorem opc_packFB (opc : BitVec 8) (f : FB) : bitsOf (packFB opc f) 0 8 = opc := by
  have h := toNat_packFB opc f
  have := opc.isLt
  exact bitsOf_eq _ _ _ (by rw [h]; omega)

theorem parse_packFB (opc : BitVec 8) (f : FB) : parseFB (packFB opc f) = f := by
  have h := toNat_packFB opc f
  have := f.pd.isLt; have := f.sa.isLt; have := f.so.isLt; have := f.lid.isLt
  have := f.g.pg.isLt; have := f.g.gn.toNat_lt; have := opc.isLt
  have hg : parseGuard (packFB opc f) = f.g :=
    Guard.ext' (bitsOf_eq _ _ _ (by rw [h]; omega)) (bit_eq _ _ _ (by rw [h]; omega))
  have h_lid : bitsOf (packFB opc f) 16 16 = f.lid := bitsOf_eq _ _ _ (by rw [h]; omega)
  have h_so : bitsOf (packFB opc f) 32 6 = f.so := bitsOf_eq _ _ _ (by rw [h]; omega)
  have h_sa : bitsOf (packFB opc f) 38 6 = f.sa := bitsOf_eq _ _ _ (by rw [h]; omega)
  have h_pd : bitsOf (packFB opc f) 44 7 = f.pd := bitsOf_eq _ _ _ (by rw [h]; omega)
  simp only [parseFB, hg, h_lid, h_so, h_sa, h_pd]

/-! ### F-E -/

theorem toNat_packFE (opc : BitVec 8) (fn : BitVec 7) (f : FE) : (packFE opc fn f).toNat =
    ((((((f.sc.toNat * 2 ^ 6 + f.so.toNat) * 2 ^ 1 + f.rp.toNat) * 2 ^ 7 + fn.toNat) * 2 ^ 6 + f.sb.toNat) * 2 ^ 6 + f.sa.toNat) * 2 ^ 6 + f.sd.toNat) * 2 ^ 16 + (f.g.gn.toNat * 2 ^ 15 + f.g.pg.toNat * 2 ^ 8 + opc.toNat) := by
  unfold packFE
  change @BitVec.toNat (13 + 3 + 6 + 1 + 7 + 6 + 6 + 6 + 16)
    ((0#13) ++ f.sc ++ f.so ++ BitVec.ofBool f.rp ++ fn ++ f.sb ++ f.sa ++ f.sd ++ packLow f.g opc) = _
  simp only [toNat_app, toNat_packLow, BitVec.toNat_ofNat, BitVec.toNat_ofBool, Nat.zero_mod, Nat.zero_mul, Nat.zero_add]

theorem opc_packFE (opc : BitVec 8) (fn : BitVec 7) (f : FE) : bitsOf (packFE opc fn f) 0 8 = opc := by
  have h := toNat_packFE opc fn f
  have := opc.isLt
  exact bitsOf_eq _ _ _ (by rw [h]; omega)

theorem parse_packFE (opc : BitVec 8) (fn : BitVec 7) (f : FE) : parseFE (packFE opc fn f) = f := by
  have h := toNat_packFE opc fn f
  have := f.sc.isLt; have := f.so.isLt; have := f.rp.toNat_lt; have := fn.isLt
  have := f.sb.isLt; have := f.sa.isLt; have := f.sd.isLt; have := f.g.pg.isLt
  have := f.g.gn.toNat_lt; have := opc.isLt
  have hg : parseGuard (packFE opc fn f) = f.g :=
    Guard.ext' (bitsOf_eq _ _ _ (by rw [h]; omega)) (bit_eq _ _ _ (by rw [h]; omega))
  have h_sd : bitsOf (packFE opc fn f) 16 6 = f.sd := bitsOf_eq _ _ _ (by rw [h]; omega)
  have h_sa : bitsOf (packFE opc fn f) 22 6 = f.sa := bitsOf_eq _ _ _ (by rw [h]; omega)
  have h_sb : bitsOf (packFE opc fn f) 28 6 = f.sb := bitsOf_eq _ _ _ (by rw [h]; omega)
  have h_rp : (packFE opc fn f).getLsbD 41 = f.rp := bit_eq _ _ _ (by rw [h]; omega)
  have h_so : bitsOf (packFE opc fn f) 42 6 = f.so := bitsOf_eq _ _ _ (by rw [h]; omega)
  have h_sc : bitsOf (packFE opc fn f) 48 3 = f.sc := bitsOf_eq _ _ _ (by rw [h]; omega)
  simp only [parseFE, hg, h_sd, h_sa, h_sb, h_rp, h_so, h_sc]

theorem fn_packFE (opc : BitVec 8) (fn : BitVec 7) (f : FE) : bitsOf (packFE opc fn f) 34 7 = fn := by
  have h := toNat_packFE opc fn f
  have := f.sc.isLt; have := f.so.isLt; have := f.rp.toNat_lt; have := fn.isLt
  have := f.sb.isLt; have := f.sa.isLt; have := f.sd.isLt; have := f.g.pg.isLt
  have := f.g.gn.toNat_lt; have := opc.isLt
  exact bitsOf_eq _ _ _ (by rw [h]; omega)

/-! ### F-X -/

theorem toNat_packFX (opc : BitVec 8) (f : FX) : (packFX opc f).toNat =
    (((((((f.imm.toNat * 2 ^ 1 + f.bnk.toNat) * 2 ^ 6 + f.sub.toNat) * 2 ^ 3 + f.fsb.toNat) * 2 ^ 3 + f.fsa.toNat) * 2 ^ 6 + f.so.toNat) * 2 ^ 6 + f.sb.toNat) * 2 ^ 6 + f.sa.toNat) * 2 ^ 16 + (f.g.gn.toNat * 2 ^ 15 + f.g.pg.toNat * 2 ^ 8 + opc.toNat) := by
  unfold packFX
  change @BitVec.toNat (17 + 1 + 6 + 3 + 3 + 6 + 6 + 6 + 16)
    (f.imm ++ BitVec.ofBool f.bnk ++ f.sub ++ f.fsb ++ f.fsa ++ f.so ++ f.sb ++ f.sa ++ packLow f.g opc) = _
  simp only [toNat_app, toNat_packLow, BitVec.toNat_ofNat, BitVec.toNat_ofBool, Nat.zero_mod, Nat.zero_mul, Nat.zero_add]

theorem opc_packFX (opc : BitVec 8) (f : FX) : bitsOf (packFX opc f) 0 8 = opc := by
  have h := toNat_packFX opc f
  have := opc.isLt
  exact bitsOf_eq _ _ _ (by rw [h]; omega)

theorem parse_packFX (opc : BitVec 8) (f : FX) : parseFX (packFX opc f) = f := by
  have h := toNat_packFX opc f
  have := f.imm.isLt; have := f.bnk.toNat_lt; have := f.sub.isLt; have := f.fsb.isLt
  have := f.fsa.isLt; have := f.so.isLt; have := f.sb.isLt; have := f.sa.isLt
  have := f.g.pg.isLt; have := f.g.gn.toNat_lt; have := opc.isLt
  have hg : parseGuard (packFX opc f) = f.g :=
    Guard.ext' (bitsOf_eq _ _ _ (by rw [h]; omega)) (bit_eq _ _ _ (by rw [h]; omega))
  have h_sa : bitsOf (packFX opc f) 16 6 = f.sa := bitsOf_eq _ _ _ (by rw [h]; omega)
  have h_sb : bitsOf (packFX opc f) 22 6 = f.sb := bitsOf_eq _ _ _ (by rw [h]; omega)
  have h_so : bitsOf (packFX opc f) 28 6 = f.so := bitsOf_eq _ _ _ (by rw [h]; omega)
  have h_fsa : bitsOf (packFX opc f) 34 3 = f.fsa := bitsOf_eq _ _ _ (by rw [h]; omega)
  have h_fsb : bitsOf (packFX opc f) 37 3 = f.fsb := bitsOf_eq _ _ _ (by rw [h]; omega)
  have h_sub : bitsOf (packFX opc f) 40 6 = f.sub := bitsOf_eq _ _ _ (by rw [h]; omega)
  have h_bnk : (packFX opc f).getLsbD 46 = f.bnk := bit_eq _ _ _ (by rw [h]; omega)
  have h_imm : bitsOf (packFX opc f) 47 17 = f.imm := bitsOf_eq _ _ _ (by rw [h]; omega)
  simp only [parseFX, hg, h_sa, h_sb, h_so, h_fsa, h_fsb, h_sub, h_bnk, h_imm]

/-! ### F-Y -/

theorem toNat_packFY (opc : BitVec 8) (f : FY) : (packFY opc f).toNat =
    (((f.imm.toNat * 2 ^ 6 + f.sub.toNat) * 2 ^ 12 + f.sysreg.toNat) * 2 ^ 6 + f.sd.toNat) * 2 ^ 16 + (f.g.gn.toNat * 2 ^ 15 + f.g.pg.toNat * 2 ^ 8 + opc.toNat) := by
  unfold packFY
  change @BitVec.toNat (24 + 6 + 12 + 6 + 16)
    (f.imm ++ f.sub ++ f.sysreg ++ f.sd ++ packLow f.g opc) = _
  simp only [toNat_app, toNat_packLow, BitVec.toNat_ofNat, BitVec.toNat_ofBool, Nat.zero_mod, Nat.zero_mul, Nat.zero_add]

theorem opc_packFY (opc : BitVec 8) (f : FY) : bitsOf (packFY opc f) 0 8 = opc := by
  have h := toNat_packFY opc f
  have := opc.isLt
  exact bitsOf_eq _ _ _ (by rw [h]; omega)

theorem parse_packFY (opc : BitVec 8) (f : FY) : parseFY (packFY opc f) = f := by
  have h := toNat_packFY opc f
  have := f.imm.isLt; have := f.sub.isLt; have := f.sysreg.isLt; have := f.sd.isLt
  have := f.g.pg.isLt; have := f.g.gn.toNat_lt; have := opc.isLt
  have hg : parseGuard (packFY opc f) = f.g :=
    Guard.ext' (bitsOf_eq _ _ _ (by rw [h]; omega)) (bit_eq _ _ _ (by rw [h]; omega))
  have h_sd : bitsOf (packFY opc f) 16 6 = f.sd := bitsOf_eq _ _ _ (by rw [h]; omega)
  have h_sysreg : bitsOf (packFY opc f) 22 12 = f.sysreg := bitsOf_eq _ _ _ (by rw [h]; omega)
  have h_sub : bitsOf (packFY opc f) 34 6 = f.sub := bitsOf_eq _ _ _ (by rw [h]; omega)
  have h_imm : bitsOf (packFY opc f) 40 24 = f.imm := bitsOf_eq _ _ _ (by rw [h]; omega)
  simp only [parseFY, hg, h_sd, h_sysreg, h_sub, h_imm]

end Sys2Proof
end

