-- ==== Sys2Proof/Laws/Memory.lean ====
section
/-! SUPPORT. Memories: every operation keeps the canonical form, a read after a write gives what was written, a write
leaves every other byte, and equal memories are equal data. -/

namespace Sys2Proof.Machine

/-! ### The form -/

theorem Cells.wf_cons {a : Nat} {v : Byte} {t : Cells} :
    Cells.wf ((a, v) :: t) = true ↔ v ≠ 0 ∧ (∀ e ∈ t, a < e.1) ∧ Cells.wf t = true := by
  induction t generalizing a v with
  | nil => simp [Cells.wf]
  | cons e t ih =>
    obtain ⟨b, w⟩ := e
    have step : Cells.wf ((a, v) :: (b, w) :: t) = (v != 0 && decide (a < b) && Cells.wf ((b, w) :: t)) := rfl
    rw [step]
    constructor
    · intro h
      simp only [Bool.and_eq_true, bne_iff_ne, decide_eq_true_eq] at h
      obtain ⟨⟨h1, h2⟩, h3⟩ := h
      obtain ⟨_, h4, _⟩ := ih.1 h3
      refine ⟨h1, ?_, h3⟩
      intro e he
      rcases List.mem_cons.1 he with rfl | he
      · exact h2
      · exact Nat.lt_trans h2 (h4 e he)
    · intro h
      obtain ⟨h1, h2, h3⟩ := h
      simp only [Bool.and_eq_true, bne_iff_ne, decide_eq_true_eq]
      exact ⟨⟨h1, h2 (b, w) (List.mem_cons_self ..)⟩, h3⟩

theorem Cells.mem_drop {m : Cells} {k : Nat} {e : Host.Cell} (h : e ∈ m.drop k) : e ∈ m := by
  induction m with
  | nil => exact h
  | cons x t ih =>
    obtain ⟨j, w⟩ := x
    simp only [Cells.drop] at h
    split at h
    · exact List.mem_cons_of_mem _ (ih h)
    · rcases List.mem_cons.1 h with rfl | h
      · exact List.mem_cons_self ..
      · exact List.mem_cons_of_mem _ (ih h)

theorem Cells.drop_wf {m : Cells} (k : Nat) (h : m.wf = true) : (m.drop k).wf = true := by
  induction m with
  | nil => rfl
  | cons x t ih =>
    obtain ⟨j, w⟩ := x
    obtain ⟨h1, h2, h3⟩ := Cells.wf_cons.1 h
    simp only [Cells.drop]
    split
    · exact ih h3
    · exact Cells.wf_cons.2 ⟨h1, fun e he => h2 e (Cells.mem_drop he), ih h3⟩

theorem Cells.mem_put {m : Cells} {k : Nat} {v : Byte} {e : Host.Cell} (h : e ∈ m.put k v) : e.1 = k ∨ e ∈ m := by
  induction m with
  | nil => exact .inl (by simpa [Cells.put] using congrArg Prod.fst (List.mem_singleton.1 h))
  | cons x t ih =>
    obtain ⟨j, w⟩ := x
    simp only [Cells.put] at h
    split at h
    · rcases List.mem_cons.1 h with rfl | h
      · exact .inl rfl
      · exact .inr (List.mem_cons_of_mem _ h)
    · split at h
      · rcases List.mem_cons.1 h with rfl | h
        · exact .inl rfl
        · exact .inr h
      · rcases List.mem_cons.1 h with rfl | h
        · exact .inr (List.mem_cons_self ..)
        · exact (ih h).imp_right (List.mem_cons_of_mem _)

theorem Cells.put_wf {m : Cells} (k : Nat) {v : Byte} (hv : v ≠ 0) (h : m.wf = true) : (m.put k v).wf = true := by
  induction m with
  | nil => simpa [Cells.put, Cells.wf] using hv
  | cons x t ih =>
    obtain ⟨j, w⟩ := x
    obtain ⟨h1, h2, h3⟩ := Cells.wf_cons.1 h
    simp only [Cells.put]
    split
    · rename_i hj
      exact Cells.wf_cons.2 ⟨hv, fun e he => hj ▸ h2 e he, h3⟩
    · split
      · rename_i hlt
        refine Cells.wf_cons.2 ⟨hv, fun e he => ?_, h⟩
        rcases List.mem_cons.1 he with rfl | he
        · exact hlt
        · exact Nat.lt_trans hlt (h2 e he)
      · refine Cells.wf_cons.2 ⟨h1, fun e he => ?_, ih h3⟩
        rcases Cells.mem_put he with rfl | he
        · omega
        · exact h2 e he

theorem Cells.set_wf {m : Cells} (k : Nat) (v : Byte) (h : m.wf = true) : (m.set k v).wf = true := by
  unfold Cells.set
  split
  · exact Cells.drop_wf k h
  · exact Cells.put_wf k ‹_› h

theorem Cells.setMany_wf {m : Cells} (a : Nat) (d : List Byte) (h : m.wf = true) : (m.setMany a d).wf = true := by
  induction d generalizing m a with
  | nil => exact h
  | cons b t ih => exact ih (a + 1) (Cells.set_wf a b h)

theorem Memory.empty_wf : Memory.empty.wf = true := rfl

theorem Memory.write_wf {m : Memory} (u a : Nat) (d : List Byte) (h : m.wf = true) : (m.write u a d).wf = true :=
  Cells.setMany_wf a d h

theorem Memory.mark_wf {m : Memory} (u a : Nat) (h : m.wf = true) : (m.mark u a).wf = true := by
  unfold Memory.mark
  split <;> exact h

/-! ### Reading after writing -/

theorem Cells.at_drop (m : Cells) (k a : Nat) : (m.drop k).at a = if a = k then 0 else m.at a := by
  induction m with
  | nil => simp [Cells.drop, Cells.at]
  | cons x t ih =>
    obtain ⟨j, w⟩ := x
    by_cases hj : j = k
    · subst hj
      by_cases ha : a = j
      · subst ha
        simpa [Cells.drop] using ih
      · simp [Cells.drop, Cells.at, ih, ha, Ne.symm ha]
    · by_cases ha : j = a
      · subst ha
        simp [Cells.drop, Cells.at, hj]
      · simp [Cells.drop, Cells.at, hj, ha, ih]

theorem Cells.at_put (m : Cells) (k a : Nat) (v : Byte) : (m.put k v).at a = if a = k then v else m.at a := by
  induction m with
  | nil =>
    by_cases h : a = k
    · simp [Cells.put, Cells.at, h]
    · simp [Cells.put, Cells.at, h, Ne.symm h]
  | cons x t ih =>
    obtain ⟨j, w⟩ := x
    simp only [Cells.put]
    by_cases h : a = k
    · subst h
      by_cases hj : j = a
      · simp [hj, Cells.at]
      · by_cases hlt : a < j
        · simp [hj, hlt, Cells.at]
        · simp [hj, hlt, Cells.at, ih]
    · by_cases hj : j = k
      · subst hj
        simp [Cells.at, h, Ne.symm h]
      · by_cases hlt : k < j
        · simp [hj, hlt, Cells.at, h, Ne.symm h]
        · simp [hj, hlt, Cells.at, h, ih]

theorem Cells.at_set (m : Cells) (k a : Nat) (v : Byte) : (m.set k v).at a = if a = k then v else m.at a := by
  unfold Cells.set
  split
  · rename_i h
    rw [Cells.at_drop, h]
  · exact Cells.at_put m k a v

theorem Cells.at_setMany (m : Cells) (a : Nat) (d : List Byte) (x : Nat) :
    (m.setMany a d).at x = if a ≤ x ∧ x < a + d.length then d.getD (x - a) 0 else m.at x := by
  induction d generalizing m a with
  | nil =>
    have : ¬(a ≤ x ∧ x < a + ([] : List Byte).length) := by simp
    rw [if_neg this]
    rfl
  | cons b t ih =>
    show ((m.set a b).setMany (a + 1) t).at x = _
    rw [ih, Cells.at_set]
    simp only [List.length_cons]
    by_cases h1 : a + 1 ≤ x ∧ x < a + 1 + t.length
    · have h2 : a ≤ x ∧ x < a + (t.length + 1) := by omega
      have h3 : x - a = (x - (a + 1)) + 1 := by omega
      rw [if_pos h1, if_pos h2, h3, List.getD_cons_succ]
    · rw [if_neg h1]
      by_cases h4 : x = a
      · subst h4
        have h2 : x ≤ x ∧ x < x + (t.length + 1) := by omega
        rw [if_pos rfl, if_pos h2, Nat.sub_self, List.getD_cons_zero]
      · have h2 : ¬(a ≤ x ∧ x < a + (t.length + 1)) := by omega
        rw [if_neg h4, if_neg h2]

theorem Memory.at_write (u : Nat) (m : Memory) (a : Nat) (d : List Byte) (x : Nat) :
    (m.write u a d).at x = if a ≤ x ∧ x < a + d.length then d.getD (x - a) 0 else m.at x :=
  Cells.at_setMany m.cells a d x

@[simp] theorem Memory.at_mark (u : Nat) (m : Memory) (a x : Nat) : (m.mark u a).at x = m.at x := by
  unfold Memory.mark
  split <;> rfl

@[simp] theorem Memory.length_read (m : Memory) (a n : Nat) : (m.read a n).length = n := by simp [Memory.read]

theorem Memory.getD_read (m : Memory) (a n i : Nat) (h : i < n) : (m.read a n).getD i 0 = m.at (a + i) := by
  simp [Memory.read, Memory.at, List.getD, h]

/-- A read of what was written. -/
theorem Memory.read_write (u : Nat) (m : Memory) (a : Nat) (d : List Byte) : (m.write u a d).read a d.length = d := by
  refine List.ext_getElem (by simp) fun i h1 h2 => ?_
  have : (m.write u a d).at (a + i) = d[i] := by
    rw [Memory.at_write, if_pos (by omega), Nat.add_sub_cancel_left, List.getD, List.getElem?_eq_getElem h2]
    rfl
  simpa [Memory.read, Memory.at] using this

/-- A read of bytes that the write does not meet. -/
theorem Memory.read_write_apart (u : Nat) (m : Memory) (a : Nat) (d : List Byte) (b n : Nat)
    (h : b + n ≤ a ∨ a + d.length ≤ b) : (m.write u a d).read b n = m.read b n := by
  refine List.map_congr_left fun i hi => ?_
  have hi := List.mem_range.1 hi
  have := Memory.at_write u m a d (b + i)
  rw [if_neg (by omega)] at this
  exact this

/-! ### Equal memories are equal data -/

theorem Cells.at_eq_zero {t : Cells} {a : Nat} (h : ∀ e ∈ t, a < e.1) : t.at a = 0 := by
  induction t with
  | nil => rfl
  | cons x t ih =>
    obtain ⟨j, w⟩ := x
    have := h (j, w) (List.mem_cons_self ..)
    simp only [Cells.at]
    rw [if_neg (by simp at this; omega)]
    exact ih fun e he => h e (List.mem_cons_of_mem _ he)

/-- Two memories in the form that read alike everywhere list the same bytes. -/
theorem Cells.ext_of_wf {m n : Cells} (hm : m.wf = true) (hn : n.wf = true) (h : ∀ a, m.at a = n.at a) : m = n := by
  induction m generalizing n with
  | nil =>
    cases n with
    | nil => rfl
    | cons y s =>
      obtain ⟨k, x⟩ := y
      exact absurd (h k).symm (by simpa [Cells.at] using (Cells.wf_cons.1 hn).1)
  | cons x t ih =>
    obtain ⟨j, v⟩ := x
    obtain ⟨hv, ht, hw⟩ := Cells.wf_cons.1 hm
    cases n with
    | nil => exact absurd (h j) (by simpa [Cells.at] using hv)
    | cons y s =>
      obtain ⟨k, w⟩ := y
      obtain ⟨hx, hs, hs'⟩ := Cells.wf_cons.1 hn
      have key : j = k := by
        rcases Nat.lt_trichotomy j k with hlt | rfl | hlt
        · have h0 : Cells.at ((k, w) :: s) j = 0 := Cells.at_eq_zero fun e he => by
            rcases List.mem_cons.1 he with rfl | he
            · exact hlt
            · exact Nat.lt_trans hlt (hs e he)
          have := h j
          rw [h0] at this
          exact absurd this (by simpa [Cells.at] using hv)
        · rfl
        · have h0 : Cells.at ((j, v) :: t) k = 0 := Cells.at_eq_zero fun e he => by
            rcases List.mem_cons.1 he with rfl | he
            · exact hlt
            · exact Nat.lt_trans hlt (ht e he)
          have := h k
          rw [h0] at this
          exact absurd this.symm (by simpa [Cells.at] using hx)
      subst key
      have val : v = w := by simpa [Cells.at] using h j
      subst val
      have rest : t = s := ih hw hs' fun a => by
        by_cases ha : j = a
        · subst ha
          rw [Cells.at_eq_zero ht, Cells.at_eq_zero hs]
        · have := h a
          simpa [Cells.at, ha] using this
      rw [rest]

/-! ### Numbers and bytes -/

@[simp] theorem length_toBytes (n v : Nat) : (toBytes n v).length = n := by simp [toBytes]

theorem toBytes_succ (n v : Nat) : toBytes (n + 1) v = BitVec.ofNat 8 v :: toBytes n (v / 256) := by
  have step : ∀ i, BitVec.ofNat 8 (v >>> (8 * Nat.succ i)) = BitVec.ofNat 8 ((v / 256) >>> (8 * i)) := fun i => by
    simp only [Nat.shiftRight_eq_div_pow]
    rw [Nat.div_div_eq_div_mul, show 8 * Nat.succ i = 8 + 8 * i by omega, Nat.pow_add]
  simp only [toBytes, List.range_succ_eq_map, List.map_cons, List.map_map]
  exact congr (congrArg List.cons (by simp)) (List.map_congr_left fun i _ => step i)

/-- The number of the bytes of a number is the number modulo their range. -/
theorem ofBytes_toBytes (n v : Nat) : ofBytes (toBytes n v) = v % 256 ^ n := by
  induction n generalizing v with
  | zero => simp [toBytes, ofBytes, Nat.mod_one]
  | succ n ih =>
    rw [toBytes_succ, ofBytes, ih, Nat.pow_succ, Nat.mul_comm (256 ^ n) 256, Nat.mod_mul]
    simp

end Sys2Proof.Machine
end

