-- ==== Sys2Proof/Laws/State.lean ====
section
/-! SUPPORT. What the updates of Sys2Proof/Machine/Access.lean leave: one lemma for each field and update, and reading a
part of the state after a part was replaced. -/

namespace Sys2Proof.Machine

/-! ### Tables -/

@[simp] theorem Tab.find_put_self {α : Type} (t : Tab α) (k : Nat) (v : α) : (t.put k v).find k = some v := by
  induction t with
  | nil => simp [Tab.put, Tab.find]
  | cons e t ih =>
    obtain ⟨j, w⟩ := e
    simp only [Tab.put]
    split
    · simp [Tab.find]
    · split
      · simp [Tab.find]
      · rename_i h _
        simp [Tab.find, h, ih]

theorem Tab.find_put_ne {α : Type} (t : Tab α) {k j : Nat} (v : α) (h : j ≠ k) : (t.put k v).find j = t.find j := by
  induction t with
  | nil => simp [Tab.put, Tab.find, h.symm]
  | cons e t ih =>
    obtain ⟨i, w⟩ := e
    simp only [Tab.put]
    split
    · rename_i hi
      subst hi
      simp [Tab.find, h.symm]
    · split
      · simp [Tab.find, h.symm]
      · simp [Tab.find, ih]

theorem Tab.put_put {α : Type} (t : Tab α) (k : Nat) (v w : α) : (t.put k v).put k w = t.put k w := by
  induction t with
  | nil => simp [Tab.put]
  | cons e t ih =>
    obtain ⟨j, u⟩ := e
    by_cases h1 : j = k
    · simp [Tab.put, h1]
    · by_cases h2 : k < j
      · simp [Tab.put, h1, h2]
      · simp [Tab.put, h1, h2, ih]

@[simp] theorem Tab.get_put_self {α : Type} (t : Tab α) (d : α) (k : Nat) (v : α) : (t.put k v).get d k = v := by
  simp [Tab.get]

theorem Tab.get_put_ne {α : Type} (t : Tab α) (d : α) {k j : Nat} (v : α) (h : j ≠ k) :
    (t.put k v).get d j = t.get d j := by
  simp [Tab.get, Tab.find_put_ne t v h]

/-! ### setCore -/

@[simp] theorem State.setCore_domidx (s : State) (c : Nat) (x : Core) : (s.setCore c x).domidx = s.domidx := rfl
@[simp] theorem State.setCore_stepMin (s : State) (c : Nat) (x : Core) : (s.setCore c x).stepMin = s.stepMin := rfl
@[simp] theorem State.setCore_stepMaj (s : State) (c : Nat) (x : Core) : (s.setCore c x).stepMaj = s.stepMaj := rfl
@[simp] theorem State.setCore_cycle (s : State) (c : Nat) (x : Core) : (s.setCore c x).cycle = s.cycle := rfl
@[simp] theorem State.setCore_hbm (s : State) (c : Nat) (x : Core) : (s.setCore c x).hbm = s.hbm := rfl
@[simp] theorem State.setCore_l2 (s : State) (c : Nat) (x : Core) : (s.setCore c x).l2 = s.l2 := rfl
@[simp] theorem State.setCore_chip (s : State) (c : Nat) (x : Core) : (s.setCore c x).chip = s.chip := rfl
@[simp] theorem State.setCore_hostMem (s : State) (c : Nat) (x : Core) : (s.setCore c x).hostMem = s.hostMem := rfl
@[simp] theorem State.setCore_ptes (s : State) (c : Nat) (x : Core) : (s.setCore c x).ptes = s.ptes := rfl
@[simp] theorem State.setCore_granules (s : State) (c : Nat) (x : Core) : (s.setCore c x).granules = s.granules := rfl
@[simp] theorem State.setCore_served (s : State) (c : Nat) (x : Core) : (s.setCore c x).served = s.served := rfl
@[simp] theorem State.setCore_budget (s : State) (c : Nat) (x : Core) : (s.setCore c x).budget = s.budget := rfl
@[simp] theorem State.setCore_ctxs (s : State) (c : Nat) (x : Core) : (s.setCore c x).ctxs = s.ctxs := rfl
@[simp] theorem State.setCore_clusters (s : State) (c : Nat) (x : Core) : (s.setCore c x).clusters = s.clusters := rfl
@[simp] theorem State.setCore_fab (s : State) (c : Nat) (x : Core) : (s.setCore c x).fab = s.fab := rfl
@[simp] theorem State.setCore_fns (s : State) (c : Nat) (x : Core) : (s.setCore c x).fns = s.fns := rfl
@[simp] theorem State.setCore_fw (s : State) (c : Nat) (x : Core) : (s.setCore c x).fw = s.fw := rfl
@[simp] theorem State.setCore_out (s : State) (c : Nat) (x : Core) : (s.setCore c x).out = s.out := rfl
@[simp] theorem State.setCore_nextId (s : State) (c : Nat) (x : Core) : (s.setCore c x).nextId = s.nextId := rfl
@[simp] theorem State.setCore_clones (s : State) (c : Nat) (x : Core) : (s.setCore c x).clones = s.clones := rfl
@[simp] theorem State.setCore_cur (s : State) (c : Nat) (x : Core) : (s.setCore c x).cur = s.cur := rfl
@[simp] theorem State.setCore_agenda (s : State) (c : Nat) (x : Core) : (s.setCore c x).agenda = s.agenda := rfl
@[simp] theorem State.setCore_fresh (s : State) (c : Nat) (x : Core) : (s.setCore c x).fresh = s.fresh := rfl

/-! ### modCore -/

@[simp] theorem State.modCore_domidx (s : State) (c : Nat) (f : Core → Core) : (s.modCore c f).domidx = s.domidx := rfl
@[simp] theorem State.modCore_stepMin (s : State) (c : Nat) (f : Core → Core) : (s.modCore c f).stepMin = s.stepMin := rfl
@[simp] theorem State.modCore_stepMaj (s : State) (c : Nat) (f : Core → Core) : (s.modCore c f).stepMaj = s.stepMaj := rfl
@[simp] theorem State.modCore_cycle (s : State) (c : Nat) (f : Core → Core) : (s.modCore c f).cycle = s.cycle := rfl
@[simp] theorem State.modCore_hbm (s : State) (c : Nat) (f : Core → Core) : (s.modCore c f).hbm = s.hbm := rfl
@[simp] theorem State.modCore_l2 (s : State) (c : Nat) (f : Core → Core) : (s.modCore c f).l2 = s.l2 := rfl
@[simp] theorem State.modCore_chip (s : State) (c : Nat) (f : Core → Core) : (s.modCore c f).chip = s.chip := rfl
@[simp] theorem State.modCore_hostMem (s : State) (c : Nat) (f : Core → Core) : (s.modCore c f).hostMem = s.hostMem := rfl
@[simp] theorem State.modCore_ptes (s : State) (c : Nat) (f : Core → Core) : (s.modCore c f).ptes = s.ptes := rfl
@[simp] theorem State.modCore_granules (s : State) (c : Nat) (f : Core → Core) : (s.modCore c f).granules = s.granules := rfl
@[simp] theorem State.modCore_served (s : State) (c : Nat) (f : Core → Core) : (s.modCore c f).served = s.served := rfl
@[simp] theorem State.modCore_budget (s : State) (c : Nat) (f : Core → Core) : (s.modCore c f).budget = s.budget := rfl
@[simp] theorem State.modCore_ctxs (s : State) (c : Nat) (f : Core → Core) : (s.modCore c f).ctxs = s.ctxs := rfl
@[simp] theorem State.modCore_clusters (s : State) (c : Nat) (f : Core → Core) : (s.modCore c f).clusters = s.clusters := rfl
@[simp] theorem State.modCore_fab (s : State) (c : Nat) (f : Core → Core) : (s.modCore c f).fab = s.fab := rfl
@[simp] theorem State.modCore_fns (s : State) (c : Nat) (f : Core → Core) : (s.modCore c f).fns = s.fns := rfl
@[simp] theorem State.modCore_fw (s : State) (c : Nat) (f : Core → Core) : (s.modCore c f).fw = s.fw := rfl
@[simp] theorem State.modCore_out (s : State) (c : Nat) (f : Core → Core) : (s.modCore c f).out = s.out := rfl
@[simp] theorem State.modCore_nextId (s : State) (c : Nat) (f : Core → Core) : (s.modCore c f).nextId = s.nextId := rfl
@[simp] theorem State.modCore_clones (s : State) (c : Nat) (f : Core → Core) : (s.modCore c f).clones = s.clones := rfl
@[simp] theorem State.modCore_cur (s : State) (c : Nat) (f : Core → Core) : (s.modCore c f).cur = s.cur := rfl
@[simp] theorem State.modCore_agenda (s : State) (c : Nat) (f : Core → Core) : (s.modCore c f).agenda = s.agenda := rfl
@[simp] theorem State.modCore_fresh (s : State) (c : Nat) (f : Core → Core) : (s.modCore c f).fresh = s.fresh := rfl

/-! ### setCluster -/

@[simp] theorem State.setCluster_domidx (s : State) (q : Nat) (x : Cluster) : (s.setCluster q x).domidx = s.domidx := rfl
@[simp] theorem State.setCluster_stepMin (s : State) (q : Nat) (x : Cluster) : (s.setCluster q x).stepMin = s.stepMin := rfl
@[simp] theorem State.setCluster_stepMaj (s : State) (q : Nat) (x : Cluster) : (s.setCluster q x).stepMaj = s.stepMaj := rfl
@[simp] theorem State.setCluster_cycle (s : State) (q : Nat) (x : Cluster) : (s.setCluster q x).cycle = s.cycle := rfl
@[simp] theorem State.setCluster_hbm (s : State) (q : Nat) (x : Cluster) : (s.setCluster q x).hbm = s.hbm := rfl
@[simp] theorem State.setCluster_l2 (s : State) (q : Nat) (x : Cluster) : (s.setCluster q x).l2 = s.l2 := rfl
@[simp] theorem State.setCluster_chip (s : State) (q : Nat) (x : Cluster) : (s.setCluster q x).chip = s.chip := rfl
@[simp] theorem State.setCluster_hostMem (s : State) (q : Nat) (x : Cluster) : (s.setCluster q x).hostMem = s.hostMem := rfl
@[simp] theorem State.setCluster_ptes (s : State) (q : Nat) (x : Cluster) : (s.setCluster q x).ptes = s.ptes := rfl
@[simp] theorem State.setCluster_granules (s : State) (q : Nat) (x : Cluster) : (s.setCluster q x).granules = s.granules := rfl
@[simp] theorem State.setCluster_served (s : State) (q : Nat) (x : Cluster) : (s.setCluster q x).served = s.served := rfl
@[simp] theorem State.setCluster_budget (s : State) (q : Nat) (x : Cluster) : (s.setCluster q x).budget = s.budget := rfl
@[simp] theorem State.setCluster_ctxs (s : State) (q : Nat) (x : Cluster) : (s.setCluster q x).ctxs = s.ctxs := rfl
@[simp] theorem State.setCluster_cores (s : State) (q : Nat) (x : Cluster) : (s.setCluster q x).cores = s.cores := rfl
@[simp] theorem State.setCluster_fab (s : State) (q : Nat) (x : Cluster) : (s.setCluster q x).fab = s.fab := rfl
@[simp] theorem State.setCluster_fns (s : State) (q : Nat) (x : Cluster) : (s.setCluster q x).fns = s.fns := rfl
@[simp] theorem State.setCluster_fw (s : State) (q : Nat) (x : Cluster) : (s.setCluster q x).fw = s.fw := rfl
@[simp] theorem State.setCluster_out (s : State) (q : Nat) (x : Cluster) : (s.setCluster q x).out = s.out := rfl
@[simp] theorem State.setCluster_nextId (s : State) (q : Nat) (x : Cluster) : (s.setCluster q x).nextId = s.nextId := rfl
@[simp] theorem State.setCluster_clones (s : State) (q : Nat) (x : Cluster) : (s.setCluster q x).clones = s.clones := rfl
@[simp] theorem State.setCluster_cur (s : State) (q : Nat) (x : Cluster) : (s.setCluster q x).cur = s.cur := rfl
@[simp] theorem State.setCluster_agenda (s : State) (q : Nat) (x : Cluster) : (s.setCluster q x).agenda = s.agenda := rfl
@[simp] theorem State.setCluster_fresh (s : State) (q : Nat) (x : Cluster) : (s.setCluster q x).fresh = s.fresh := rfl

/-! ### setCtx -/

@[simp] theorem State.setCtx_domidx (s : State) (x : Nat) (v : Ctx) : (s.setCtx x v).domidx = s.domidx := rfl
@[simp] theorem State.setCtx_stepMin (s : State) (x : Nat) (v : Ctx) : (s.setCtx x v).stepMin = s.stepMin := rfl
@[simp] theorem State.setCtx_stepMaj (s : State) (x : Nat) (v : Ctx) : (s.setCtx x v).stepMaj = s.stepMaj := rfl
@[simp] theorem State.setCtx_cycle (s : State) (x : Nat) (v : Ctx) : (s.setCtx x v).cycle = s.cycle := rfl
@[simp] theorem State.setCtx_hbm (s : State) (x : Nat) (v : Ctx) : (s.setCtx x v).hbm = s.hbm := rfl
@[simp] theorem State.setCtx_l2 (s : State) (x : Nat) (v : Ctx) : (s.setCtx x v).l2 = s.l2 := rfl
@[simp] theorem State.setCtx_chip (s : State) (x : Nat) (v : Ctx) : (s.setCtx x v).chip = s.chip := rfl
@[simp] theorem State.setCtx_hostMem (s : State) (x : Nat) (v : Ctx) : (s.setCtx x v).hostMem = s.hostMem := rfl
@[simp] theorem State.setCtx_ptes (s : State) (x : Nat) (v : Ctx) : (s.setCtx x v).ptes = s.ptes := rfl
@[simp] theorem State.setCtx_granules (s : State) (x : Nat) (v : Ctx) : (s.setCtx x v).granules = s.granules := rfl
@[simp] theorem State.setCtx_served (s : State) (x : Nat) (v : Ctx) : (s.setCtx x v).served = s.served := rfl
@[simp] theorem State.setCtx_budget (s : State) (x : Nat) (v : Ctx) : (s.setCtx x v).budget = s.budget := rfl
@[simp] theorem State.setCtx_clusters (s : State) (x : Nat) (v : Ctx) : (s.setCtx x v).clusters = s.clusters := rfl
@[simp] theorem State.setCtx_cores (s : State) (x : Nat) (v : Ctx) : (s.setCtx x v).cores = s.cores := rfl
@[simp] theorem State.setCtx_fab (s : State) (x : Nat) (v : Ctx) : (s.setCtx x v).fab = s.fab := rfl
@[simp] theorem State.setCtx_fns (s : State) (x : Nat) (v : Ctx) : (s.setCtx x v).fns = s.fns := rfl
@[simp] theorem State.setCtx_fw (s : State) (x : Nat) (v : Ctx) : (s.setCtx x v).fw = s.fw := rfl
@[simp] theorem State.setCtx_out (s : State) (x : Nat) (v : Ctx) : (s.setCtx x v).out = s.out := rfl
@[simp] theorem State.setCtx_nextId (s : State) (x : Nat) (v : Ctx) : (s.setCtx x v).nextId = s.nextId := rfl
@[simp] theorem State.setCtx_clones (s : State) (x : Nat) (v : Ctx) : (s.setCtx x v).clones = s.clones := rfl
@[simp] theorem State.setCtx_cur (s : State) (x : Nat) (v : Ctx) : (s.setCtx x v).cur = s.cur := rfl
@[simp] theorem State.setCtx_agenda (s : State) (x : Nat) (v : Ctx) : (s.setCtx x v).agenda = s.agenda := rfl
@[simp] theorem State.setCtx_fresh (s : State) (x : Nat) (v : Ctx) : (s.setCtx x v).fresh = s.fresh := rfl

/-! ### modCtx -/

@[simp] theorem State.modCtx_domidx (s : State) (x : Nat) (f : Ctx → Ctx) : (s.modCtx x f).domidx = s.domidx := by
  unfold State.modCtx
  split <;> rfl
@[simp] theorem State.modCtx_stepMin (s : State) (x : Nat) (f : Ctx → Ctx) : (s.modCtx x f).stepMin = s.stepMin := by
  unfold State.modCtx
  split <;> rfl
@[simp] theorem State.modCtx_stepMaj (s : State) (x : Nat) (f : Ctx → Ctx) : (s.modCtx x f).stepMaj = s.stepMaj := by
  unfold State.modCtx
  split <;> rfl
@[simp] theorem State.modCtx_cycle (s : State) (x : Nat) (f : Ctx → Ctx) : (s.modCtx x f).cycle = s.cycle := by
  unfold State.modCtx
  split <;> rfl
@[simp] theorem State.modCtx_hbm (s : State) (x : Nat) (f : Ctx → Ctx) : (s.modCtx x f).hbm = s.hbm := by
  unfold State.modCtx
  split <;> rfl
@[simp] theorem State.modCtx_l2 (s : State) (x : Nat) (f : Ctx → Ctx) : (s.modCtx x f).l2 = s.l2 := by
  unfold State.modCtx
  split <;> rfl
@[simp] theorem State.modCtx_chip (s : State) (x : Nat) (f : Ctx → Ctx) : (s.modCtx x f).chip = s.chip := by
  unfold State.modCtx
  split <;> rfl
@[simp] theorem State.modCtx_hostMem (s : State) (x : Nat) (f : Ctx → Ctx) : (s.modCtx x f).hostMem = s.hostMem := by
  unfold State.modCtx
  split <;> rfl
@[simp] theorem State.modCtx_ptes (s : State) (x : Nat) (f : Ctx → Ctx) : (s.modCtx x f).ptes = s.ptes := by
  unfold State.modCtx
  split <;> rfl
@[simp] theorem State.modCtx_granules (s : State) (x : Nat) (f : Ctx → Ctx) : (s.modCtx x f).granules = s.granules := by
  unfold State.modCtx
  split <;> rfl
@[simp] theorem State.modCtx_served (s : State) (x : Nat) (f : Ctx → Ctx) : (s.modCtx x f).served = s.served := by
  unfold State.modCtx
  split <;> rfl
@[simp] theorem State.modCtx_budget (s : State) (x : Nat) (f : Ctx → Ctx) : (s.modCtx x f).budget = s.budget := by
  unfold State.modCtx
  split <;> rfl
@[simp] theorem State.modCtx_clusters (s : State) (x : Nat) (f : Ctx → Ctx) : (s.modCtx x f).clusters = s.clusters := by
  unfold State.modCtx
  split <;> rfl
@[simp] theorem State.modCtx_cores (s : State) (x : Nat) (f : Ctx → Ctx) : (s.modCtx x f).cores = s.cores := by
  unfold State.modCtx
  split <;> rfl
@[simp] theorem State.modCtx_fab (s : State) (x : Nat) (f : Ctx → Ctx) : (s.modCtx x f).fab = s.fab := by
  unfold State.modCtx
  split <;> rfl
@[simp] theorem State.modCtx_fns (s : State) (x : Nat) (f : Ctx → Ctx) : (s.modCtx x f).fns = s.fns := by
  unfold State.modCtx
  split <;> rfl
@[simp] theorem State.modCtx_fw (s : State) (x : Nat) (f : Ctx → Ctx) : (s.modCtx x f).fw = s.fw := by
  unfold State.modCtx
  split <;> rfl
@[simp] theorem State.modCtx_out (s : State) (x : Nat) (f : Ctx → Ctx) : (s.modCtx x f).out = s.out := by
  unfold State.modCtx
  split <;> rfl
@[simp] theorem State.modCtx_nextId (s : State) (x : Nat) (f : Ctx → Ctx) : (s.modCtx x f).nextId = s.nextId := by
  unfold State.modCtx
  split <;> rfl
@[simp] theorem State.modCtx_clones (s : State) (x : Nat) (f : Ctx → Ctx) : (s.modCtx x f).clones = s.clones := by
  unfold State.modCtx
  split <;> rfl
@[simp] theorem State.modCtx_cur (s : State) (x : Nat) (f : Ctx → Ctx) : (s.modCtx x f).cur = s.cur := by
  unfold State.modCtx
  split <;> rfl
@[simp] theorem State.modCtx_agenda (s : State) (x : Nat) (f : Ctx → Ctx) : (s.modCtx x f).agenda = s.agenda := by
  unfold State.modCtx
  split <;> rfl
@[simp] theorem State.modCtx_fresh (s : State) (x : Nat) (f : Ctx → Ctx) : (s.modCtx x f).fresh = s.fresh := by
  unfold State.modCtx
  split <;> rfl

/-! ### setBand -/

@[simp] theorem State.setBand_domidx (s : State) (c k : Nat) (b : Band) : (s.setBand c k b).domidx = s.domidx := rfl
@[simp] theorem State.setBand_stepMin (s : State) (c k : Nat) (b : Band) : (s.setBand c k b).stepMin = s.stepMin := rfl
@[simp] theorem State.setBand_stepMaj (s : State) (c k : Nat) (b : Band) : (s.setBand c k b).stepMaj = s.stepMaj := rfl
@[simp] theorem State.setBand_cycle (s : State) (c k : Nat) (b : Band) : (s.setBand c k b).cycle = s.cycle := rfl
@[simp] theorem State.setBand_hbm (s : State) (c k : Nat) (b : Band) : (s.setBand c k b).hbm = s.hbm := rfl
@[simp] theorem State.setBand_l2 (s : State) (c k : Nat) (b : Band) : (s.setBand c k b).l2 = s.l2 := rfl
@[simp] theorem State.setBand_chip (s : State) (c k : Nat) (b : Band) : (s.setBand c k b).chip = s.chip := rfl
@[simp] theorem State.setBand_hostMem (s : State) (c k : Nat) (b : Band) : (s.setBand c k b).hostMem = s.hostMem := rfl
@[simp] theorem State.setBand_ptes (s : State) (c k : Nat) (b : Band) : (s.setBand c k b).ptes = s.ptes := rfl
@[simp] theorem State.setBand_granules (s : State) (c k : Nat) (b : Band) : (s.setBand c k b).granules = s.granules := rfl
@[simp] theorem State.setBand_served (s : State) (c k : Nat) (b : Band) : (s.setBand c k b).served = s.served := rfl
@[simp] theorem State.setBand_budget (s : State) (c k : Nat) (b : Band) : (s.setBand c k b).budget = s.budget := rfl
@[simp] theorem State.setBand_ctxs (s : State) (c k : Nat) (b : Band) : (s.setBand c k b).ctxs = s.ctxs := rfl
@[simp] theorem State.setBand_clusters (s : State) (c k : Nat) (b : Band) : (s.setBand c k b).clusters = s.clusters := rfl
@[simp] theorem State.setBand_fab (s : State) (c k : Nat) (b : Band) : (s.setBand c k b).fab = s.fab := rfl
@[simp] theorem State.setBand_fns (s : State) (c k : Nat) (b : Band) : (s.setBand c k b).fns = s.fns := rfl
@[simp] theorem State.setBand_fw (s : State) (c k : Nat) (b : Band) : (s.setBand c k b).fw = s.fw := rfl
@[simp] theorem State.setBand_out (s : State) (c k : Nat) (b : Band) : (s.setBand c k b).out = s.out := rfl
@[simp] theorem State.setBand_nextId (s : State) (c k : Nat) (b : Band) : (s.setBand c k b).nextId = s.nextId := rfl
@[simp] theorem State.setBand_clones (s : State) (c k : Nat) (b : Band) : (s.setBand c k b).clones = s.clones := rfl
@[simp] theorem State.setBand_cur (s : State) (c k : Nat) (b : Band) : (s.setBand c k b).cur = s.cur := rfl
@[simp] theorem State.setBand_agenda (s : State) (c k : Nat) (b : Band) : (s.setBand c k b).agenda = s.agenda := rfl
@[simp] theorem State.setBand_fresh (s : State) (c k : Nat) (b : Band) : (s.setBand c k b).fresh = s.fresh := rfl

/-! ### modBand -/

@[simp] theorem State.modBand_domidx (s : State) (c k : Nat) (f : Band → Band) : (s.modBand c k f).domidx = s.domidx := by
  unfold State.modBand
  split <;> rfl
@[simp] theorem State.modBand_stepMin (s : State) (c k : Nat) (f : Band → Band) : (s.modBand c k f).stepMin = s.stepMin := by
  unfold State.modBand
  split <;> rfl
@[simp] theorem State.modBand_stepMaj (s : State) (c k : Nat) (f : Band → Band) : (s.modBand c k f).stepMaj = s.stepMaj := by
  unfold State.modBand
  split <;> rfl
@[simp] theorem State.modBand_cycle (s : State) (c k : Nat) (f : Band → Band) : (s.modBand c k f).cycle = s.cycle := by
  unfold State.modBand
  split <;> rfl
@[simp] theorem State.modBand_hbm (s : State) (c k : Nat) (f : Band → Band) : (s.modBand c k f).hbm = s.hbm := by
  unfold State.modBand
  split <;> rfl
@[simp] theorem State.modBand_l2 (s : State) (c k : Nat) (f : Band → Band) : (s.modBand c k f).l2 = s.l2 := by
  unfold State.modBand
  split <;> rfl
@[simp] theorem State.modBand_chip (s : State) (c k : Nat) (f : Band → Band) : (s.modBand c k f).chip = s.chip := by
  unfold State.modBand
  split <;> rfl
@[simp] theorem State.modBand_hostMem (s : State) (c k : Nat) (f : Band → Band) : (s.modBand c k f).hostMem = s.hostMem := by
  unfold State.modBand
  split <;> rfl
@[simp] theorem State.modBand_ptes (s : State) (c k : Nat) (f : Band → Band) : (s.modBand c k f).ptes = s.ptes := by
  unfold State.modBand
  split <;> rfl
@[simp] theorem State.modBand_granules (s : State) (c k : Nat) (f : Band → Band) : (s.modBand c k f).granules = s.granules := by
  unfold State.modBand
  split <;> rfl
@[simp] theorem State.modBand_served (s : State) (c k : Nat) (f : Band → Band) : (s.modBand c k f).served = s.served := by
  unfold State.modBand
  split <;> rfl
@[simp] theorem State.modBand_budget (s : State) (c k : Nat) (f : Band → Band) : (s.modBand c k f).budget = s.budget := by
  unfold State.modBand
  split <;> rfl
@[simp] theorem State.modBand_ctxs (s : State) (c k : Nat) (f : Band → Band) : (s.modBand c k f).ctxs = s.ctxs := by
  unfold State.modBand
  split <;> rfl
@[simp] theorem State.modBand_clusters (s : State) (c k : Nat) (f : Band → Band) : (s.modBand c k f).clusters = s.clusters := by
  unfold State.modBand
  split <;> rfl
@[simp] theorem State.modBand_fab (s : State) (c k : Nat) (f : Band → Band) : (s.modBand c k f).fab = s.fab := by
  unfold State.modBand
  split <;> rfl
@[simp] theorem State.modBand_fns (s : State) (c k : Nat) (f : Band → Band) : (s.modBand c k f).fns = s.fns := by
  unfold State.modBand
  split <;> rfl
@[simp] theorem State.modBand_fw (s : State) (c k : Nat) (f : Band → Band) : (s.modBand c k f).fw = s.fw := by
  unfold State.modBand
  split <;> rfl
@[simp] theorem State.modBand_out (s : State) (c k : Nat) (f : Band → Band) : (s.modBand c k f).out = s.out := by
  unfold State.modBand
  split <;> rfl
@[simp] theorem State.modBand_nextId (s : State) (c k : Nat) (f : Band → Band) : (s.modBand c k f).nextId = s.nextId := by
  unfold State.modBand
  split <;> rfl
@[simp] theorem State.modBand_clones (s : State) (c k : Nat) (f : Band → Band) : (s.modBand c k f).clones = s.clones := by
  unfold State.modBand
  split <;> rfl
@[simp] theorem State.modBand_cur (s : State) (c k : Nat) (f : Band → Band) : (s.modBand c k f).cur = s.cur := by
  unfold State.modBand
  split <;> rfl
@[simp] theorem State.modBand_agenda (s : State) (c k : Nat) (f : Band → Band) : (s.modBand c k f).agenda = s.agenda := by
  unfold State.modBand
  split <;> rfl
@[simp] theorem State.modBand_fresh (s : State) (c k : Nat) (f : Band → Band) : (s.modBand c k f).fresh = s.fresh := by
  unfold State.modBand
  split <;> rfl

/-! ### setCrew -/

@[simp] theorem State.setCrew_domidx (s : State) (c n : Nat) (w : Crew) : (s.setCrew c n w).domidx = s.domidx := rfl
@[simp] theorem State.setCrew_stepMin (s : State) (c n : Nat) (w : Crew) : (s.setCrew c n w).stepMin = s.stepMin := rfl
@[simp] theorem State.setCrew_stepMaj (s : State) (c n : Nat) (w : Crew) : (s.setCrew c n w).stepMaj = s.stepMaj := rfl
@[simp] theorem State.setCrew_cycle (s : State) (c n : Nat) (w : Crew) : (s.setCrew c n w).cycle = s.cycle := rfl
@[simp] theorem State.setCrew_hbm (s : State) (c n : Nat) (w : Crew) : (s.setCrew c n w).hbm = s.hbm := rfl
@[simp] theorem State.setCrew_l2 (s : State) (c n : Nat) (w : Crew) : (s.setCrew c n w).l2 = s.l2 := rfl
@[simp] theorem State.setCrew_chip (s : State) (c n : Nat) (w : Crew) : (s.setCrew c n w).chip = s.chip := rfl
@[simp] theorem State.setCrew_hostMem (s : State) (c n : Nat) (w : Crew) : (s.setCrew c n w).hostMem = s.hostMem := rfl
@[simp] theorem State.setCrew_ptes (s : State) (c n : Nat) (w : Crew) : (s.setCrew c n w).ptes = s.ptes := rfl
@[simp] theorem State.setCrew_granules (s : State) (c n : Nat) (w : Crew) : (s.setCrew c n w).granules = s.granules := rfl
@[simp] theorem State.setCrew_served (s : State) (c n : Nat) (w : Crew) : (s.setCrew c n w).served = s.served := rfl
@[simp] theorem State.setCrew_budget (s : State) (c n : Nat) (w : Crew) : (s.setCrew c n w).budget = s.budget := rfl
@[simp] theorem State.setCrew_ctxs (s : State) (c n : Nat) (w : Crew) : (s.setCrew c n w).ctxs = s.ctxs := rfl
@[simp] theorem State.setCrew_clusters (s : State) (c n : Nat) (w : Crew) : (s.setCrew c n w).clusters = s.clusters := rfl
@[simp] theorem State.setCrew_fab (s : State) (c n : Nat) (w : Crew) : (s.setCrew c n w).fab = s.fab := rfl
@[simp] theorem State.setCrew_fns (s : State) (c n : Nat) (w : Crew) : (s.setCrew c n w).fns = s.fns := rfl
@[simp] theorem State.setCrew_fw (s : State) (c n : Nat) (w : Crew) : (s.setCrew c n w).fw = s.fw := rfl
@[simp] theorem State.setCrew_out (s : State) (c n : Nat) (w : Crew) : (s.setCrew c n w).out = s.out := rfl
@[simp] theorem State.setCrew_nextId (s : State) (c n : Nat) (w : Crew) : (s.setCrew c n w).nextId = s.nextId := rfl
@[simp] theorem State.setCrew_clones (s : State) (c n : Nat) (w : Crew) : (s.setCrew c n w).clones = s.clones := rfl
@[simp] theorem State.setCrew_cur (s : State) (c n : Nat) (w : Crew) : (s.setCrew c n w).cur = s.cur := rfl
@[simp] theorem State.setCrew_agenda (s : State) (c n : Nat) (w : Crew) : (s.setCrew c n w).agenda = s.agenda := rfl
@[simp] theorem State.setCrew_fresh (s : State) (c n : Nat) (w : Crew) : (s.setCrew c n w).fresh = s.fresh := rfl

/-! ### modCrew -/

@[simp] theorem State.modCrew_domidx (s : State) (c n : Nat) (f : Crew → Crew) : (s.modCrew c n f).domidx = s.domidx := by
  unfold State.modCrew
  split <;> rfl
@[simp] theorem State.modCrew_stepMin (s : State) (c n : Nat) (f : Crew → Crew) : (s.modCrew c n f).stepMin = s.stepMin := by
  unfold State.modCrew
  split <;> rfl
@[simp] theorem State.modCrew_stepMaj (s : State) (c n : Nat) (f : Crew → Crew) : (s.modCrew c n f).stepMaj = s.stepMaj := by
  unfold State.modCrew
  split <;> rfl
@[simp] theorem State.modCrew_cycle (s : State) (c n : Nat) (f : Crew → Crew) : (s.modCrew c n f).cycle = s.cycle := by
  unfold State.modCrew
  split <;> rfl
@[simp] theorem State.modCrew_hbm (s : State) (c n : Nat) (f : Crew → Crew) : (s.modCrew c n f).hbm = s.hbm := by
  unfold State.modCrew
  split <;> rfl
@[simp] theorem State.modCrew_l2 (s : State) (c n : Nat) (f : Crew → Crew) : (s.modCrew c n f).l2 = s.l2 := by
  unfold State.modCrew
  split <;> rfl
@[simp] theorem State.modCrew_chip (s : State) (c n : Nat) (f : Crew → Crew) : (s.modCrew c n f).chip = s.chip := by
  unfold State.modCrew
  split <;> rfl
@[simp] theorem State.modCrew_hostMem (s : State) (c n : Nat) (f : Crew → Crew) : (s.modCrew c n f).hostMem = s.hostMem := by
  unfold State.modCrew
  split <;> rfl
@[simp] theorem State.modCrew_ptes (s : State) (c n : Nat) (f : Crew → Crew) : (s.modCrew c n f).ptes = s.ptes := by
  unfold State.modCrew
  split <;> rfl
@[simp] theorem State.modCrew_granules (s : State) (c n : Nat) (f : Crew → Crew) : (s.modCrew c n f).granules = s.granules := by
  unfold State.modCrew
  split <;> rfl
@[simp] theorem State.modCrew_served (s : State) (c n : Nat) (f : Crew → Crew) : (s.modCrew c n f).served = s.served := by
  unfold State.modCrew
  split <;> rfl
@[simp] theorem State.modCrew_budget (s : State) (c n : Nat) (f : Crew → Crew) : (s.modCrew c n f).budget = s.budget := by
  unfold State.modCrew
  split <;> rfl
@[simp] theorem State.modCrew_ctxs (s : State) (c n : Nat) (f : Crew → Crew) : (s.modCrew c n f).ctxs = s.ctxs := by
  unfold State.modCrew
  split <;> rfl
@[simp] theorem State.modCrew_clusters (s : State) (c n : Nat) (f : Crew → Crew) : (s.modCrew c n f).clusters = s.clusters := by
  unfold State.modCrew
  split <;> rfl
@[simp] theorem State.modCrew_fab (s : State) (c n : Nat) (f : Crew → Crew) : (s.modCrew c n f).fab = s.fab := by
  unfold State.modCrew
  split <;> rfl
@[simp] theorem State.modCrew_fns (s : State) (c n : Nat) (f : Crew → Crew) : (s.modCrew c n f).fns = s.fns := by
  unfold State.modCrew
  split <;> rfl
@[simp] theorem State.modCrew_fw (s : State) (c n : Nat) (f : Crew → Crew) : (s.modCrew c n f).fw = s.fw := by
  unfold State.modCrew
  split <;> rfl
@[simp] theorem State.modCrew_out (s : State) (c n : Nat) (f : Crew → Crew) : (s.modCrew c n f).out = s.out := by
  unfold State.modCrew
  split <;> rfl
@[simp] theorem State.modCrew_nextId (s : State) (c n : Nat) (f : Crew → Crew) : (s.modCrew c n f).nextId = s.nextId := by
  unfold State.modCrew
  split <;> rfl
@[simp] theorem State.modCrew_clones (s : State) (c n : Nat) (f : Crew → Crew) : (s.modCrew c n f).clones = s.clones := by
  unfold State.modCrew
  split <;> rfl
@[simp] theorem State.modCrew_cur (s : State) (c n : Nat) (f : Crew → Crew) : (s.modCrew c n f).cur = s.cur := by
  unfold State.modCrew
  split <;> rfl
@[simp] theorem State.modCrew_agenda (s : State) (c n : Nat) (f : Crew → Crew) : (s.modCrew c n f).agenda = s.agenda := by
  unfold State.modCrew
  split <;> rfl
@[simp] theorem State.modCrew_fresh (s : State) (c n : Nat) (f : Crew → Crew) : (s.modCrew c n f).fresh = s.fresh := by
  unfold State.modCrew
  split <;> rfl

/-! ### modFab -/

@[simp] theorem State.modFab_domidx (s : State) (f : Fabric → Fabric) : (s.modFab f).domidx = s.domidx := rfl
@[simp] theorem State.modFab_stepMin (s : State) (f : Fabric → Fabric) : (s.modFab f).stepMin = s.stepMin := rfl
@[simp] theorem State.modFab_stepMaj (s : State) (f : Fabric → Fabric) : (s.modFab f).stepMaj = s.stepMaj := rfl
@[simp] theorem State.modFab_cycle (s : State) (f : Fabric → Fabric) : (s.modFab f).cycle = s.cycle := rfl
@[simp] theorem State.modFab_hbm (s : State) (f : Fabric → Fabric) : (s.modFab f).hbm = s.hbm := rfl
@[simp] theorem State.modFab_l2 (s : State) (f : Fabric → Fabric) : (s.modFab f).l2 = s.l2 := rfl
@[simp] theorem State.modFab_chip (s : State) (f : Fabric → Fabric) : (s.modFab f).chip = s.chip := rfl
@[simp] theorem State.modFab_hostMem (s : State) (f : Fabric → Fabric) : (s.modFab f).hostMem = s.hostMem := rfl
@[simp] theorem State.modFab_ptes (s : State) (f : Fabric → Fabric) : (s.modFab f).ptes = s.ptes := rfl
@[simp] theorem State.modFab_granules (s : State) (f : Fabric → Fabric) : (s.modFab f).granules = s.granules := rfl
@[simp] theorem State.modFab_served (s : State) (f : Fabric → Fabric) : (s.modFab f).served = s.served := rfl
@[simp] theorem State.modFab_budget (s : State) (f : Fabric → Fabric) : (s.modFab f).budget = s.budget := rfl
@[simp] theorem State.modFab_ctxs (s : State) (f : Fabric → Fabric) : (s.modFab f).ctxs = s.ctxs := rfl
@[simp] theorem State.modFab_clusters (s : State) (f : Fabric → Fabric) : (s.modFab f).clusters = s.clusters := rfl
@[simp] theorem State.modFab_cores (s : State) (f : Fabric → Fabric) : (s.modFab f).cores = s.cores := rfl
@[simp] theorem State.modFab_fns (s : State) (f : Fabric → Fabric) : (s.modFab f).fns = s.fns := rfl
@[simp] theorem State.modFab_fw (s : State) (f : Fabric → Fabric) : (s.modFab f).fw = s.fw := rfl
@[simp] theorem State.modFab_out (s : State) (f : Fabric → Fabric) : (s.modFab f).out = s.out := rfl
@[simp] theorem State.modFab_nextId (s : State) (f : Fabric → Fabric) : (s.modFab f).nextId = s.nextId := rfl
@[simp] theorem State.modFab_clones (s : State) (f : Fabric → Fabric) : (s.modFab f).clones = s.clones := rfl
@[simp] theorem State.modFab_cur (s : State) (f : Fabric → Fabric) : (s.modFab f).cur = s.cur := rfl
@[simp] theorem State.modFab_agenda (s : State) (f : Fabric → Fabric) : (s.modFab f).agenda = s.agenda := rfl
@[simp] theorem State.modFab_fresh (s : State) (f : Fabric → Fabric) : (s.modFab f).fresh = s.fresh := rfl

/-! ### send -/

@[simp] theorem State.send_domidx (s : State) (m : Msg) : (s.send m).domidx = s.domidx := rfl
@[simp] theorem State.send_stepMin (s : State) (m : Msg) : (s.send m).stepMin = s.stepMin := rfl
@[simp] theorem State.send_stepMaj (s : State) (m : Msg) : (s.send m).stepMaj = s.stepMaj := rfl
@[simp] theorem State.send_cycle (s : State) (m : Msg) : (s.send m).cycle = s.cycle := rfl
@[simp] theorem State.send_hbm (s : State) (m : Msg) : (s.send m).hbm = s.hbm := rfl
@[simp] theorem State.send_l2 (s : State) (m : Msg) : (s.send m).l2 = s.l2 := rfl
@[simp] theorem State.send_chip (s : State) (m : Msg) : (s.send m).chip = s.chip := rfl
@[simp] theorem State.send_hostMem (s : State) (m : Msg) : (s.send m).hostMem = s.hostMem := rfl
@[simp] theorem State.send_ptes (s : State) (m : Msg) : (s.send m).ptes = s.ptes := rfl
@[simp] theorem State.send_granules (s : State) (m : Msg) : (s.send m).granules = s.granules := rfl
@[simp] theorem State.send_served (s : State) (m : Msg) : (s.send m).served = s.served := rfl
@[simp] theorem State.send_budget (s : State) (m : Msg) : (s.send m).budget = s.budget := rfl
@[simp] theorem State.send_ctxs (s : State) (m : Msg) : (s.send m).ctxs = s.ctxs := rfl
@[simp] theorem State.send_clusters (s : State) (m : Msg) : (s.send m).clusters = s.clusters := rfl
@[simp] theorem State.send_cores (s : State) (m : Msg) : (s.send m).cores = s.cores := rfl
@[simp] theorem State.send_fab (s : State) (m : Msg) : (s.send m).fab = s.fab := rfl
@[simp] theorem State.send_fns (s : State) (m : Msg) : (s.send m).fns = s.fns := rfl
@[simp] theorem State.send_fw (s : State) (m : Msg) : (s.send m).fw = s.fw := rfl
@[simp] theorem State.send_nextId (s : State) (m : Msg) : (s.send m).nextId = s.nextId := rfl
@[simp] theorem State.send_clones (s : State) (m : Msg) : (s.send m).clones = s.clones := rfl
@[simp] theorem State.send_cur (s : State) (m : Msg) : (s.send m).cur = s.cur := rfl
@[simp] theorem State.send_agenda (s : State) (m : Msg) : (s.send m).agenda = s.agenda := rfl
@[simp] theorem State.send_fresh (s : State) (m : Msg) : (s.send m).fresh = s.fresh := rfl

/-! ### Parts of a state after an update -/

@[simp] theorem State.coreAt_setCore (s : State) (c : Nat) (x : Core) : (s.setCore c x).coreAt c = x := by
  simp [State.setCore, State.coreAt]

theorem State.coreAt_setCore_ne (s : State) {c d : Nat} (x : Core) (h : d ≠ c) :
    (s.setCore c x).coreAt d = s.coreAt d := by
  simp [State.setCore, State.coreAt, Tab.get_put_ne _ _ _ h]

@[simp] theorem State.coreAt_modCore (s : State) (c : Nat) (f : Core → Core) :
    (s.modCore c f).coreAt c = f (s.coreAt c) := by
  simp [State.modCore]

theorem State.coreAt_modCore_ne (s : State) {c d : Nat} (f : Core → Core) (h : d ≠ c) :
    (s.modCore c f).coreAt d = s.coreAt d := by
  simp [State.modCore, State.coreAt_setCore_ne s _ h]

@[simp] theorem State.coreAt_setCtx (s : State) (x : Nat) (v : Ctx) (c : Nat) : (s.setCtx x v).coreAt c = s.coreAt c := rfl

@[simp] theorem State.coreAt_modCtx (s : State) (x : Nat) (f : Ctx → Ctx) (c : Nat) :
    (s.modCtx x f).coreAt c = s.coreAt c := by
  simp [State.coreAt]

@[simp] theorem State.coreAt_setBand (s : State) (c k : Nat) (b : Band) :
    (s.setBand c k b).coreAt c = { s.coreAt c with bands := (s.coreAt c).bands.put k b } := by
  simp [State.setBand]

theorem State.coreAt_setBand_ne (s : State) {c d : Nat} (k : Nat) (b : Band) (h : d ≠ c) :
    (s.setBand c k b).coreAt d = s.coreAt d := by
  simp [State.setBand, State.coreAt_setCore_ne s _ h]

@[simp] theorem State.band?_setBand (s : State) (c k : Nat) (b : Band) : (s.setBand c k b).band? c k = some b := by
  simp [State.band?]

theorem State.band?_setBand_ne (s : State) {c k j : Nat} (b : Band) (h : j ≠ k) :
    (s.setBand c k b).band? c j = s.band? c j := by
  simp [State.band?, Tab.find_put_ne _ _ h]

@[simp] theorem State.crew?_setBand (s : State) (c k : Nat) (b : Band) (n : Nat) :
    (s.setBand c k b).crew? c n = s.crew? c n := by
  simp [State.crew?]

@[simp] theorem State.ctx?_setBand (s : State) (c k : Nat) (b : Band) (x : Nat) :
    (s.setBand c k b).ctx? x = s.ctx? x := rfl

@[simp] theorem State.ctx?_setCore (s : State) (c : Nat) (y : Core) (x : Nat) :
    (s.setCore c y).ctx? x = s.ctx? x := rfl

@[simp] theorem State.ctx?_modCore (s : State) (c : Nat) (f : Core → Core) (x : Nat) :
    (s.modCore c f).ctx? x = s.ctx? x := rfl

@[simp] theorem State.coreAt_setCrew (s : State) (c n : Nat) (w : Crew) :
    (s.setCrew c n w).coreAt c = { s.coreAt c with crews := (s.coreAt c).crews.put n w } := by
  simp [State.setCrew]

theorem State.coreAt_setCrew_ne (s : State) {c d : Nat} (n : Nat) (w : Crew) (h : d ≠ c) :
    (s.setCrew c n w).coreAt d = s.coreAt d := by
  simp [State.setCrew, State.coreAt_setCore_ne s _ h]

@[simp] theorem State.crew?_setCrew (s : State) (c n : Nat) (w : Crew) : (s.setCrew c n w).crew? c n = some w := by
  simp [State.crew?]

theorem State.crew?_setCrew_ne (s : State) {c n j : Nat} (w : Crew) (h : j ≠ n) :
    (s.setCrew c n w).crew? c j = s.crew? c j := by
  simp [State.crew?, Tab.find_put_ne _ _ h]

@[simp] theorem State.band?_setCrew (s : State) (c n : Nat) (w : Crew) (k : Nat) :
    (s.setCrew c n w).band? c k = s.band? c k := by
  simp [State.band?]

@[simp] theorem State.ctx?_setCrew (s : State) (c n : Nat) (w : Crew) (x : Nat) :
    (s.setCrew c n w).ctx? x = s.ctx? x := rfl

@[simp] theorem State.ctx?_setCtx (s : State) (x : Nat) (v : Ctx) : (s.setCtx x v).ctx? x = some v := by
  simp [State.setCtx, State.ctx?]

theorem State.ctx?_setCtx_ne (s : State) {x y : Nat} (v : Ctx) (h : y ≠ x) : (s.setCtx x v).ctx? y = s.ctx? y := by
  simp [State.setCtx, State.ctx?, Tab.find_put_ne _ _ h]

theorem State.modBand_eq (s : State) {c k : Nat} {b : Band} (f : Band → Band) (h : s.band? c k = some b) :
    s.modBand c k f = s.setBand c k (f b) := by
  simp [State.modBand, h]

theorem State.modCrew_eq (s : State) {c n : Nat} {w : Crew} (f : Crew → Crew) (h : s.crew? c n = some w) :
    s.modCrew c n f = s.setCrew c n (f w) := by
  simp [State.modCrew, h]

theorem State.modCtx_eq (s : State) {x : Nat} {v : Ctx} (f : Ctx → Ctx) (h : s.ctx? x = some v) :
    s.modCtx x f = s.setCtx x (f v) := by
  simp [State.modCtx, h]

/-! ### The band that words act for -/

/-- What the current band is made of. -/
theorem State.here?_some {s : State} {h : Here} (e : s.here? = some h) :
    s.cur = some (h.core, h.slot) ∧ s.band? h.core h.slot = some h.band
      ∧ s.crew? h.core h.band.crew = some h.crew ∧ s.ctx? h.ctxId = some h.ctx := by
  unfold State.here? at e
  split at e
  · cases e
  · rename_i c k hc
    unfold State.hereAt at e
    split at e
    · cases e
    · rename_i hb
      split at e
      · cases e
      · rename_i hw
        split at e
        · cases e
        · rename_i hx
          cases e
          exact ⟨hc, hb, hw, hx⟩

theorem State.onBand_next {s : State} {h : Here} (e : s.here? = some h) (f : Here → State) :
    s.onBand f = .next (f h) := by
  simp [State.onBand, e]

/-! ### Registers of a band -/

@[simp] theorem Lanes.at_make (f : Nat → Word) {l : Nat} (h : l < 32) : (Lanes.make f).at l = f l := by
  simp [Lanes.make, Lanes.at, laneIds, List.getD, h]

theorem Lanes.at_make_ge (f : Nat → Word) {l : Nat} (h : 32 ≤ l) : (Lanes.make f).at l = 0 := by
  simp [Lanes.make, Lanes.at, laneIds, List.getD, List.getElem?_map, h]

theorem Band.v32_setV (b : Band) (n : Nat) (m : LaneMask) (f : Nat → Word) {l : Nat} (h : l < 32) :
    (b.setV n m f).v32 l n = if m.getLsbD l then f l else b.v32 l n := by
  simp [Band.setV, Band.v32, Band.vreg, h]

theorem Band.v32_setV_ne (b : Band) {n j : Nat} (m : LaneMask) (f : Nat → Word) (l : Nat) (h : j ≠ n) :
    (b.setV n m f).v32 l j = b.v32 l j := by
  simp [Band.setV, Band.v32, Band.vreg, Tab.get_put_ne _ _ _ h]

@[simp] theorem Band.pred_setV (b : Band) (n : Nat) (m : LaneMask) (f : Nat → Word) (j : Nat) :
    (b.setV n m f).pred j = b.pred j := rfl
@[simp] theorem Band.sreg_setV (b : Band) (n : Nat) (m : LaneMask) (f : Nat → Word) (j : Nat) :
    (b.setV n m f).sreg j = b.sreg j := rfl

theorem Band.pred_setPred (b : Band) (n : Nat) (m v : LaneMask) (j : Nat) :
    (b.setPred n m v).pred j
      = if n ≠ 0 ∧ j = n then (b.pred n &&& ~~~m) ||| (v &&& m) else b.pred j := by
  unfold Band.setPred
  by_cases hn : n = 0
  · simp [hn]
  · by_cases hj : j = n
    · subst hj
      simp [hn, Band.pred]
    · simp [hn, hj, Band.pred, Tab.get_put_ne _ _ _ hj]

@[simp] theorem Band.v32_setPred (b : Band) (n : Nat) (m v : LaneMask) (l j : Nat) :
    (b.setPred n m v).v32 l j = b.v32 l j := by
  unfold Band.setPred
  split <;> rfl
@[simp] theorem Band.sreg_setPred (b : Band) (n : Nat) (m v : LaneMask) (j : Nat) :
    (b.setPred n m v).sreg j = b.sreg j := by
  unfold Band.setPred
  split <;> rfl

@[simp] theorem Band.sreg_setS (b : Band) (n : Nat) (v : DWord) : (b.setS n v).sreg n = v := by
  simp [Band.setS, Band.sreg]
theorem Band.sreg_setS_ne (b : Band) {n j : Nat} (v : DWord) (h : j ≠ n) : (b.setS n v).sreg j = b.sreg j := by
  simp [Band.setS, Band.sreg, Tab.get_put_ne _ _ _ h]
@[simp] theorem Band.v32_setS (b : Band) (n : Nat) (v : DWord) (l j : Nat) : (b.setS n v).v32 l j = b.v32 l j := rfl
@[simp] theorem Band.pred_setS (b : Band) (n : Nat) (v : DWord) (j : Nat) : (b.setS n v).pred j = b.pred j := rfl

/-! ### Lane masks -/

theorem getLsbD_maskBelow (p : Nat → Bool) (n l : Nat) (hn : n ≤ 32) :
    (maskBelow p n).getLsbD l = (decide (l < n) && p l) := by
  induction n with
  | zero => simp [maskBelow]
  | succ n ih =>
    have ih := ih (by omega)
    simp only [maskBelow]
    split
    · rename_i hp
      rw [BitVec.getLsbD_or, ih]
      by_cases hl : l = n
      · subst hl
        simp [hp, BitVec.getLsbD_shiftLeft]
        omega
      · have : l - n ≠ 0 ∨ l < n := by omega
        by_cases hlt : l < n
        · simp [hlt, BitVec.getLsbD_shiftLeft]
          omega
        · have h1 : ¬ l < n + 1 := by omega
          simp [hlt, h1, BitVec.getLsbD_shiftLeft, BitVec.getLsbD_one]
          omega
    · rename_i hp
      rw [ih]
      by_cases hl : l = n
      · subst hl
        simp [hp]
      · by_cases hlt : l < n
        · have h1 : l < n + 1 := by omega
          simp [hlt, h1]
        · have h1 : ¬ l < n + 1 := by omega
          simp [hlt, h1]

@[simp] theorem getLsbD_maskOf (p : Nat → Bool) (l : Nat) : (maskOf p).getLsbD l = (decide (l < 32) && p l) :=
  getLsbD_maskBelow p 32 l (Nat.le_refl 32)

end Sys2Proof.Machine
end

