-- ==== Sys2Proof/Laws/Ops.lean ====
section
/-! SUPPORT. What the shared operations do: the end of a word, the lane instructions, the band-level instructions. -/

namespace Sys2Proof.Machine

/-! ### What stands beside the band -/

/-- Bytes and caches as before, when every memory and every core's scratchpad and L1 are as before. -/
theorem SameBytes.of_eq {s t : State} (hh : t.hbm = s.hbm) (hc : t.chip = s.chip) (hm : t.hostMem = s.hostMem)
    (hs : ∀ c, (t.coreAt c).scr = (s.coreAt c).scr ∧ (t.coreAt c).l1 = (s.coreAt c).l1) (h2 : t.l2 = s.l2) :
    SameBytes s t :=
  ⟨fun _ => by rw [hh], fun _ => by rw [hc], fun _ => by rw [hm], fun c _ => by rw [(hs c).1], fun c => (hs c).2, h2⟩

/-- `Beside` from the parts that differ: one core, one band, one crew, one context. -/
theorem Beside.intro' {h : Here} {s t : State} {x : Core} {w : Crew} {v : Ctx}
    (dev : t = { s with cores := t.cores, ctxs := t.ctxs })
    (cores : ∀ c, c ≠ h.core → t.coreAt c = s.coreAt c)
    (core : t.coreAt h.core = x) (ex : (s.coreAt h.core).except x)
    (bands : ∀ k, k ≠ h.slot → x.bands.find k = s.band? h.core k)
    (crews : ∀ n, n ≠ h.band.crew → x.crews.find n = s.crew? h.core n)
    (crew : x.crews.find h.band.crew = some w) (hw : w = { h.crew with since := w.since, count := w.count, used := w.used })
    (ctxs : ∀ y, y ≠ h.ctxId → t.ctx? y = s.ctx? y)
    (ctx : t.ctx? h.ctxId = some v) (hv : v = { h.ctx with ecnt := v.ecnt }) : Beside h s t := by
  subst core
  refine ⟨dev, SameBytes.of_eq ?_ ?_ ?_ ?_ ?_, cores, ex, bands, crews, ⟨w, crew, hw⟩, ctxs, ⟨v, ctx, hv⟩⟩
  · rw [dev]
  · rw [dev]
  · rw [dev]
  · intro c
    by_cases hc : c = h.core
    · subst hc
      have ex' := ex
      unfold Core.except at ex'
      rw [ex']
      exact ⟨rfl, rfl⟩
    · rw [cores c hc]
      exact ⟨rfl, rfl⟩
  · rw [dev]

/-! ### The end of a word -/

/-- A word that retires leaves its band advanced and everything beside it as it was. -/
theorem Here.retire_law {s : State} {h : Here} (e : s.here? = some h) (b : Band) :
    Beside h s (h.retire s b) ∧ (h.retire s b).band? h.core h.slot = some b.advance := by
  obtain ⟨-, -, hw, hx⟩ := State.here?_some e
  have hw1 : (h.put s b.advance).crew? h.core h.band.crew = some h.crew := by simpa [Here.put] using hw
  have hx1 : ∀ w, ((h.put s b.advance).setCrew h.core h.band.crew w).ctx? h.ctxId = some h.ctx := fun _ => hx
  unfold Here.retire State.retired
  rw [State.modCrew_eq _ _ hw1, State.modCtx_eq _ _ (hx1 _)]
  constructor
  · refine Beside.intro' rfl (fun c hc => ?_) rfl ?_ (fun k hk => ?_) (fun n hn => ?_) ?_ ?_ (fun y hy => ?_) ?_ ?_
      (w := { h.crew with since := (h.put s b.advance).cycle, count := (h.put s b.advance).cycle, used := h.crew.used + Config.eventEnergy 0 1 })
      (v := { h.ctx with ecnt := h.ctx.ecnt + Config.eventEnergy 0 1 })
    · simp [State.coreAt_modCore_ne _ _ hc, State.coreAt_setCrew_ne _ _ _ hc, Here.put, State.coreAt_setBand_ne _ _ _ hc]
    · simp [Core.except, Here.put]
    · simp [Here.put, State.band?, Tab.find_put_ne _ _ hk]
    · simp [Here.put, State.crew?, Tab.find_put_ne _ _ hn]
    · simp
    · rfl
    · simp [State.ctx?_setCtx_ne _ _ hy, Here.put]
    · simp
    · rfl
  · simp [Here.put, State.band?]

/-- Replacing the band again and the replay queue keeps what stands beside the band. -/
theorem Beside.touch {s t : State} {h : Here} (bs : Beside h s t) (b : Band) (q : List (Nat × Sample)) :
    Beside h s ((t.setBand h.core h.slot b).modCore h.core fun x => { x with samples := q }) := by
  obtain ⟨dev, -, cores, core, bands, crews, ⟨w, hw, ew⟩, ctxs, ⟨v, hv, ev⟩⟩ := bs
  refine Beside.intro' ?_ (fun c hc => ?_) rfl ?_ (fun k hk => ?_) (fun n hn => ?_) (w := w) (v := v) ?_ ew ?_ ?_ ev
  · exact congrArg (fun u : State => { u with
      cores := ((t.setBand h.core h.slot b).modCore h.core fun x => { x with samples := q }).cores, ctxs := t.ctxs }) dev
  · rw [State.coreAt_modCore_ne _ _ hc, State.coreAt_setBand_ne _ _ _ hc, cores c hc]
  · unfold Core.except at core ⊢
    simp only [State.coreAt_modCore, State.coreAt_setBand]
    exact congrArg (fun u : Core => { u with
      bands := (t.coreAt h.core).bands.put h.slot b, crews := (t.coreAt h.core).crews,
      retires := (t.coreAt h.core).retires, samples := q }) core
  · rw [← bands k hk]
    simp [State.band?, Tab.find_put_ne _ _ hk]
  · rw [← crews n hn]
    simp [State.crew?]
  · rw [← hw]
    simp [State.crew?]
  · exact ctxs
  · exact hv

/-- The CHECKED count and the replay queue stand beside the band but for its count. -/
theorem State.sample_law {s t : State} {h : Here} {b : Band} (bs : Beside h s t)
    (hb : t.band? h.core h.slot = some b) (m : LaneMask) (chk : Check) :
    Beside h s (t.sample h m chk) ∧ ∃ n, (t.sample h m chk).band? h.core h.slot = some { b with sampled := n } := by
  unfold State.sample
  split
  · exact ⟨bs, b.sampled, hb⟩
  · simp only [State.modBand_eq _ _ hb]
    have keep : t.setBand h.core h.slot { b with sampled := h.band.sampled + 1 }
        = (t.setBand h.core h.slot { b with sampled := h.band.sampled + 1 }).modCore h.core
            fun x => { x with samples := (t.coreAt h.core).samples } := by
      simp [State.modCore, State.setCore, State.setBand, State.coreAt, Tab.put_put]
    split
    · refine ⟨bs.touch _ _, h.band.sampled + 1, ?_⟩
      simp [State.band?]
    · rw [keep]
      refine ⟨bs.touch _ _, h.band.sampled + 1, ?_⟩
      simp [State.band?]

/-! ### Lane instructions and band-level instructions -/

/-- No clone mismatch is taken where none is armed. -/
theorem Ready.cloneMiss {s : State} {h : Here} (r : Ready s h) (m : LaneMask) (chk : Check) :
    s.cloneMiss h m chk = none := by
  unfold State.cloneMiss
  split
  · rw [List.find?_eq_none]
    intro l _ hc
    exact r.clones _ (List.contains_iff_mem.1 hc) ⟨rfl, rfl⟩
  · rfl

/-- A lane instruction retires with the band its effect gives. -/
theorem State.laneOp_law {s : State} {h : Here} (r : Ready s h) (g : Guard) (chk : Check) (f : Here → LaneMask → Band) :
    ∃ t n, s.laneOp g chk f = .next t ∧ Beside h s t
      ∧ t.band? h.core h.slot = some { (f h (h.band.guarded g)).advance with sampled := n } := by
  obtain ⟨bs, hb⟩ := Here.retire_law r.here (f h (h.band.guarded g))
  obtain ⟨bs', n, hb'⟩ := State.sample_law bs hb (h.band.guarded g) chk
  exact ⟨_, n, by simp [State.laneOp, State.onBand_next r.here, r.cloneMiss], bs', hb'⟩

/-- A band-level instruction that retires with a band. -/
theorem State.bandOp_law {s : State} {h : Here} (r : Ready s h) (g : Guard) (hg : h.band.leads g = true) (b : Band)
    {f : Here → State} (hf : f h = h.retire s b) :
    ∃ t, s.bandOp g f = .next t ∧ Beside h s t ∧ t.band? h.core h.slot = some b.advance := by
  obtain ⟨bs, hb⟩ := Here.retire_law r.here b
  exact ⟨_, by simp [State.bandOp, State.onBand_next r.here, hg, hf], bs, hb⟩

/-- A band-level instruction whose guard fails in Leader retires without effect. -/
theorem State.bandOp_skip {s : State} {h : Here} (r : Ready s h) (g : Guard) (hg : h.band.leads g = false)
    (f : Here → State) :
    ∃ t, s.bandOp g f = .next t ∧ Beside h s t ∧ t.band? h.core h.slot = some h.band.advance := by
  obtain ⟨bs, hb⟩ := Here.retire_law r.here h.band
  exact ⟨_, by simp [State.bandOp, State.onBand_next r.here, hg], bs, hb⟩

end Sys2Proof.Machine
end

