-- ==== Sys2Proof/Laws/PerInstr.lean ====
section
/-! SUPPORT. For every constructor: decoding the word of a well-formed instruction gives the instruction back. -/

set_option Elab.async false

namespace Sys2Proof.Laws.Encodes

open Sys2Proof Sys2Proof.Machine

/-- The word of an instruction that has one (no event, and no illegal word) decodes to it when its fields are those it
permits (02_formats.md R31, R37). -/
def Statement (i : Instr) : Prop :=
  isEvent i = false → i ≠ .skip → (∀ w, i ≠ .illenc w) → i.wf = true → decode (encode i) = .ok i

theorem opc_toNat (w : DWord) : (bitsOf w 0 8).toNat = w.toNat % 256 := by
  simp [bitsOf]

theorem of_raw {i : Instr} (h : rawInstr (encode i) = some i) : Statement i := by
  intro _ _ _ hw
  simp [decode, h, hw]

theorem nop (f : FC) : Statement (.nop f) := of_raw (by
  show rawInstr (packFC 0x00 f) = _
  delta rawInstr; rw [opc_packFC]; exact congrArg (fun x => some (Instr.nop x)) (parse_packFC _ f))
theorem lbl (f : FC) : Statement (.lbl f) := of_raw (by
  show rawInstr (packFC 0x01 f) = _
  delta rawInstr; rw [opc_packFC]; exact congrArg (fun x => some (Instr.lbl x)) (parse_packFC _ f))
theorem go (f : FC) : Statement (.go f) := of_raw (by
  show rawInstr (packFC 0x02 f) = _
  delta rawInstr; rw [opc_packFC]; exact congrArg (fun x => some (Instr.go x)) (parse_packFC _ f))
theorem goi (f : FC) : Statement (.goi f) := of_raw (by
  show rawInstr (packFC 0x03 f) = _
  delta rawInstr; rw [opc_packFC]; exact congrArg (fun x => some (Instr.goi x)) (parse_packFC _ f))
theorem call (f : FC) : Statement (.call f) := of_raw (by
  show rawInstr (packFC 0x04 f) = _
  delta rawInstr; rw [opc_packFC]; exact congrArg (fun x => some (Instr.call x)) (parse_packFC _ f))
theorem calli (f : FC) : Statement (.calli f) := of_raw (by
  show rawInstr (packFC 0x05 f) = _
  delta rawInstr; rw [opc_packFC]; exact congrArg (fun x => some (Instr.calli x)) (parse_packFC _ f))
theorem ret (f : FC) : Statement (.ret f) := of_raw (by
  show rawInstr (packFC 0x06 f) = _
  delta rawInstr; rw [opc_packFC]; exact congrArg (fun x => some (Instr.ret x)) (parse_packFC _ f))
theorem exit (f : FC) : Statement (.exit f) := of_raw (by
  show rawInstr (packFC 0x07 f) = _
  delta rawInstr; rw [opc_packFC]; exact congrArg (fun x => some (Instr.exit x)) (parse_packFC _ f))
theorem yieldBand (f : FC) : Statement (.yieldBand f) := of_raw (by
  show rawInstr (packFC 0x08 f) = _
  delta rawInstr; rw [opc_packFC]; exact congrArg (fun x => some (Instr.yieldBand x)) (parse_packFC _ f))
theorem lblid (f : FI) : Statement (.lblid f) := of_raw (by
  show rawInstr (packFI 0x09 f) = _
  delta rawInstr; rw [opc_packFI]; exact congrArg (fun x => some (Instr.lblid x)) (parse_packFI _ f))
theorem swcnt (f : FS) : Statement (.swcnt f) := of_raw (by
  show rawInstr (packFS 0x0A f) = _
  delta rawInstr; rw [opc_packFS]; exact congrArg (fun x => some (Instr.swcnt x)) (parse_packFS _ f))
theorem cens (f : FS) : Statement (.cens f) := of_raw (by
  show rawInstr (packFS 0x0B f) = _
  delta rawInstr; rw [opc_packFS]; exact congrArg (fun x => some (Instr.cens x)) (parse_packFS _ f))
theorem iadd (f : FV) : Statement (.iadd f) := of_raw (by
  show rawInstr (packFV 0x10 f) = _
  delta rawInstr; rw [opc_packFV]; exact congrArg (fun x => some (Instr.iadd x)) (parse_packFV _ f))
theorem isub (f : FV) : Statement (.isub f) := of_raw (by
  show rawInstr (packFV 0x11 f) = _
  delta rawInstr; rw [opc_packFV]; exact congrArg (fun x => some (Instr.isub x)) (parse_packFV _ f))
theorem imul (f : FV) : Statement (.imul f) := of_raw (by
  show rawInstr (packFV 0x12 f) = _
  delta rawInstr; rw [opc_packFV]; exact congrArg (fun x => some (Instr.imul x)) (parse_packFV _ f))
theorem imulh (f : FV) : Statement (.imulh f) := of_raw (by
  show rawInstr (packFV 0x13 f) = _
  delta rawInstr; rw [opc_packFV]; exact congrArg (fun x => some (Instr.imulh x)) (parse_packFV _ f))
theorem imad (f : FV) : Statement (.imad f) := of_raw (by
  show rawInstr (packFV 0x14 f) = _
  delta rawInstr; rw [opc_packFV]; exact congrArg (fun x => some (Instr.imad x)) (parse_packFV _ f))
theorem imadw (f : FV) : Statement (.imadw f) := of_raw (by
  show rawInstr (packFV 0x15 f) = _
  delta rawInstr; rw [opc_packFV]; exact congrArg (fun x => some (Instr.imadw x)) (parse_packFV _ f))
theorem imin (f : FV) : Statement (.imin f) := of_raw (by
  show rawInstr (packFV 0x16 f) = _
  delta rawInstr; rw [opc_packFV]; exact congrArg (fun x => some (Instr.imin x)) (parse_packFV _ f))
theorem imax (f : FV) : Statement (.imax f) := of_raw (by
  show rawInstr (packFV 0x17 f) = _
  delta rawInstr; rw [opc_packFV]; exact congrArg (fun x => some (Instr.imax x)) (parse_packFV _ f))
theorem iabs (f : FV) : Statement (.iabs f) := of_raw (by
  show rawInstr (packFV 0x18 f) = _
  delta rawInstr; rw [opc_packFV]; exact congrArg (fun x => some (Instr.iabs x)) (parse_packFV _ f))
theorem ineg (f : FV) : Statement (.ineg f) := of_raw (by
  show rawInstr (packFV 0x19 f) = _
  delta rawInstr; rw [opc_packFV]; exact congrArg (fun x => some (Instr.ineg x)) (parse_packFV _ f))
theorem iaddc (f : FV) : Statement (.iaddc f) := of_raw (by
  show rawInstr (packFV 0x1A f) = _
  delta rawInstr; rw [opc_packFV]; exact congrArg (fun x => some (Instr.iaddc x)) (parse_packFV _ f))
theorem icmp (f : FV) : Statement (.icmp f) := of_raw (by
  show rawInstr (packFV 0x1B f) = _
  delta rawInstr; rw [opc_packFV]; exact congrArg (fun x => some (Instr.icmp x)) (parse_packFV _ f))
theorem isel (f : FV) : Statement (.isel f) := of_raw (by
  show rawInstr (packFV 0x1C f) = _
  delta rawInstr; rw [opc_packFV]; exact congrArg (fun x => some (Instr.isel x)) (parse_packFV _ f))
theorem lea (f : FV) : Statement (.lea f) := of_raw (by
  show rawInstr (packFV 0x1D f) = _
  delta rawInstr; rw [opc_packFV]; exact congrArg (fun x => some (Instr.lea x)) (parse_packFV _ f))
theorem isad (f : FV) : Statement (.isad f) := of_raw (by
  show rawInstr (packFV 0x1E f) = _
  delta rawInstr; rw [opc_packFV]; exact congrArg (fun x => some (Instr.isad x)) (parse_packFV _ f))
theorem mov (f : FV) : Statement (.mov f) := of_raw (by
  show rawInstr (packFV 0x1F f) = _
  delta rawInstr; rw [opc_packFV]; exact congrArg (fun x => some (Instr.mov x)) (parse_packFV _ f))
theorem vand (f : FV) : Statement (.vand f) := of_raw (by
  show rawInstr (packFV 0x20 f) = _
  delta rawInstr; rw [opc_packFV]; exact congrArg (fun x => some (Instr.vand x)) (parse_packFV _ f))
theorem vor (f : FV) : Statement (.vor f) := of_raw (by
  show rawInstr (packFV 0x21 f) = _
  delta rawInstr; rw [opc_packFV]; exact congrArg (fun x => some (Instr.vor x)) (parse_packFV _ f))
theorem vxor (f : FV) : Statement (.vxor f) := of_raw (by
  show rawInstr (packFV 0x22 f) = _
  delta rawInstr; rw [opc_packFV]; exact congrArg (fun x => some (Instr.vxor x)) (parse_packFV _ f))
theorem vnot (f : FV) : Statement (.vnot f) := of_raw (by
  show rawInstr (packFV 0x23 f) = _
  delta rawInstr; rw [opc_packFV]; exact congrArg (fun x => some (Instr.vnot x)) (parse_packFV _ f))
theorem shl (f : FV) : Statement (.shl f) := of_raw (by
  show rawInstr (packFV 0x24 f) = _
  delta rawInstr; rw [opc_packFV]; exact congrArg (fun x => some (Instr.shl x)) (parse_packFV _ f))
theorem shr (f : FV) : Statement (.shr f) := of_raw (by
  show rawInstr (packFV 0x25 f) = _
  delta rawInstr; rw [opc_packFV]; exact congrArg (fun x => some (Instr.shr x)) (parse_packFV _ f))
theorem sar (f : FV) : Statement (.sar f) := of_raw (by
  show rawInstr (packFV 0x26 f) = _
  delta rawInstr; rw [opc_packFV]; exact congrArg (fun x => some (Instr.sar x)) (parse_packFV _ f))
theorem rot (f : FV) : Statement (.rot f) := of_raw (by
  show rawInstr (packFV 0x27 f) = _
  delta rawInstr; rw [opc_packFV]; exact congrArg (fun x => some (Instr.rot x)) (parse_packFV _ f))
theorem bfe (f : FV) : Statement (.bfe f) := of_raw (by
  show rawInstr (packFV 0x28 f) = _
  delta rawInstr; rw [opc_packFV]; exact congrArg (fun x => some (Instr.bfe x)) (parse_packFV _ f))
theorem bfi (f : FV) : Statement (.bfi f) := of_raw (by
  show rawInstr (packFV 0x29 f) = _
  delta rawInstr; rw [opc_packFV]; exact congrArg (fun x => some (Instr.bfi x)) (parse_packFV _ f))
theorem popc (f : FV) : Statement (.popc f) := of_raw (by
  show rawInstr (packFV 0x2A f) = _
  delta rawInstr; rw [opc_packFV]; exact congrArg (fun x => some (Instr.popc x)) (parse_packFV _ f))
theorem clz (f : FV) : Statement (.clz f) := of_raw (by
  show rawInstr (packFV 0x2B f) = _
  delta rawInstr; rw [opc_packFV]; exact congrArg (fun x => some (Instr.clz x)) (parse_packFV _ f))
theorem brev (f : FV) : Statement (.brev f) := of_raw (by
  show rawInstr (packFV 0x2C f) = _
  delta rawInstr; rw [opc_packFV]; exact congrArg (fun x => some (Instr.brev x)) (parse_packFV _ f))
theorem prmb (f : FV) : Statement (.prmb f) := of_raw (by
  show rawInstr (packFV 0x2D f) = _
  delta rawInstr; rw [opc_packFV]; exact congrArg (fun x => some (Instr.prmb x)) (parse_packFV _ f))
theorem movi (f : FI) : Statement (.movi f) := of_raw (by
  show rawInstr (packFI 0x2E f) = _
  delta rawInstr; rw [opc_packFI]; exact congrArg (fun x => some (Instr.movi x)) (parse_packFI _ f))
theorem iaddi (f : FI) : Statement (.iaddi f) := of_raw (by
  show rawInstr (packFI 0x2F f) = _
  delta rawInstr; rw [opc_packFI]; exact congrArg (fun x => some (Instr.iaddi x)) (parse_packFI _ f))
theorem fadd (f : FV) : Statement (.fadd f) := of_raw (by
  show rawInstr (packFV 0x30 f) = _
  delta rawInstr; rw [opc_packFV]; exact congrArg (fun x => some (Instr.fadd x)) (parse_packFV _ f))
theorem fmul (f : FV) : Statement (.fmul f) := of_raw (by
  show rawInstr (packFV 0x31 f) = _
  delta rawInstr; rw [opc_packFV]; exact congrArg (fun x => some (Instr.fmul x)) (parse_packFV _ f))
theorem ffma (f : FV) : Statement (.ffma f) := of_raw (by
  show rawInstr (packFV 0x32 f) = _
  delta rawInstr; rw [opc_packFV]; exact congrArg (fun x => some (Instr.ffma x)) (parse_packFV _ f))
theorem fmin (f : FV) : Statement (.fmin f) := of_raw (by
  show rawInstr (packFV 0x33 f) = _
  delta rawInstr; rw [opc_packFV]; exact congrArg (fun x => some (Instr.fmin x)) (parse_packFV _ f))
theorem fmax (f : FV) : Statement (.fmax f) := of_raw (by
  show rawInstr (packFV 0x34 f) = _
  delta rawInstr; rw [opc_packFV]; exact congrArg (fun x => some (Instr.fmax x)) (parse_packFV _ f))
theorem fcmp (f : FV) : Statement (.fcmp f) := of_raw (by
  show rawInstr (packFV 0x35 f) = _
  delta rawInstr; rw [opc_packFV]; exact congrArg (fun x => some (Instr.fcmp x)) (parse_packFV _ f))
theorem fsfu (f : FV) : Statement (.fsfu f) := of_raw (by
  show rawInstr (packFV 0x36 f) = _
  delta rawInstr; rw [opc_packFV]; exact congrArg (fun x => some (Instr.fsfu x)) (parse_packFV _ f))
theorem frnd (f : FV) : Statement (.frnd f) := of_raw (by
  show rawInstr (packFV 0x37 f) = _
  delta rawInstr; rw [opc_packFV]; exact congrArg (fun x => some (Instr.frnd x)) (parse_packFV _ f))
theorem fclass (f : FV) : Statement (.fclass f) := of_raw (by
  show rawInstr (packFV 0x38 f) = _
  delta rawInstr; rw [opc_packFV]; exact congrArg (fun x => some (Instr.fclass x)) (parse_packFV _ f))
theorem fdiv (f : FV) : Statement (.fdiv f) := of_raw (by
  show rawInstr (packFV 0x39 f) = _
  delta rawInstr; rw [opc_packFV]; exact congrArg (fun x => some (Instr.fdiv x)) (parse_packFV _ f))
theorem cvt (f : FV) : Statement (.cvt f) := of_raw (by
  show rawInstr (packFV 0x40 f) = _
  delta rawInstr; rw [opc_packFV]; exact congrArg (fun x => some (Instr.cvt x)) (parse_packFV _ f))
theorem qnt (f : FV) : Statement (.qnt f) := of_raw (by
  show rawInstr (packFV 0x41 f) = _
  delta rawInstr; rw [opc_packFV]; exact congrArg (fun x => some (Instr.qnt x)) (parse_packFV _ f))
theorem dqnt (f : FV) : Statement (.dqnt f) := of_raw (by
  show rawInstr (packFV 0x42 f) = _
  delta rawInstr; rw [opc_packFV]; exact congrArg (fun x => some (Instr.dqnt x)) (parse_packFV _ f))
theorem amax (f : FV) : Statement (.amax f) := of_raw (by
  show rawInstr (packFV 0x43 f) = _
  delta rawInstr; rw [opc_packFV]; exact congrArg (fun x => some (Instr.amax x)) (parse_packFV _ f))
theorem pkt5 (f : FV) : Statement (.pkt5 f) := of_raw (by
  show rawInstr (packFV 0x44 f) = _
  delta rawInstr; rw [opc_packFV]; exact congrArg (fun x => some (Instr.pkt5 x)) (parse_packFV _ f))
theorem upkt5 (f : FV) : Statement (.upkt5 f) := of_raw (by
  show rawInstr (packFV 0x45 f) = _
  delta rawInstr; rw [opc_packFV]; exact congrArg (fun x => some (Instr.upkt5 x)) (parse_packFV _ f))
theorem shfl (f : FV) : Statement (.shfl f) := of_raw (by
  show rawInstr (packFV 0x50 f) = _
  delta rawInstr; rw [opc_packFV]; exact congrArg (fun x => some (Instr.shfl x)) (parse_packFV _ f))
theorem scan (f : FV) : Statement (.scan f) := of_raw (by
  show rawInstr (packFV 0x51 f) = _
  delta rawInstr; rw [opc_packFV]; exact congrArg (fun x => some (Instr.scan x)) (parse_packFV _ f))
theorem rdc (f : FV) : Statement (.rdc f) := of_raw (by
  show rawInstr (packFV 0x52 f) = _
  delta rawInstr; rw [opc_packFV]; exact congrArg (fun x => some (Instr.rdc x)) (parse_packFV _ f))
theorem cmpct (f : FV) : Statement (.cmpct f) := of_raw (by
  show rawInstr (packFV 0x53 f) = _
  delta rawInstr; rw [opc_packFV]; exact congrArg (fun x => some (Instr.cmpct x)) (parse_packFV _ f))
theorem vote (f : FV) : Statement (.vote f) := of_raw (by
  show rawInstr (packFV 0x54 f) = _
  delta rawInstr; rw [opc_packFV]; exact congrArg (fun x => some (Instr.vote x)) (parse_packFV _ f))
theorem sadd (f : FS) : Statement (.sadd f) := of_raw (by
  show rawInstr (packFS 0x60 f) = _
  delta rawInstr; rw [opc_packFS]; exact congrArg (fun x => some (Instr.sadd x)) (parse_packFS _ f))
theorem ssub (f : FS) : Statement (.ssub f) := of_raw (by
  show rawInstr (packFS 0x61 f) = _
  delta rawInstr; rw [opc_packFS]; exact congrArg (fun x => some (Instr.ssub x)) (parse_packFS _ f))
theorem smul (f : FS) : Statement (.smul f) := of_raw (by
  show rawInstr (packFS 0x62 f) = _
  delta rawInstr; rw [opc_packFS]; exact congrArg (fun x => some (Instr.smul x)) (parse_packFS _ f))
theorem sand (f : FS) : Statement (.sand f) := of_raw (by
  show rawInstr (packFS 0x63 f) = _
  delta rawInstr; rw [opc_packFS]; exact congrArg (fun x => some (Instr.sand x)) (parse_packFS _ f))
theorem sor (f : FS) : Statement (.sor f) := of_raw (by
  show rawInstr (packFS 0x64 f) = _
  delta rawInstr; rw [opc_packFS]; exact congrArg (fun x => some (Instr.sor x)) (parse_packFS _ f))
theorem sxor (f : FS) : Statement (.sxor f) := of_raw (by
  show rawInstr (packFS 0x65 f) = _
  delta rawInstr; rw [opc_packFS]; exact congrArg (fun x => some (Instr.sxor x)) (parse_packFS _ f))
theorem sshl (f : FS) : Statement (.sshl f) := of_raw (by
  show rawInstr (packFS 0x66 f) = _
  delta rawInstr; rw [opc_packFS]; exact congrArg (fun x => some (Instr.sshl x)) (parse_packFS _ f))
theorem sshr (f : FS) : Statement (.sshr f) := of_raw (by
  show rawInstr (packFS 0x67 f) = _
  delta rawInstr; rw [opc_packFS]; exact congrArg (fun x => some (Instr.sshr x)) (parse_packFS _ f))
theorem smov (f : FS) : Statement (.smov f) := of_raw (by
  show rawInstr (packFS 0x68 f) = _
  delta rawInstr; rw [opc_packFS]; exact congrArg (fun x => some (Instr.smov x)) (parse_packFS _ f))
theorem scmp (f : FS) : Statement (.scmp f) := of_raw (by
  show rawInstr (packFS 0x69 f) = _
  delta rawInstr; rw [opc_packFS]; exact congrArg (fun x => some (Instr.scmp x)) (parse_packFS _ f))
theorem ssel (f : FS) : Statement (.ssel f) := of_raw (by
  show rawInstr (packFS 0x6A f) = _
  delta rawInstr; rw [opc_packFS]; exact congrArg (fun x => some (Instr.ssel x)) (parse_packFS _ f))
theorem srdl (f : FS) : Statement (.srdl f) := of_raw (by
  show rawInstr (packFS 0x6B f) = _
  delta rawInstr; rw [opc_packFS]; exact congrArg (fun x => some (Instr.srdl x)) (parse_packFS _ f))
theorem smin (f : FS) : Statement (.smin f) := of_raw (by
  show rawInstr (packFS 0x6C f) = _
  delta rawInstr; rw [opc_packFS]; exact congrArg (fun x => some (Instr.smin x)) (parse_packFS _ f))
theorem smax (f : FS) : Statement (.smax f) := of_raw (by
  show rawInstr (packFS 0x6D f) = _
  delta rawInstr; rw [opc_packFS]; exact congrArg (fun x => some (Instr.smax x)) (parse_packFS _ f))
theorem smovi (f : FS) : Statement (.smovi f) := of_raw (by
  show rawInstr (packFS 0x6E f) = _
  delta rawInstr; rw [opc_packFS]; exact congrArg (fun x => some (Instr.smovi x)) (parse_packFS _ f))
theorem smovh (f : FS) : Statement (.smovh f) := of_raw (by
  show rawInstr (packFS 0x6F f) = _
  delta rawInstr; rw [opc_packFS]; exact congrArg (fun x => some (Instr.smovh x)) (parse_packFS _ f))
theorem plop (f : FV) : Statement (.plop f) := of_raw (by
  show rawInstr (packFV 0x70 f) = _
  delta rawInstr; rw [opc_packFV]; exact congrArg (fun x => some (Instr.plop x)) (parse_packFV _ f))
theorem pset (f : FI) : Statement (.pset f) := of_raw (by
  show rawInstr (packFI 0x71 f) = _
  delta rawInstr; rw [opc_packFI]; exact congrArg (fun x => some (Instr.pset x)) (parse_packFI _ f))
theorem ptov (f : FV) : Statement (.ptov f) := of_raw (by
  show rawInstr (packFV 0x72 f) = _
  delta rawInstr; rw [opc_packFV]; exact congrArg (fun x => some (Instr.ptov x)) (parse_packFV _ f))
theorem vtop (f : FV) : Statement (.vtop f) := of_raw (by
  show rawInstr (packFV 0x73 f) = _
  delta rawInstr; rw [opc_packFV]; exact congrArg (fun x => some (Instr.vtop x)) (parse_packFV _ f))
theorem pcnt (f : FV) : Statement (.pcnt f) := of_raw (by
  show rawInstr (packFV 0x74 f) = _
  delta rawInstr; rw [opc_packFV]; exact congrArg (fun x => some (Instr.pcnt x)) (parse_packFV _ f))
theorem sprd (f : FV) : Statement (.sprd f) := of_raw (by
  show rawInstr (packFV 0x75 f) = _
  delta rawInstr; rw [opc_packFV]; exact congrArg (fun x => some (Instr.sprd x)) (parse_packFV _ f))
theorem ld (f : FM) : Statement (.ld f) := of_raw (by
  show rawInstr (packFM 0x80 f) = _
  delta rawInstr; rw [opc_packFM]; exact congrArg (fun x => some (Instr.ld x)) (parse_packFM _ f))
theorem st (f : FM) : Statement (.st f) := of_raw (by
  show rawInstr (packFM 0x81 f) = _
  delta rawInstr; rw [opc_packFM]; exact congrArg (fun x => some (Instr.st x)) (parse_packFM _ f))
theorem lds (f : FM) : Statement (.lds f) := of_raw (by
  show rawInstr (packFM 0x82 f) = _
  delta rawInstr; rw [opc_packFM]; exact congrArg (fun x => some (Instr.lds x)) (parse_packFM _ f))
theorem sts (f : FM) : Statement (.sts f) := of_raw (by
  show rawInstr (packFM 0x83 f) = _
  delta rawInstr; rw [opc_packFM]; exact congrArg (fun x => some (Instr.sts x)) (parse_packFM _ f))
theorem pref (f : FM) : Statement (.pref f) := of_raw (by
  show rawInstr (packFM 0x84 f) = _
  delta rawInstr; rw [opc_packFM]; exact congrArg (fun x => some (Instr.pref x)) (parse_packFM _ f))
theorem cctl (f : FM) : Statement (.cctl f) := of_raw (by
  show rawInstr (packFM 0x85 f) = _
  delta rawInstr; rw [opc_packFM]; exact congrArg (fun x => some (Instr.cctl x)) (parse_packFM _ f))
theorem fence (f : FY) : Statement (.fence f) := of_raw (by
  show rawInstr (packFY 0x86 f) = _
  delta rawInstr; rw [opc_packFY]; exact congrArg (fun x => some (Instr.fence x)) (parse_packFY _ f))
theorem fencex (f : FY) : Statement (.fencex f) := of_raw (by
  show rawInstr (packFY 0x87 f) = _
  delta rawInstr; rw [opc_packFY]; exact congrArg (fun x => some (Instr.fencex x)) (parse_packFY _ f))
theorem waitc (f : FY) : Statement (.waitc f) := of_raw (by
  show rawInstr (packFY 0x88 f) = _
  delta rawInstr; rw [opc_packFY]; exact congrArg (fun x => some (Instr.waitc x)) (parse_packFY _ f))
theorem ldtr (f : FM) : Statement (.ldtr f) := of_raw (by
  show rawInstr (packFM 0x89 f) = _
  delta rawInstr; rw [opc_packFM]; exact congrArg (fun x => some (Instr.ldtr x)) (parse_packFM _ f))
theorem atom (f : FA) : Statement (.atom f) := of_raw (by
  show rawInstr (packFA 0x90 f) = _
  delta rawInstr; rw [opc_packFA]; exact congrArg (fun x => some (Instr.atom x)) (parse_packFA _ f))
theorem acas (f : FA) : Statement (.acas f) := of_raw (by
  show rawInstr (packFA 0x91 f) = _
  delta rawInstr; rw [opc_packFA]; exact congrArg (fun x => some (Instr.acas x)) (parse_packFA _ f))
theorem atoms (f : FA) : Statement (.atoms f) := of_raw (by
  show rawInstr (packFA 0x92 f) = _
  delta rawInstr; rw [opc_packFA]; exact congrArg (fun x => some (Instr.atoms x)) (parse_packFA _ f))
theorem red (f : FA) : Statement (.red f) := of_raw (by
  show rawInstr (packFA 0x93 f) = _
  delta rawInstr; rw [opc_packFA]; exact congrArg (fun x => some (Instr.red x)) (parse_packFA _ f))
theorem cpyLin (f : FE) : Statement (.cpyLin f) := of_raw (by
  show rawInstr (packFE 0xA0 0x00 f) = _
  delta rawInstr; rw [opc_packFE]; show rawEng _ = _
  delta rawEng; rw [fn_packFE]; exact congrArg (fun x => some (Instr.cpyLin x)) (parse_packFE _ _ f))
theorem cpy2d (f : FE) : Statement (.cpy2d f) := of_raw (by
  show rawInstr (packFE 0xA0 0x01 f) = _
  delta rawInstr; rw [opc_packFE]; show rawEng _ = _
  delta rawEng; rw [fn_packFE]; exact congrArg (fun x => some (Instr.cpy2d x)) (parse_packFE _ _ f))
theorem cpyRowg (f : FE) : Statement (.cpyRowg f) := of_raw (by
  show rawInstr (packFE 0xA0 0x02 f) = _
  delta rawInstr; rw [opc_packFE]; show rawEng _ = _
  delta rawEng; rw [fn_packFE]; exact congrArg (fun x => some (Instr.cpyRowg x)) (parse_packFE _ _ f))
theorem cpyRows (f : FE) : Statement (.cpyRows f) := of_raw (by
  show rawInstr (packFE 0xA0 0x03 f) = _
  delta rawInstr; rw [opc_packFE]; show rawEng _ = _
  delta rawEng; rw [fn_packFE]; exact congrArg (fun x => some (Instr.cpyRows x)) (parse_packFE _ _ f))
theorem cpyMrow (f : FE) : Statement (.cpyMrow f) := of_raw (by
  show rawInstr (packFE 0xA0 0x04 f) = _
  delta rawInstr; rw [opc_packFE]; show rawEng _ = _
  delta rawEng; rw [fn_packFE]; exact congrArg (fun x => some (Instr.cpyMrow x)) (parse_packFE _ _ f))
theorem cpyFill (f : FE) : Statement (.cpyFill f) := of_raw (by
  show rawInstr (packFE 0xA0 0x05 f) = _
  delta rawInstr; rw [opc_packFE]; show rawEng _ = _
  delta rawEng; rw [fn_packFE]; exact congrArg (fun x => some (Instr.cpyFill x)) (parse_packFE _ _ f))
theorem cpyZc (f : FE) : Statement (.cpyZc f) := of_raw (by
  show rawInstr (packFE 0xA0 0x06 f) = _
  delta rawInstr; rw [opc_packFE]; show rawEng _ = _
  delta rawEng; rw [fn_packFE]; exact congrArg (fun x => some (Instr.cpyZc x)) (parse_packFE _ _ f))
theorem cpyZd (f : FE) : Statement (.cpyZd f) := of_raw (by
  show rawInstr (packFE 0xA0 0x07 f) = _
  delta rawInstr; rw [opc_packFE]; show rawEng _ = _
  delta rawEng; rw [fn_packFE]; exact congrArg (fun x => some (Instr.cpyZd x)) (parse_packFE _ _ f))
theorem collAr (f : FE) : Statement (.collAr f) := of_raw (by
  show rawInstr (packFE 0xA0 0x10 f) = _
  delta rawInstr; rw [opc_packFE]; show rawEng _ = _
  delta rawEng; rw [fn_packFE]; exact congrArg (fun x => some (Instr.collAr x)) (parse_packFE _ _ f))
theorem collRs (f : FE) : Statement (.collRs f) := of_raw (by
  show rawInstr (packFE 0xA0 0x11 f) = _
  delta rawInstr; rw [opc_packFE]; show rawEng _ = _
  delta rawEng; rw [fn_packFE]; exact congrArg (fun x => some (Instr.collRs x)) (parse_packFE _ _ f))
theorem collAg (f : FE) : Statement (.collAg f) := of_raw (by
  show rawInstr (packFE 0xA0 0x12 f) = _
  delta rawInstr; rw [opc_packFE]; show rawEng _ = _
  delta rawEng; rw [fn_packFE]; exact congrArg (fun x => some (Instr.collAg x)) (parse_packFE _ _ f))
theorem collBc (f : FE) : Statement (.collBc f) := of_raw (by
  show rawInstr (packFE 0xA0 0x13 f) = _
  delta rawInstr; rw [opc_packFE]; show rawEng _ = _
  delta rawEng; rw [fn_packFE]; exact congrArg (fun x => some (Instr.collBc x)) (parse_packFE _ _ f))
theorem ckpt (f : FE) : Statement (.ckpt f) := of_raw (by
  show rawInstr (packFE 0xA0 0x20 f) = _
  delta rawInstr; rw [opc_packFE]; show rawEng _ = _
  delta rawEng; rw [fn_packFE]; exact congrArg (fun x => some (Instr.ckpt x)) (parse_packFE _ _ f))
theorem binit (f : FE) : Statement (.binit f) := of_raw (by
  show rawInstr (packFE 0xA1 0 f) = _
  delta rawInstr; rw [opc_packFE]; exact congrArg (fun x => some (Instr.binit x)) (parse_packFE _ _ f))
theorem barv (f : FE) : Statement (.barv f) := of_raw (by
  show rawInstr (packFE 0xA2 0 f) = _
  delta rawInstr; rw [opc_packFE]; exact congrArg (fun x => some (Instr.barv x)) (parse_packFE _ _ f))
theorem bwait (f : FB) : Statement (.bwait f) := of_raw (by
  show rawInstr (packFB 0xA3 f) = _
  delta rawInstr; rw [opc_packFB]; exact congrArg (fun x => some (Instr.bwait x)) (parse_packFB _ f))
theorem bexp (f : FE) : Statement (.bexp f) := of_raw (by
  show rawInstr (packFE 0xA4 0 f) = _
  delta rawInstr; rw [opc_packFE]; exact congrArg (fun x => some (Instr.bexp x)) (parse_packFE _ _ f))
theorem btest (f : FE) : Statement (.btest f) := of_raw (by
  show rawInstr (packFE 0xA5 0 f) = _
  delta rawInstr; rw [opc_packFE]; exact congrArg (fun x => some (Instr.btest x)) (parse_packFE _ _ f))
theorem mldb (f : FX) : Statement (.mldb f) := of_raw (by
  show rawInstr (packFX 0xB0 f) = _
  delta rawInstr; rw [opc_packFX]; exact congrArg (fun x => some (Instr.mldb x)) (parse_packFX _ f))
theorem mbank (f : FX) : Statement (.mbank f) := of_raw (by
  show rawInstr (packFX 0xB1 f) = _
  delta rawInstr; rw [opc_packFX]; exact congrArg (fun x => some (Instr.mbank x)) (parse_packFX _ f))
theorem mma (f : FX) : Statement (.mma f) := of_raw (by
  show rawInstr (packFX 0xB2 f) = _
  delta rawInstr; rw [opc_packFX]; exact congrArg (fun x => some (Instr.mma x)) (parse_packFX _ f))
theorem mmag (f : FX) : Statement (.mmag f) := of_raw (by
  show rawInstr (packFX 0xB3 f) = _
  delta rawInstr; rw [opc_packFX]; exact congrArg (fun x => some (Instr.mmag x)) (parse_packFX _ f))
theorem macz (f : FX) : Statement (.macz f) := of_raw (by
  show rawInstr (packFX 0xB4 f) = _
  delta rawInstr; rw [opc_packFX]; exact congrArg (fun x => some (Instr.macz x)) (parse_packFX _ f))
theorem macr (f : FX) : Statement (.macr f) := of_raw (by
  show rawInstr (packFX 0xB5 f) = _
  delta rawInstr; rw [opc_packFX]; exact congrArg (fun x => some (Instr.macr x)) (parse_packFX _ f))
theorem macv (f : FX) : Statement (.macv f) := of_raw (by
  show rawInstr (packFX 0xB6 f) = _
  delta rawInstr; rw [opc_packFX]; exact congrArg (fun x => some (Instr.macv x)) (parse_packFX _ f))
theorem clcfg (f : FX) : Statement (.clcfg f) := of_raw (by
  show rawInstr (packFX 0xC0 f) = _
  delta rawInstr; rw [opc_packFX]; exact congrArg (fun x => some (Instr.clcfg x)) (parse_packFX _ f))
theorem clld (f : FX) : Statement (.clld f) := of_raw (by
  show rawInstr (packFX 0xC1 f) = _
  delta rawInstr; rw [opc_packFX]; exact congrArg (fun x => some (Instr.clld x)) (parse_packFX _ f))
theorem clst (f : FX) : Statement (.clst f) := of_raw (by
  show rawInstr (packFX 0xC2 f) = _
  delta rawInstr; rw [opc_packFX]; exact congrArg (fun x => some (Instr.clst x)) (parse_packFX _ f))
theorem clinf (f : FX) : Statement (.clinf f) := of_raw (by
  show rawInstr (packFX 0xC3 f) = _
  delta rawInstr; rw [opc_packFX]; exact congrArg (fun x => some (Instr.clinf x)) (parse_packFX _ f))
theorem clvote (f : FX) : Statement (.clvote f) := of_raw (by
  show rawInstr (packFX 0xC4 f) = _
  delta rawInstr; rw [opc_packFX]; exact congrArg (fun x => some (Instr.clvote x)) (parse_packFX _ f))
theorem clfb (f : FX) : Statement (.clfb f) := of_raw (by
  show rawInstr (packFX 0xC5 f) = _
  delta rawInstr; rw [opc_packFX]; exact congrArg (fun x => some (Instr.clfb x)) (parse_packFX _ f))
theorem cltab (f : FX) : Statement (.cltab f) := of_raw (by
  show rawInstr (packFX 0xC6 f) = _
  delta rawInstr; rw [opc_packFX]; exact congrArg (fun x => some (Instr.cltab x)) (parse_packFX _ f))
theorem clseed (f : FX) : Statement (.clseed f) := of_raw (by
  show rawInstr (packFX 0xC7 f) = _
  delta rawInstr; rw [opc_packFX]; exact congrArg (fun x => some (Instr.clseed x)) (parse_packFX _ f))
theorem clfnc (f : FX) : Statement (.clfnc f) := of_raw (by
  show rawInstr (packFX 0xC8 f) = _
  delta rawInstr; rw [opc_packFX]; exact congrArg (fun x => some (Instr.clfnc x)) (parse_packFX _ f))
theorem clcnt (f : FX) : Statement (.clcnt f) := of_raw (by
  show rawInstr (packFX 0xC9 f) = _
  delta rawInstr; rw [opc_packFX]; exact congrArg (fun x => some (Instr.clcnt x)) (parse_packFX _ f))
theorem spawn (f : FC) : Statement (.spawn f) := of_raw (by
  show rawInstr (packFC 0xD0 f) = _
  delta rawInstr; rw [opc_packFC]; exact congrArg (fun x => some (Instr.spawn x)) (parse_packFC _ f))
theorem tqenq (f : FE) : Statement (.tqenq f) := of_raw (by
  show rawInstr (packFE 0xD1 0 f) = _
  delta rawInstr; rw [opc_packFE]; exact congrArg (fun x => some (Instr.tqenq x)) (parse_packFE _ _ f))
theorem tqdeq (f : FE) : Statement (.tqdeq f) := of_raw (by
  show rawInstr (packFE 0xD2 0 f) = _
  delta rawInstr; rw [opc_packFE]; exact congrArg (fun x => some (Instr.tqdeq x)) (parse_packFE _ _ f))
theorem dcinit (f : FE) : Statement (.dcinit f) := of_raw (by
  show rawInstr (packFE 0xD3 0 f) = _
  delta rawInstr; rw [opc_packFE]; exact congrArg (fun x => some (Instr.dcinit x)) (parse_packFE _ _ f))
theorem dcdec (f : FE) : Statement (.dcdec f) := of_raw (by
  show rawInstr (packFE 0xD4 0 f) = _
  delta rawInstr; rw [opc_packFE]; exact congrArg (fun x => some (Instr.dcdec x)) (parse_packFE _ _ f))
theorem dcadd (f : FE) : Statement (.dcadd f) := of_raw (by
  show rawInstr (packFE 0xD5 0 f) = _
  delta rawInstr; rw [opc_packFE]; exact congrArg (fun x => some (Instr.dcadd x)) (parse_packFE _ _ f))
theorem binfl (f : FE) : Statement (.binfl f) := of_raw (by
  show rawInstr (packFE 0xD6 0 f) = _
  delta rawInstr; rw [opc_packFE]; exact congrArg (fun x => some (Instr.binfl x)) (parse_packFE _ _ f))
theorem targ (f : FS) : Statement (.targ f) := of_raw (by
  show rawInstr (packFS 0xD7 f) = _
  delta rawInstr; rw [opc_packFS]; exact congrArg (fun x => some (Instr.targ x)) (parse_packFS _ f))
theorem tid (f : FS) : Statement (.tid f) := of_raw (by
  show rawInstr (packFS 0xD8 f) = _
  delta rawInstr; rw [opc_packFS]; exact congrArg (fun x => some (Instr.tid x)) (parse_packFS _ f))
theorem prog (f : FS) : Statement (.prog f) := of_raw (by
  show rawInstr (packFS 0xD9 f) = _
  delta rawInstr; rw [opc_packFS]; exact congrArg (fun x => some (Instr.prog x)) (parse_packFS _ f))
theorem trapf (f : FY) : Statement (.trapf f) := of_raw (by
  show rawInstr (packFY 0xE0 f) = _
  delta rawInstr; rw [opc_packFY]; exact congrArg (fun x => some (Instr.trapf x)) (parse_packFY _ f))
theorem trap (f : FY) : Statement (.trap f) := of_raw (by
  show rawInstr (packFY 0xE1 f) = _
  delta rawInstr; rw [opc_packFY]; exact congrArg (fun x => some (Instr.trap x)) (parse_packFY _ f))
theorem rte (f : FY) : Statement (.rte f) := of_raw (by
  show rawInstr (packFY 0xE2 f) = _
  delta rawInstr; rw [opc_packFY]; exact congrArg (fun x => some (Instr.rte x)) (parse_packFY _ f))
theorem sysrd (f : FY) : Statement (.sysrd f) := of_raw (by
  show rawInstr (packFY 0xE3 f) = _
  delta rawInstr; rw [opc_packFY]; exact congrArg (fun x => some (Instr.sysrd x)) (parse_packFY _ f))
theorem syswr (f : FY) : Statement (.syswr f) := of_raw (by
  show rawInstr (packFY 0xE4 f) = _
  delta rawInstr; rw [opc_packFY]; exact congrArg (fun x => some (Instr.syswr x)) (parse_packFY _ f))
theorem flagc (f : FY) : Statement (.flagc f) := of_raw (by
  show rawInstr (packFY 0xE5 f) = _
  delta rawInstr; rw [opc_packFY]; exact congrArg (fun x => some (Instr.flagc x)) (parse_packFY _ f))
theorem bkill (f : FY) : Statement (.bkill f) := of_raw (by
  show rawInstr (packFY 0xE6 f) = _
  delta rawInstr; rw [opc_packFY]; exact congrArg (fun x => some (Instr.bkill x)) (parse_packFY _ f))
theorem hprio (w : DWord) : Statement (.hprio w) := by
  intro _ _ _ hw
  have h := hw
  simp [Instr.wf] at h
  exact of_raw (by show rawInstr w = _; delta rawInstr; rw [opc_toNat, h]; rfl) ‹_› ‹_› ‹_› hw
theorem hreuse (w : DWord) : Statement (.hreuse w) := by
  intro _ _ _ hw
  have h := hw
  simp [Instr.wf] at h
  exact of_raw (by show rawInstr w = _; delta rawInstr; rw [opc_toNat, h]; rfl) ‹_› ‹_› ‹_› hw
theorem hintNop (w : DWord) : Statement (.hintNop w) := by
  intro _ _ _ hw
  have h := hw
  simp [Instr.wf] at h
  have c : w.toNat % 256 = 0xF2 ∨ w.toNat % 256 = 0xF3 ∨ w.toNat % 256 = 0xF4 ∨ w.toNat % 256 = 0xF5 ∨ w.toNat % 256 = 0xF6 ∨ w.toNat % 256 = 0xF7 := by omega
  rcases c with c | c | c | c | c | c <;> exact of_raw (by show rawInstr w = _; delta rawInstr; rw [opc_toNat, c]; rfl) ‹_› ‹_› ‹_› hw
theorem idot4 (w : DWord) : Statement (.idot4 w) := by
  intro _ _ _ hw
  have h := hw
  simp [Instr.wf] at h
  exact of_raw (by show rawInstr w = _; delta rawInstr; rw [opc_toNat, h]; rfl) ‹_› ‹_› ‹_› hw
theorem emulateTrap (w : DWord) : Statement (.emulateTrap w) := by
  intro _ _ _ hw
  have h := hw
  simp [Instr.wf] at h
  have c : w.toNat % 256 = 0xF9 ∨ w.toNat % 256 = 0xFA ∨ w.toNat % 256 = 0xFB ∨ w.toNat % 256 = 0xFC ∨ w.toNat % 256 = 0xFD ∨ w.toNat % 256 = 0xFE := by omega
  rcases c with c | c | c | c | c | c <;> exact of_raw (by show rawInstr w = _; delta rawInstr; rw [opc_toNat, c]; rfl) ‹_› ‹_› ‹_› hw
theorem illenc (w : DWord) : Statement (.illenc w) := fun _ _ h => absurd rfl (h w)
theorem skip : Statement .skip := fun _ h => absurd rfl h
theorem labelCacheFill core ctx handle lid : Statement (.labelCacheFill core ctx handle lid) := fun h => by cases h
theorem bandRetire core slot : Statement (.bandRetire core slot) := fun h => by cases h
theorem memOpComplete core slot op lanes : Statement (.memOpComplete core slot op lanes) := fun h => by cases h
theorem memFaultResponse core slot op lanes : Statement (.memFaultResponse core slot op lanes) := fun h => by cases h
theorem pinExpiry core line : Statement (.pinExpiry core line) := fun h => by cases h
theorem collectorWindow core : Statement (.collectorWindow core) := fun h => by cases h
theorem engAccept core : Statement (.engAccept core) := fun h => by cases h
theorem engWritePerformed core cmd n : Statement (.engWritePerformed core cmd n) := fun h => by cases h
theorem engComplete core cmd : Statement (.engComplete core cmd) := fun h => by cases h
theorem teamAbort team aux : Statement (.teamAbort team aux) := fun h => by cases h
theorem collMessage m : Statement (.collMessage m) := fun h => by cases h
theorem collTimeout core cmd : Statement (.collTimeout core cmd) := fun h => by cases h
theorem mxAccept core : Statement (.mxAccept core) := fun h => by cases h
theorem mxComplete core : Statement (.mxComplete core) := fun h => by cases h
theorem cimScrub core bank mac col : Statement (.cimScrub core bank mac col) := fun h => by cases h
theorem clAccept cluster core : Statement (.clAccept cluster core) := fun h => by cases h
theorem clComplete cluster : Statement (.clComplete cluster) := fun h => by cases h
theorem binTimer cluster bin : Statement (.binTimer cluster bin) := fun h => by cases h
theorem admitCrew core : Statement (.admitCrew core) := fun h => by cases h
theorem gangAdmit core : Statement (.gangAdmit core) := fun h => by cases h
theorem preemptWait core : Statement (.preemptWait core) := fun h => by cases h
theorem drainRechoice core crew : Statement (.drainRechoice core crew) := fun h => by cases h
theorem flushRestart core crew : Statement (.flushRestart core crew) := fun h => by cases h
theorem crewSave core crew : Statement (.crewSave core crew) := fun h => by cases h
theorem crewRestore core ctx saved : Statement (.crewRestore core ctx saved) := fun h => by cases h
theorem preemptHoldExpiry core crew : Statement (.preemptHoldExpiry core crew) := fun h => by cases h
theorem saveRetry core crew : Statement (.saveRetry core crew) := fun h => by cases h
theorem saveAborted core crew : Statement (.saveAborted core crew) := fun h => by cases h
theorem watchdog core crew : Statement (.watchdog core crew) := fun h => by cases h
theorem trapBackoff core slot : Statement (.trapBackoff core slot) := fun h => by cases h
theorem sampleCheck core slot mismatch : Statement (.sampleCheck core slot mismatch) := fun h => by cases h
theorem fetchFault core slot : Statement (.fetchFault core slot) := fun h => by cases h
theorem pageServiced ia leaf : Statement (.pageServiced ia leaf) := fun h => by cases h
theorem patrolScrub sector : Statement (.patrolScrub sector) := fun h => by cases h
theorem linkFailure plane : Statement (.linkFailure plane) := fun h => by cases h
theorem flitResend plane good : Statement (.flitResend plane good) := fun h => by cases h
theorem remoteRequest r : Statement (.remoteRequest r) := fun h => by cases h
theorem remoteAck dst q r : Statement (.remoteAck dst q r) := fun h => by cases h
theorem remoteTimeout dst q : Statement (.remoteTimeout dst q) := fun h => by cases h
theorem rehash gen mask : Statement (.rehash gen mask) := fun h => by cases h
theorem rhack src gen mask : Statement (.rhack src gen mask) := fun h => by cases h
theorem commit gen : Statement (.commit gen) := fun h => by cases h
theorem rhtmoExpiry : Statement (.rhtmoExpiry) := fun h => by cases h
theorem memberDown domidx : Statement (.memberDown domidx) := fun h => by cases h
theorem boot stages : Statement (.boot stages) := fun h => by cases h
theorem rtail fn v : Statement (.rtail fn v) := fun h => by cases h
theorem ren fn log en : Statement (.ren fn log en) := fun h => by cases h
theorem cen fn log en : Statement (.cen fn log en) := fun h => by cases h
theorem chead fn v : Statement (.chead fn v) := fun h => by cases h
theorem bar0Write fn off v : Statement (.bar0Write fn off v) := fun h => by cases h
theorem openContext c a : Statement (.openContext c a) := fun h => by cases h
theorem closeContext c : Statement (.closeContext c) := fun h => by cases h
theorem mapRange c a : Statement (.mapRange c a) := fun h => by cases h
theorem unmapRange c ia len : Statement (.unmapRange c ia len) := fun h => by cases h
theorem setWindow c n lo hi : Statement (.setWindow c n lo hi) := fun h => by cases h
theorem setFstab c n descs : Statement (.setFstab c n descs) := fun h => by cases h
theorem loadModule c addr len handle : Statement (.loadModule c addr len handle) := fun h => by cases h
theorem submit c addr queue : Statement (.submit c addr queue) := fun h => by cases h
theorem readLog c buf most clear clearErr : Statement (.readLog c buf most clear clearErr) := fun h => by cases h
theorem checkpoint c all ia len safe ckid : Statement (.checkpoint c all ia len safe ckid) := fun h => by cases h
theorem restoreImage c safe ia len blocks : Statement (.restoreImage c safe ia len blocks) := fun h => by cases h
theorem setBudget c watts weight : Statement (.setBudget c watts weight) := fun h => by cases h
theorem planeStatus c ret mask buf : Statement (.planeStatus c ret mask buf) := fun h => by cases h
theorem attest c buf nonce : Statement (.attest c buf nonce) := fun h => by cases h
theorem setInwin c n lo hi : Statement (.setInwin c n lo hi) := fun h => by cases h
theorem memberReport c join domidx epoch : Statement (.memberReport c join domidx epoch) := fun h => by cases h
theorem spdmRequest code body : Statement (.spdmRequest code body) := fun h => by cases h
theorem takeClauseArray cluster : Statement (.takeClauseArray cluster) := fun h => by cases h

end Sys2Proof.Laws.Encodes
end

