-- ==== Sys2Proof/Tests/Slice0.lean ====
section
/-! SUPPORT. Words written out from the layouts of 02_formats.md R31 and the opcodes of R37, with the instructions they
stand for; a term that each check of WellFormed refuses; the worked examples of the spec; and for each statement a state
that meets its hypotheses. -/

namespace Sys2Proof.Tests

set_option Elab.async false

open Sys2Proof.Machine

/-! ### Decoding -/

/-- Each word decodes to the instruction beside it. -/
abbrev Reads (l : List (Nat × Instr)) : Prop := ∀ e ∈ l, decodeTableWord 64 e.1 = some e.2

def controlWords : List (Nat × Instr) :=
    [(0x0000000000008500, .nop ⟨⟨5, true⟩, 0x0, 0x0, 0, 0⟩),
     (0x0080000012340001, .lbl ⟨⟨0, false⟩, 0x1234, 0x0, 0, 1⟩),
     (0x0000000012348502, .go ⟨⟨5, true⟩, 0x1234, 0x0, 0, 0⟩),
     (0x0009000000008503, .goi ⟨⟨5, true⟩, 0x0, 0x0, 9, 0⟩),
     (0x0000045601238504, .call ⟨⟨5, true⟩, 0x123, 0x456, 0, 0⟩),
     (0x000C045600008505, .calli ⟨⟨5, true⟩, 0x0, 0x456, 12, 0⟩),
     (0x0000000000008506, .ret ⟨⟨5, true⟩, 0x0, 0x0, 0, 0⟩),
     (0x0000000000008507, .exit ⟨⟨5, true⟩, 0x0, 0x0, 0, 0⟩),
     (0x0000000000008508, .yieldBand ⟨⟨5, true⟩, 0x0, 0x0, 0, 0⟩),
     (0x0000123400068509, .lblid ⟨⟨5, true⟩, 6, 0, 0, 0x1234⟩),
     (0x000000000007850A, .swcnt ⟨⟨5, true⟩, 7, 0, 0, 0, false, 0x0⟩),
     (0x000000000008850B, .cens ⟨⟨5, true⟩, 8, 0, 0, 0, false, 0x0⟩)]

theorem test_decode_control : Reads controlWords := by decide +kernel

def integerWords : List (Nat × Instr) :=
    [(0x042000088A8A8510, .iadd ⟨⟨5, true⟩, 10, 21, 34, 0, 0, 0, 2, 4⟩),
     (0x007000088B0A8511, .isub ⟨⟨5, true⟩, 10, 22, 34, 0, 0, 0, 7, 0⟩),
     (0x045000088A8A8512, .imul ⟨⟨5, true⟩, 10, 21, 34, 0, 0, 0, 5, 4⟩),
     (0x003000088A8A8513, .imulh ⟨⟨5, true⟩, 10, 21, 34, 0, 0, 0, 3, 0⟩),
     (0x040009A88A8A8514, .imad ⟨⟨5, true⟩, 10, 21, 34, 77, 0, 0, 0, 4⟩),
     (0x001009C88A8A8515, .imadw ⟨⟨5, true⟩, 10, 21, 34, 78, 0, 0, 1, 0⟩),
     (0x004010084A8A8516, .imin ⟨⟨5, true⟩, 10, 21, 33, 0, 1, 0, 4, 0⟩),
     (0x00102018CA8A8517, .imax ⟨⟨5, true⟩, 10, 21, 99, 0, 2, 0, 1, 0⟩),
     (0x046000000B0A8518, .iabs ⟨⟨5, true⟩, 10, 22, 0, 0, 0, 0, 6, 4⟩),
     (0x002000000A8A8519, .ineg ⟨⟨5, true⟩, 10, 21, 0, 0, 0, 0, 2, 0⟩),
     (0x00100F088A8A851A, .iaddc ⟨⟨5, true⟩, 10, 21, 34, 120, 0, 0, 1, 0⟩),
     (0x003140088A8A851B, .icmp ⟨⟨5, true⟩, 10, 21, 34, 0, 0, 5, 3, 0⟩),
     (0x00600F088B0A851C, .isel ⟨⟨5, true⟩, 10, 22, 34, 120, 0, 0, 6, 0⟩),
     (0x001FC0088B0A851D, .lea ⟨⟨5, true⟩, 10, 22, 34, 0, 0, 63, 1, 0⟩),
     (0x004005288A8A851E, .isad ⟨⟨5, true⟩, 10, 21, 34, 41, 0, 0, 4, 0⟩),
     (0x00000008800A851F, .mov ⟨⟨5, true⟩, 10, 0, 34, 0, 0, 0, 0, 0⟩),
     (0x000000088A8A8520, .vand ⟨⟨5, true⟩, 10, 21, 34, 0, 0, 0, 0, 0⟩),
     (0x006000088B0A8521, .vor ⟨⟨5, true⟩, 10, 22, 34, 0, 0, 0, 6, 0⟩),
     (0x000000088A8A8522, .vxor ⟨⟨5, true⟩, 10, 21, 34, 0, 0, 0, 0, 0⟩),
     (0x000000000A8A8523, .vnot ⟨⟨5, true⟩, 10, 21, 0, 0, 0, 0, 0, 0⟩),
     (0x042000088A8A8524, .shl ⟨⟨5, true⟩, 10, 21, 34, 0, 0, 0, 2, 4⟩),
     (0x003000088A8A8525, .shr ⟨⟨5, true⟩, 10, 21, 34, 0, 0, 0, 3, 0⟩),
     (0x002000088A8A8526, .sar ⟨⟨5, true⟩, 10, 21, 34, 0, 0, 0, 2, 0⟩),
     (0x001000088A8A8527, .rot ⟨⟨5, true⟩, 10, 21, 34, 0, 0, 0, 1, 0⟩),
     (0x001005288A8A8528, .bfe ⟨⟨5, true⟩, 10, 21, 34, 41, 0, 0, 1, 0⟩),
     (0x001005288A8A8529, .bfi ⟨⟨5, true⟩, 10, 21, 34, 41, 0, 0, 1, 0⟩),
     (0x001000000A8A852A, .popc ⟨⟨5, true⟩, 10, 21, 0, 0, 0, 0, 1, 0⟩),
     (0x001000000A8A852B, .clz ⟨⟨5, true⟩, 10, 21, 0, 0, 0, 0, 1, 0⟩),
     (0x001000000A8A852C, .brev ⟨⟨5, true⟩, 10, 21, 0, 0, 0, 0, 1, 0⟩),
     (0x001000088A8A852D, .prmb ⟨⟨5, true⟩, 10, 21, 34, 0, 0, 0, 1, 0⟩),
     (0x89ABCDEF800A852E, .movi ⟨⟨5, true⟩, 10, 0, 2, 0x89ABCDEF⟩),
     (0xFFFFFFF64A8A852F, .iaddi ⟨⟨5, true⟩, 10, 21, 1, 0xFFFFFFF6⟩)]

theorem test_decode_integer : Reads integerWords := by decide +kernel

def floatWords : List (Nat × Instr) :=
    [(0x0B8000088A8A8530, .fadd ⟨⟨5, true⟩, 10, 21, 34, 0, 0, 0, 8, 11⟩),
     (0x019000088A8A8531, .fmul ⟨⟨5, true⟩, 10, 21, 34, 0, 0, 0, 9, 1⟩),
     (0x02A005288A8A8532, .ffma ⟨⟨5, true⟩, 10, 21, 34, 41, 0, 0, 10, 2⟩),
     (0x088000088A8A8533, .fmin ⟨⟨5, true⟩, 10, 21, 34, 0, 0, 0, 8, 8⟩),
     (0x008000088A8A8534, .fmax ⟨⟨5, true⟩, 10, 21, 34, 0, 0, 0, 8, 0⟩),
     (0x0091C0088A8A8535, .fcmp ⟨⟨5, true⟩, 10, 21, 34, 0, 0, 7, 9, 0⟩),
     (0x008100000A8A8536, .fsfu ⟨⟨5, true⟩, 10, 21, 0, 0, 0, 4, 8, 0⟩),
     (0x038000000A8A8537, .frnd ⟨⟨5, true⟩, 10, 21, 0, 0, 0, 0, 8, 3⟩),
     (0x00A000000A8A8538, .fclass ⟨⟨5, true⟩, 10, 21, 0, 0, 0, 0, 10, 0⟩),
     (0x088000088A8A8539, .fdiv ⟨⟨5, true⟩, 10, 21, 34, 0, 0, 0, 8, 8⟩),
     (0x0F8080000A8A8540, .cvt ⟨⟨5, true⟩, 10, 21, 0, 0, 0, 2, 8, 15⟩),
     (0x0081C0088A8A8541, .qnt ⟨⟨5, true⟩, 10, 21, 34, 0, 0, 7, 8, 0⟩),
     (0x00A0C0088A8A8542, .dqnt ⟨⟨5, true⟩, 10, 21, 34, 0, 0, 3, 10, 0⟩),
     (0x009080000A8A8543, .amax ⟨⟨5, true⟩, 10, 21, 0, 0, 0, 2, 9, 0⟩),
     (0x004000000B0A8544, .pkt5 ⟨⟨5, true⟩, 10, 22, 0, 0, 0, 0, 4, 0⟩),
     (0x004000000A8A8545, .upkt5 ⟨⟨5, true⟩, 10, 21, 0, 0, 0, 0, 4, 0⟩)]

theorem test_decode_float : Reads floatWords := by decide +kernel

def exchangeWords : List (Nat × Instr) :=
    [(0x000040088A8A8550, .shfl ⟨⟨5, true⟩, 10, 21, 34, 0, 0, 1, 0, 0⟩),
     (0x002400000A8A8551, .scan ⟨⟨5, true⟩, 10, 21, 0, 0, 0, 16, 2, 0⟩),
     (0x018000000A8A8552, .rdc ⟨⟨5, true⟩, 10, 21, 0, 0, 0, 0, 8, 1⟩),
     (0x00000F000A8A8553, .cmpct ⟨⟨5, true⟩, 10, 21, 0, 120, 0, 0, 0, 0⟩),
     (0x0000C000318A8554, .vote ⟨⟨5, true⟩, 10, 99, 0, 0, 0, 3, 0, 0⟩)]

theorem test_decode_exchange : Reads exchangeWords := by decide +kernel

def scalarWords : List (Nat × Instr) :=
    [(0x0000000030818560, .sadd ⟨⟨5, true⟩, 1, 2, 3, 0, false, 0x0⟩),
     (0x0000000030818561, .ssub ⟨⟨5, true⟩, 1, 2, 3, 0, false, 0x0⟩),
     (0x0000000030818562, .smul ⟨⟨5, true⟩, 1, 2, 3, 0, false, 0x0⟩),
     (0x0000000030818563, .sand ⟨⟨5, true⟩, 1, 2, 3, 0, false, 0x0⟩),
     (0x0000000030818564, .sor ⟨⟨5, true⟩, 1, 2, 3, 0, false, 0x0⟩),
     (0x0000000030818565, .sxor ⟨⟨5, true⟩, 1, 2, 3, 0, false, 0x0⟩),
     (0x0000000030818566, .sshl ⟨⟨5, true⟩, 1, 2, 3, 0, false, 0x0⟩),
     (0x02468B0400818567, .sshr ⟨⟨5, true⟩, 1, 2, 0, 1, true, 0x12345⟩),
     (0x0000000030018568, .smov ⟨⟨5, true⟩, 1, 0, 3, 0, false, 0x0⟩),
     (0x0000003030818569, .scmp ⟨⟨5, true⟩, 1, 2, 3, 12, false, 0x0⟩),
     (0x000000003081856A, .ssel ⟨⟨5, true⟩, 1, 2, 3, 0, false, 0x0⟩),
     (0x0000AB003001856B, .srdl ⟨⟨5, true⟩, 1, 0, 3, 0, true, 0x55⟩),
     (0x000000043081856C, .smin ⟨⟨5, true⟩, 1, 2, 3, 1, false, 0x0⟩),
     (0xFFFFFF000081856D, .smax ⟨⟨5, true⟩, 1, 2, 0, 0, true, 0x7FFFFF⟩),
     (0xE00003000001856E, .smovi ⟨⟨5, true⟩, 1, 0, 0, 0, true, 0x700001⟩),
     (0x07FFFF080001856F, .smovh ⟨⟨5, true⟩, 1, 0, 0, 2, true, 0x3FFFF⟩)]

theorem test_decode_scalar : Reads scalarWords := by decide +kernel

def predicateWords : List (Nat × Instr) :=
    [(0x000380088A8A8570, .plop ⟨⟨5, true⟩, 10, 21, 34, 0, 0, 14, 0, 0⟩),
     (0x8000000100098571, .pset ⟨⟨5, true⟩, 9, 0, 0, 0x80000001⟩),
     (0x00000000318A8572, .ptov ⟨⟨5, true⟩, 10, 99, 0, 0, 0, 0, 0, 0⟩),
     (0x0000000005638573, .vtop ⟨⟨5, true⟩, 99, 10, 0, 0, 0, 0, 0, 0⟩),
     (0x00000000318A8574, .pcnt ⟨⟨5, true⟩, 10, 99, 0, 0, 0, 0, 0, 0⟩),
     (0x0000100840638575, .sprd ⟨⟨5, true⟩, 99, 0, 33, 0, 1, 0, 0, 0⟩)]

theorem test_decode_predicate : Reads predicateWords := by decide +kernel

def memoryWords : List (Nat × Instr) :=
    [(0xFFF0D2DC400A8580, .ld ⟨⟨5, true⟩, 10, 0, 1, 4, 3, 3, 1, 2, 6, 0x1FFE⟩),
     (0x000005540B0A8581, .st ⟨⟨5, true⟩, 10, 22, 0, 4, 2, 5, 2, 0, 0, 0x0⟩),
     (0x0010E019400A8582, .lds ⟨⟨5, true⟩, 10, 0, 1, 1, 3, 0, 0, 0, 7, 0x2⟩),
     (0x0000E802400A8583, .sts ⟨⟨5, true⟩, 10, 0, 1, 2, 0, 0, 0, 1, 7, 0x0⟩),
     (0x0001300440008584, .pref ⟨⟨5, true⟩, 0, 0, 1, 4, 0, 0, 0, 2, 9, 0x0⟩),
     (0x000000040B028585, .cctl ⟨⟨5, true⟩, 2, 22, 0, 4, 0, 0, 0, 0, 0, 0x0⟩),
     (0x0000005400008586, .fence ⟨⟨5, true⟩, 0, 0x0, 21, 0x0⟩),
     (0x0000000000008587, .fencex ⟨⟨5, true⟩, 0, 0x0, 0, 0x0⟩),
     (0x1234560000008588, .waitc ⟨⟨5, true⟩, 0, 0x0, 0, 0x123456⟩),
     (0x0000E009400A8589, .ldtr ⟨⟨5, true⟩, 10, 0, 1, 1, 1, 0, 0, 0, 7, 0x0⟩),
     (0x3C4806940B0A8590, .atom ⟨⟨5, true⟩, 10, 22, 0, 4, 2, 2, 3, 0, 0, 9, 30⟩),
     (0x3C00015C0B0A8591, .acas ⟨⟨5, true⟩, 10, 22, 0, 4, 3, 5, 0, 0, 0, 0, 30⟩),
     (0x0840625140068592, .atoms ⟨⟨5, true⟩, 6, 0, 1, 1, 2, 1, 1, 0, 3, 8, 4⟩),
     (0x3C1800940B008593, .red ⟨⟨5, true⟩, 0, 22, 0, 4, 2, 2, 0, 0, 0, 3, 30⟩)]

theorem test_decode_memory : Reads memoryWords := by decide +kernel

def engineWords : List (Nat × Instr) :=
    [(0x00051200308185A0, .cpyLin ⟨⟨5, true⟩, 1, 2, 3, true, 4, 5⟩),
     (0x00051204308185A0, .cpy2d ⟨⟨5, true⟩, 1, 2, 3, true, 4, 5⟩),
     (0x00051208308185A0, .cpyRowg ⟨⟨5, true⟩, 1, 2, 3, true, 4, 5⟩),
     (0x0005120C308185A0, .cpyRows ⟨⟨5, true⟩, 1, 2, 3, true, 4, 5⟩),
     (0x00051210308185A0, .cpyMrow ⟨⟨5, true⟩, 1, 2, 3, true, 4, 5⟩),
     (0x00051214308185A0, .cpyFill ⟨⟨5, true⟩, 1, 2, 3, true, 4, 5⟩),
     (0x00051218308185A0, .cpyZc ⟨⟨5, true⟩, 1, 2, 3, true, 4, 5⟩),
     (0x0005121C308185A0, .cpyZd ⟨⟨5, true⟩, 1, 2, 3, true, 4, 5⟩),
     (0x00051240308185A0, .collAr ⟨⟨5, true⟩, 1, 2, 3, true, 4, 5⟩),
     (0x00051244308185A0, .collRs ⟨⟨5, true⟩, 1, 2, 3, true, 4, 5⟩),
     (0x00051248308185A0, .collAg ⟨⟨5, true⟩, 1, 2, 3, true, 4, 5⟩),
     (0x0005124C308185A0, .collBc ⟨⟨5, true⟩, 1, 2, 3, true, 4, 5⟩),
     (0x00051280308185A0, .ckpt ⟨⟨5, true⟩, 1, 2, 3, true, 4, 5⟩),
     (0x00001000008085A1, .binit ⟨⟨5, true⟩, 0, 2, 0, false, 4, 0⟩),
     (0x00001200000185A2, .barv ⟨⟨5, true⟩, 1, 0, 0, true, 4, 0⟩),
     (0x0006B086123485A3, .bwait ⟨⟨5, true⟩, 0x1234, 6, 2, 107⟩),
     (0x00001000308085A4, .bexp ⟨⟨5, true⟩, 0, 2, 3, false, 4, 0⟩),
     (0x00001200000185A5, .btest ⟨⟨5, true⟩, 1, 0, 0, true, 4, 0⟩)]

theorem test_decode_engine : Reads engineWords := by decide +kernel

def matrixWords : List (Nat × Instr) :=
    [(0x00004020614485B0, .mldb ⟨⟨5, true⟩, 4, 5, 6, 0, 1, 0, true, 0x0⟩),
     (0x00004000600085B1, .mbank ⟨⟨5, true⟩, 0, 0, 6, 0, 0, 0, true, 0x0⟩),
     (0x00000028620785B2, .mma ⟨⟨5, true⟩, 7, 8, 6, 2, 1, 0, false, 0x0⟩),
     (0x00000028620785B3, .mmag ⟨⟨5, true⟩, 7, 8, 6, 2, 1, 0, false, 0x0⟩),
     (0x03FE8000620085B4, .macz ⟨⟨5, true⟩, 0, 8, 6, 0, 0, 0, false, 0x7FD⟩),
     (0x00000040620985B5, .macr ⟨⟨5, true⟩, 9, 8, 6, 0, 2, 0, false, 0x0⟩),
     (0x00080000620185B6, .macv ⟨⟨5, true⟩, 1, 8, 6, 0, 0, 0, false, 0x10⟩)]

theorem test_decode_matrix : Reads matrixWords := by decide +kernel

def clauseWords : List (Nat × Instr) :=
    [(0x00000000624485C0, .clcfg ⟨⟨5, true⟩, 4, 9, 6, 0, 0, 0, false, 0x0⟩),
     (0x00000000624385C1, .clld ⟨⟨5, true⟩, 3, 9, 6, 0, 0, 0, false, 0x0⟩),
     (0x00000000624385C2, .clst ⟨⟨5, true⟩, 3, 9, 6, 0, 0, 0, false, 0x0⟩),
     (0x00030000600785C3, .clinf ⟨⟨5, true⟩, 7, 0, 6, 0, 0, 0, false, 0x6⟩),
     (0x00060000628785C4, .clvote ⟨⟨5, true⟩, 7, 10, 6, 0, 0, 0, false, 0xC⟩),
     (0x0003000062C085C5, .clfb ⟨⟨5, true⟩, 0, 11, 6, 0, 0, 0, false, 0x6⟩),
     (0x00000000600585C6, .cltab ⟨⟨5, true⟩, 5, 0, 6, 0, 0, 0, false, 0x0⟩),
     (0x0000000060C285C7, .clseed ⟨⟨5, true⟩, 2, 3, 6, 0, 0, 0, false, 0x0⟩),
     (0x00000000600085C8, .clfnc ⟨⟨5, true⟩, 0, 0, 6, 0, 0, 0, false, 0x0⟩),
     (0x00000000624C85C9, .clcnt ⟨⟨5, true⟩, 12, 9, 6, 0, 0, 0, false, 0x0⟩)]

theorem test_decode_clause : Reads clauseWords := by decide +kernel

def taskWords : List (Nat × Instr) :=
    [(0x00040000123485D0, .spawn ⟨⟨5, true⟩, 0x1234, 0x0, 4, 0⟩),
     (0x00000200810785D1, .tqenq ⟨⟨5, true⟩, 7, 4, 8, true, 0, 0⟩),
     (0x00000200810785D2, .tqdeq ⟨⟨5, true⟩, 7, 4, 8, true, 0, 0⟩),
     (0x00000000614085D3, .dcinit ⟨⟨5, true⟩, 0, 5, 6, false, 0, 0⟩),
     (0x00000000014085D4, .dcdec ⟨⟨5, true⟩, 0, 5, 0, false, 0, 0⟩),
     (0x00000200614785D5, .dcadd ⟨⟨5, true⟩, 7, 5, 6, true, 0, 0⟩),
     (0x00000000014085D6, .binfl ⟨⟨5, true⟩, 0, 5, 0, false, 0, 0⟩),
     (0x00000900000385D7, .targ ⟨⟨5, true⟩, 3, 0, 0, 0, true, 0x4⟩),
     (0x00000000000285D8, .tid ⟨⟨5, true⟩, 2, 0, 0, 0, false, 0x0⟩),
     (0x00271100000085D9, .prog ⟨⟨5, true⟩, 0, 0, 0, 0, true, 0x1388⟩)]

theorem test_decode_task : Reads taskWords := by decide +kernel

def systemWords : List (Nat × Instr) :=
    [(0x00000000000085E0, .trapf ⟨⟨5, true⟩, 0, 0x0, 0, 0x0⟩),
     (0xABC12300000085E1, .trap ⟨⟨5, true⟩, 0, 0x0, 0, 0xABC123⟩),
     (0x00000000000085E2, .rte ⟨⟨5, true⟩, 0, 0x0, 0, 0x0⟩),
     (0x00000000058585E3, .sysrd ⟨⟨5, true⟩, 5, 0x16, 0, 0x0⟩),
     (0x000000004B8485E4, .syswr ⟨⟨5, true⟩, 4, 0x12E, 0, 0x0⟩),
     (0x0001FF00000085E5, .flagc ⟨⟨5, true⟩, 0, 0x0, 0, 0x1FF⟩),
     (0x00000500000085E6, .bkill ⟨⟨5, true⟩, 0, 0x0, 0, 0x5⟩)]

theorem test_decode_system : Reads systemWords := by decide +kernel

/-- Words that the spec writes out beside its examples. -/
theorem test_decode_examples :
    Reads [(0x0000000000000900, .nop ⟨⟨9, false⟩, 0, 0, 0, 0⟩), (0x8, .yieldBand ⟨⟨0, false⟩, 0, 0, 0, 0⟩),
     (0x7000A, .swcnt ⟨⟨0, false⟩, 7, 0, 0, 0, false, 0⟩), (0x8000B, .cens ⟨⟨0, false⟩, 8, 0, 0, 0, false, 0⟩),
     (0x0080000000070001, .lbl ⟨⟨0, false⟩, 7, 0, 0, 1⟩), (0x0100000000050001, .lbl ⟨⟨0, false⟩, 5, 0, 0, 2⟩),
     (0x0000000800070004, .call ⟨⟨0, false⟩, 7, 8, 0, 0⟩), (0x000C000800000005, .calli ⟨⟨0, false⟩, 0, 8, 12, 0⟩),
     (0x0000000000000307, .exit ⟨⟨3, false⟩, 0, 0, 0, 0⟩),
     (0x0000000700040009, .lblid ⟨⟨0, false⟩, 4, 0, 0, 7⟩), (0x0000000740050009, .lblid ⟨⟨0, false⟩, 5, 0, 1, 7⟩),
     (0xFFFFC00000000088, .waitc ⟨⟨0, false⟩, 0, 0, 0, 0xFFFFC0⟩),
     (0x0440100082030010, .iadd ⟨⟨0, false⟩, 3, 4, 2, 0, 1, 0, 4, 4⟩), (0xFFFFFFFD0107852F, .iaddi ⟨⟨5, true⟩, 7, 2, 0, 0xFFFFFFFD⟩),
     (0x000055000001006E, .smovi ⟨⟨0, false⟩, 1, 0, 0, 0, true, 42⟩), (0xFFFF03000002006E, .smovi ⟨⟨0, false⟩, 2, 0, 0, 0, true, -127⟩),
     (0x0080016284880032, .ffma ⟨⟨0, false⟩, 8, 9, 10, 11, 0, 0, 8, 0⟩), (0x0880900100830035, .fcmp ⟨⟨0, false⟩, 3, 1, 4, 0, 1, 2, 8, 8⟩),
     (0x0080400001020036, .fsfu ⟨⟨0, false⟩, 2, 2, 0, 0, 0, 1, 8, 0⟩), (0x0182400002050040, .cvt ⟨⟨0, false⟩, 5, 4, 0, 0, 0, 9, 8, 1⟩),
     (0x00004020614400B0, .mldb ⟨⟨0, false⟩, 4, 5, 6, 0, 1, 0, true, 0⟩), (0x00004000600000B1, .mbank ⟨⟨0, false⟩, 0, 0, 6, 0, 0, 0, true, 0⟩),
     (0x03FE8000620000B4, .macz ⟨⟨0, false⟩, 0, 8, 6, 0, 0, 0, false, 0x7FD⟩), (0x00000040620900B5, .macr ⟨⟨0, false⟩, 9, 8, 6, 0, 2, 0, false, 0⟩),
     (0x00000200810700D1, .tqenq ⟨⟨0, false⟩, 7, 4, 8, true, 0, 0⟩), (0x00271100000000D9, .prog ⟨⟨0, false⟩, 0, 0, 0, 0, true, 5000⟩),
     (0x00000000058500E3, .sysrd ⟨⟨0, false⟩, 5, 0x16, 0, 0⟩), (0x0001FF00000000E5, .flagc ⟨⟨0, false⟩, 0, 0, 0, 0x1FF⟩),
     (0x00000500000000E6, .bkill ⟨⟨0, false⟩, 0, 0, 0, 5⟩)] := by
  decide +kernel

/-- 02_formats.md R37: opcodes that the map leaves unassigned. -/
theorem test_decode_unassigned : ∀ w ∈ [0xFF, 0x0C, 0x3A, 0x94, 0xA6, 0xCA, 0xDA, 0xE7], decodeTableWord 64 w = none := by
  decide +kernel

/-! ### Well-formedness -/

abbrev g0 : Guard := ⟨0, false⟩
/-- F-V without a guard: VD, VA, VB, VC, BK, SUB, TY, RM. -/
abbrev fv (vd va vb vc : BitVec 7) (bk : BitVec 2) (sub : BitVec 6) (ty rm : BitVec 4) : FV := ⟨g0, vd, va, vb, vc, bk, sub, ty, rm⟩
abbrev fi (vd va : BitVec 7) (ty2 : BitVec 2) (imm : Word) : FI := ⟨g0, vd, va, ty2, imm⟩
abbrev fs (sd sa sb sub : BitVec 6) (im : Bool) (imm : BitVec 23) : FS := ⟨g0, sd, sa, sb, sub, im, imm⟩
/-- F-M: VT, VA, AM, SP, W, SC, ORD, CP, SB, OFF. -/
abbrev fm (vt va : BitVec 7) (am : BitVec 2) (sp w sc : BitVec 3) (ord cp : BitVec 2) (sb : BitVec 6) (off : BitVec 13) : FM :=
  ⟨g0, vt, va, am, sp, w, sc, ord, cp, sb, off⟩
/-- The atomics: VT, VA, AM, SP, W, SC, ORD, CP, SB, AOP, VX. -/
abbrev fa (vt va : BitVec 7) (am : BitVec 2) (sp w sc : BitVec 3) (ord cp : BitVec 2) (sb aop : BitVec 6) (vx : BitVec 7) : FA :=
  ⟨g0, vt, va, am, sp, w, sc, ord, cp, sb, aop, vx⟩
abbrev fc (lid lid2 : BitVec 16) (va : BitVec 7) (attr : BitVec 2) : FC := ⟨g0, lid, lid2, va, attr⟩
abbrev fe (sd sa sb : BitVec 6) (rp : Bool) (so : BitVec 6) (sc : BitVec 3) : FE := ⟨g0, sd, sa, sb, rp, so, sc⟩
abbrev fx (sa sb so : BitVec 6) (fsa fsb : BitVec 3) (sub : BitVec 6) (bnk : Bool) (imm : BitVec 17) : FX :=
  ⟨g0, sa, sb, so, fsa, fsb, sub, bnk, imm⟩
abbrev fy (sd : BitVec 6) (sysreg : BitVec 12) (sub : BitVec 6) (imm : BitVec 24) : FY := ⟨g0, sd, sysreg, sub, imm⟩

/-- Each word of the lists above is legal for a band of 128 registers. -/
theorem test_words_are_legal :
    ∀ l ∈ [controlWords, integerWords, floatWords, exchangeWords, scalarWords, predicateWords, memoryWords, engineWords,
      matrixWords, clauseWords, taskWords, systemWords], ∀ e ∈ l, e.2.wf = true ∧ e.2.regsOk 128 = true := by
  decide +kernel

/-- A term that each check of the vector, scalar and predicate words refuses. -/
theorem test_wf_refuses_lane_words : ∀ i ∈ ([
    .iadd (fv 1 2 3 1 0 0 2 0), .iadd (fv 1 2 3 0 3 0 2 0), .iadd (fv 1 2 64 0 1 0 2 0), .iadd (fv 1 2 3 0 0 1 2 0),
    .iadd (fv 1 2 3 0 0 0 8 0), .iadd (fv 1 2 3 0 0 0 2 1), .imulh (fv 1 2 3 0 0 0 4 0), .imad (fv 1 2 3 4 0 1 2 0),
    .imadw (fv 2 3 4 6 0 0 2 0), .imin (fv 1 2 3 0 0 0 2 4), .iabs (fv 1 2 3 0 0 0 2 0), .iabs (fv 1 2 0 0 0 0 1 0),
    .icmp (fv 1 2 3 0 0 6 2 0), .isel (fv 1 2 3 4 0 0 1 0), .lea (fv 2 4 3 0 0 0 2 0), .isad (fv 1 2 3 4 0 0 0 0),
    .mov (fv 1 2 3 0 0 0 0 0), .vand (fv 1 2 3 0 0 0 1 0), .vnot (fv 1 2 3 0 0 0 0 0), .shr (fv 1 2 3 0 0 0 0 0),
    .sar (fv 1 2 3 0 0 0 1 0), .rot (fv 1 2 3 0 0 0 0 0), .bfe (fv 1 2 3 4 0 0 2 0), .bfi (fv 1 2 3 4 0 0 0 0),
    .popc (fv 1 2 0 0 0 0 0 0), .prmb (fv 1 2 3 0 0 0 0 0), .movi (fi 1 0 3 0), .movi (fi 1 1 0 0), .iaddi (fi 1 2 3 0),
    .fadd (fv 1 2 3 0 0 0 7 0), .fadd (fv 1 2 3 0 0 0 8 4), .ffma (fv 1 2 3 4 0 1 8 0), .fmin (fv 1 2 3 0 0 0 8 1),
    .fcmp (fv 1 2 3 0 0 8 8 0), .fsfu (fv 1 2 0 0 0 8 8 0), .fsfu (fv 1 2 0 0 0 0 9 0), .frnd (fv 1 2 3 0 0 0 8 0),
    .fclass (fv 1 2 0 0 0 0 8 8), .fdiv (fv 1 2 3 0 0 0 9 0), .cvt (fv 1 2 0 0 0 11 8 0), .cvt (fv 1 2 0 0 0 0 11 0),
    .qnt (fv 1 2 3 0 0 8 8 0), .dqnt (fv 1 2 3 0 0 0 7 0), .amax (fv 1 2 0 0 0 3 9 0), .amax (fv 1 2 0 0 0 2 8 0),
    .pkt5 (fv 1 2 0 0 0 0 2 0), .shfl (fv 1 2 3 0 0 5 0 0), .shfl (fv 1 2 3 0 0 4 0 0), .scan (fv 1 2 0 0 0 6 0 0),
    .scan (fv 1 2 0 0 0 32 0 0), .scan (fv 1 2 0 0 0 3 8 0), .scan (fv 1 2 0 0 0 16 0 0), .scan (fv 1 2 0 0 0 17 2 0),
    .rdc (fv 1 2 0 0 0 8 0 0), .cmpct (fv 1 2 3 4 0 0 0 0), .vote (fv 1 2 0 0 0 4 0 0), .sadd (fs 1 2 3 1 false 0),
    .sadd (fs 1 2 3 0 true 4), .sadd (fs 1 2 3 0 false 4), .sshr (fs 1 2 3 2 false 0), .smov (fs 1 2 3 0 false 0),
    .scmp (fs 1 2 3 6 false 0), .scmp (fs 1 2 3 16 false 0), .srdl (fs 1 0 3 0 true 128), .srdl (fs 1 0 3 1 true 4),
    .srdl (fs 1 0 3 0 false 4), .smovi (fs 1 0 1 0 true 4), .smovh (fs 1 0 0 3 true 4), .smovh (fs 1 0 0 2 true 0x40000),
    .plop (fv 1 2 3 0 0 16 0 0), .plop (fv 1 2 3 0 1 0 0 0), .pset (fi 1 1 0 0), .ptov (fv 1 2 3 0 0 0 0 0),
    .sprd (fv 1 0 3 0 0 0 0 0), .swcnt (fs 1 1 0 0 false 0)] : List Instr), i.wf = false := by
  decide +kernel

/-- A term that each check of the other words refuses. -/
theorem test_wf_refuses_other_words : ∀ i ∈ ([
    .nop (fc 1 0 0 0), .lbl ⟨⟨1, false⟩, 1, 0, 0, 0⟩, .lbl (fc 1 0 0 3), .lbl (fc 0xFFFF 0 0 1), .go (fc 0xFFFF 0 0 0),
    .goi (fc 1 0 2 0), .call (fc 1 0xFFFF 0 0), .calli (fc 1 2 3 0), .lblid (fi 1 0 0 0xFFFF), .lblid (fi 64 0 1 5),
    .ld (fm 1 2 3 1 2 0 0 0 0 0), .ld (fm 1 2 0 1 2 0 0 0 1 0), .ld (fm 1 2 1 1 2 0 0 0 1 0), .ld (fm 1 2 0 5 2 0 0 0 0 0),
    .ld (fm 1 2 0 1 6 0 0 0 0 0), .ld (fm 1 2 0 1 2 1 0 0 0 0), .ld (fm 1 2 0 1 2 0 1 0 0 0), .ld (fm 1 2 0 1 2 1 2 0 0 0),
    .st (fm 1 2 0 1 2 1 1 0 0 0), .lds (fm 1 0 1 0 2 0 0 0 3 0), .lds (fm 64 0 1 1 2 0 0 0 3 0), .sts (fm 1 0 1 1 4 0 0 0 3 0),
    .pref (fm 1 2 0 1 0 0 0 0 0 0), .cctl (fm 1 2 0 1 0 0 0 0 0 0), .cctl (fm 3 2 0 4 0 0 0 0 0 0), .ldtr (fm 1 2 0 1 2 0 0 0 0 0),
    .ldtr (fm 1 0 1 3 2 0 0 0 3 0), .ldtr (fm 1 0 1 1 3 0 0 0 3 0), .fence (fy 0 0 0 0), .fence (fy 0 0 0x19 0), .fencex (fy 1 0 0 0),
    .waitc (fy 0 0 1 0), .atom (fa 1 2 0 0 2 1 0 0 0 0 3), .atom (fa 1 2 0 1 1 1 0 0 0 0 3), .atom (fa 1 2 0 1 2 0 0 0 0 0 3),
    .atom (fa 1 2 0 1 2 1 0 0 0 13 3), .atom (fa 1 2 0 1 3 1 0 0 0 11 3), .acas (fa 1 2 0 1 2 1 0 0 0 1 3), .red (fa 1 2 0 1 2 1 0 0 0 0 3),
    .atoms (fa 1 2 0 1 2 1 0 0 0 0 3), .atoms (fa 1 0 1 1 2 1 0 0 3 0 64), .cpyLin (fe 1 2 3 false 4 0), .ckpt (fe 0 2 3 false 4 6),
    .binit (fe 0 2 1 false 4 0), .barv (fe 0 1 0 false 4 0), .bexp (fe 0 1 2 false 4 1), .btest (fe 0 0 0 false 4 0), .bwait ⟨g0, 0xFFFF, 1, 2, 3⟩,
    .mldb (fx 1 2 3 1 0 0 false 0), .mbank (fx 1 0 3 0 0 0 false 0), .mma (fx 1 2 3 0 0 0 true 0), .macz (fx 0 2 3 0 0 0 false 2048),
    .macr (fx 1 2 3 1 0 0 false 0), .macv (fx 1 2 3 0 0 0 false 128), .clcfg (fx 1 2 3 0 0 1 false 0), .clinf (fx 1 2 3 0 0 0 false 4),
    .clfb (fx 1 2 3 0 0 0 false 4), .cltab (fx 1 2 3 0 0 0 false 0), .clfnc (fx 1 0 3 0 0 0 false 0), .spawn (fc 1 2 4 0),
    .tqenq (fe 1 2 3 true 4 0), .dcinit (fe 1 2 3 false 0 0), .dcdec (fe 1 2 3 true 0 0), .binfl (fe 0 1 0 true 0 0), .targ (fs 1 0 0 0 true 5),
    .tid (fs 1 1 0 0 false 0), .prog (fs 1 0 2 0 false 0), .sysrd (fy 1 7 0 0), .sysrd (fy 1 0x12F 0 0), .syswr (fy 1 0x38 0 0), .flagc (fy 0 0 0 512),
    .trap (fy 1 0 0 0), .rte (fy 0 0 0 1), .hprio 0xF1, .hreuse 0xF0, .hintNop 0xF8, .idot4 0xF9, .emulateTrap 0xFF] : List Instr), i.wf = false := by
  decide +kernel

/-- 02_formats.md R30: registers that a band of 16 does not have, and groups that are not aligned. -/
theorem test_regs_refused : ∀ i ∈ ([
    .iadd (fv 16 2 3 0 0 0 2 0), .iadd (fv 1 16 3 0 0 0 2 0), .iadd (fv 1 2 16 0 0 0 2 0), .iadd (fv 1 2 4 0 0 0 6 0),
    .imad (fv 1 2 3 16 0 0 2 0), .imadw (fv 3 1 2 4 0 0 0 0), .imadw (fv 2 1 2 5 0 0 0 0), .lea (fv 2 3 1 0 0 0 0 0), .movi (fi 3 0 1 0),
    .cvt (fv 3 2 0 0 0 6 0 0), .pkt5 (fv 1 3 0 0 0 0 4 0), .upkt5 (fv 3 1 0 0 0 0 4 0), .scan (fv 3 2 0 0 0 16 2 0), .vote (fv 16 0 0 0 0 3 0 0),
    .srdl (fs 1 0 3 0 true 16), .goi (fc 0 0 16 0), .lblid (fi 16 0 0 5), .ld (fm 2 2 0 1 4 0 0 0 0 0), .ld (fm 1 3 0 4 2 0 0 0 0 0),
    .ld (fm 16 2 0 1 0 0 0 0 0 0), .atom (fa 1 2 0 1 3 1 0 0 0 0 2), .red (fa 0 2 0 1 3 1 0 0 0 0 3), .macv (fx 1 2 3 0 0 0 false 2),
    .clvote (fx 1 2 3 0 0 0 false 16), .clinf (fx 1 0 3 0 0 0 false 16), .spawn (fc 1 0 3 0)] : List Instr),
    i.wf = true ∧ i.regsOk 16 = false := by
  decide +kernel

/-! ### The worked examples, and hand calculation from the rules -/

/-- Lanes 0 to 31 RUNNING at P = 0 of core 0, slot 0, in a crew of 128 registers and 64 KiB, as `withFetchWord` has it,
with the word 0 in place. -/
def bench : State := State.reset.withFetchWord 64 0

/-- What word `i` leaves of the band, once `f` has prepared it. -/
def result (i : Instr) (f : Band → Band) : Option Band :=
  match exec i (bench.modBand 0 0 f) with
  | .next t => t.band? 0 0
  | _ => none

/-- A row: a word, the vector registers it finds, and the vector registers of lane 5 and the flags that it leaves. -/
abbrev Row := Instr × List (Nat × Word) × List (Nat × Word) × BitVec 9

/-- The row holds, and the word goes on to the next. -/
def Row.test (r : Row) : Bool :=
  (result r.1 (fun b => r.2.1.foldl (fun b e => b.setV e.1 (-1) fun _ => e.2) b)).any fun b =>
    (r.2.2.1.all fun e => b.v32 5 e.1 == e.2) && b.flags == r.2.2.2 && b.p == 8

/-- 05_integer.md R115 to R125; IOV is 0x20. The I8x4 operands are those of 06_switch.md. -/
theorem test_integer_arithmetic :
    ([(.iadd (fv 4 2 3 0 0 0 4 4), [(2, 0x7F80F064), (3, 0x01027F50)], [(4, 0x7F826F7F)], 0x20),
      (.isub (fv 4 2 3 0 0 0 5 4), [(2, 0x05FF1080), (3, 0x0A011090)], [(4, 0x00FE0000)], 0x20),
      (.imul (fv 4 2 3 0 0 0 2 0), [(2, 0xFFFF0004), (3, 0x00050006)], [(4, 0xFFFB0018)], 0),
      (.imulh (fv 4 2 3 0 0 0 0 0), [(2, 0x80000000), (3, 2)], [(4, 0xFFFFFFFF)], 0),
      (.imulh (fv 4 2 3 0 0 0 1 0), [(2, 0x80000000), (3, 2)], [(4, 1)], 0),
      (.imad (fv 4 2 3 5 0 0 0 4), [(2, 0x40000000), (3, 2), (5, 0xFFFFFFFF)], [(4, 0x7FFFFFFF)], 0),
      (.imadw (fv 4 2 3 8 0 0 0 0), [(2, 0xFFFFFFFF), (3, 2), (8, 1), (9, 0)], [(4, 0xFFFFFFFF), (5, 0xFFFFFFFF)], 0),
      (.imin (fv 4 2 0x7F 0 2 0 1 0), [(2, 5)], [(4, 5)], 0),
      (.imax (fv 4 2 7 0 0 0 4 0), [(2, 0x80F07F05), (7, 0x81818181)], [(4, 0x81F07F05)], 0),
      (.iabs (fv 4 2 0 0 0 0 2 4), [(2, 0x8000FFFE)], [(4, 0x7FFF0002)], 0x20),
      (.ineg (fv 4 2 0 0 0 0 4 0), [(2, 0x800100FF)], [(4, 0x80FF0001)], 0),
      (.iaddc (fv 4 2 3 0 0 0 1 0), [(2, 0xFFFFFFFF), (3, 1)], [(4, 1)], 0),
      (.isad (fv 4 2 3 5 0 0 5 0), [(2, 0x01FF0005), (3, 0x03000105), (5, 10)], [(4, 0x10C)], 0),
      (.lea (fv 4 2 7 0 2 8 0 0), [(2, 0xFFFFFF00), (3, 1), (7, 0)], [(4, 0x600), (5, 2)], 0),
      (.lea (fv 4 2 6 0 0 8 0 0), [(2, 0xFFFFFF00), (3, 1), (6, 0xFFFFFFFF)], [(4, 0xFFFFFE00), (5, 1)], 0),
      (.mov (fv 4 0 0x7D 0 2 0 6 0), [], [(4, 0xFFFFFFFD), (5, 0xFFFFFFFF)], 0),
      (.isel (fv 4 2 3 1 0 0 0 0), [(2, 7), (3, 9)], [(4, 9)], 0),
      (.movi (fi 4 0 1 0x80000000), [], [(4, 0x80000000), (5, 0xFFFFFFFF)], 0),
      (.iaddi (fi 4 2 2 0xFFFFFFF6), [(2, 9)], [(4, 0)], 0x20)] : List Row).all Row.test = true := by
  decide +kernel

/-- 05_integer.md R126 to R130. -/
theorem test_integer_bits :
    ([(.vand (fv 4 2 3 0 0 0 0 0), [(2, 0xF0F0), (3, 0xFF00)], [(4, 0xF000)], 0),
      (.vor (fv 4 2 3 0 0 0 0 0), [(2, 0xF0F0), (3, 0xFF00)], [(4, 0xFFF0)], 0),
      (.vxor (fv 4 2 3 0 0 0 0 0), [(2, 0xF0F0), (3, 0xFF00)], [(4, 0x0FF0)], 0),
      (.vnot (fv 4 2 0 0 0 0 6 0), [(2, 1), (3, 0)], [(4, 0xFFFFFFFE), (5, 0xFFFFFFFF)], 0),
      (.shl (fv 4 2 32 0 2 0 0 4), [(2, 0xFFFFFFFF)], [(4, 0x80000000)], 0x20),
      (.shl (fv 4 2 3 0 0 0 4 0), [(2, 0x81818181), (3, 0x00010807)], [(4, 0x81020080)], 0),
      (.shr (fv 4 2 31 0 2 0 1 0), [(2, 0x80000000)], [(4, 1)], 0),
      (.sar (fv 4 2 32 0 2 0 0 0), [(2, 0x80000000)], [(4, 0xFFFFFFFF)], 0),
      (.rot (fv 4 2 36 0 2 0 1 0), [(2, 0x80000001)], [(4, 0x00000018)], 0),
      (.bfe (fv 4 2 12 5 2 0 0 0), [(2, 0xF000), (5, 4)], [(4, 0xFFFFFFFF)], 0),
      (.bfe (fv 4 2 12 5 2 0 0 0), [(2, 0xF000), (5, 40)], [(4, 0xF)], 0),
      (.bfi (fv 4 2 28 5 2 0 1 0), [(2, 0xAB), (4, 0x12345678), (5, 40)], [(4, 0xB2345678)], 0),
      (.popc (fv 4 2 0 0 0 0 7 0), [(2, 0xF1), (3, 0x80000000), (5, 9)], [(4, 6), (5, 0)], 0),
      (.clz (fv 4 2 0 0 0 0 1 0), [(2, 0)], [(4, 32)], 0),
      (.brev (fv 4 2 0 0 0 0 1 0), [(2, 0x80000002)], [(4, 0x40000001)], 0),
      (.prmb (fv 4 2 3 0 0 0 1 0), [(2, 0x80FF), (3, 0x9810)], [(4, 0xFFFF80FF)], 0)] : List Row).all Row.test
      = true := by
  decide +kernel

/-- 07_numbers.md R162 to R168; NX 1, UF 2, OF 4, DZ 8, IV 0x10. -/
theorem test_float :
    ([(.fadd (fv 4 2 3 0 0 0 8 2), [(2, 0x3F800000), (3, 0xBF800000)], [(4, 0x80000000)], 0),
      (.fadd (fv 4 2 3 0 0 0 8 0), [(2, 0x7F800000), (3, 0xFF800000)], [(4, 0x7FC00000)], 0x10),
      (.fmul (fv 4 2 3 0 0 0 10 1), [(2, 0x7BFF4000), (3, 0x40004200)], [(4, 0x7BFF4600)], 5),
      (.ffma (fv 4 2 3 5 0 0 8 0), [(2, 0x7F800000), (3, 0), (5, 0x7FC00000)], [(4, 0x7FC00000)], 0x10),
      (.fmin (fv 4 2 3 0 0 0 8 0), [(2, 0), (3, 0x80000000)], [(4, 0x80000000)], 0),
      (.fmax (fv 4 2 3 0 0 0 8 0), [(2, 0x7F800001), (3, 0x40000000)], [(4, 0x40000000)], 0x10),
      (.fdiv (fv 4 2 3 0 0 0 8 0), [(2, 0xC0400000), (3, 0)], [(4, 0xFF800000)], 8),
      (.frnd (fv 4 2 0 0 0 0 8 2), [(2, 0xC0200000)], [(4, 0xC0400000)], 0),
      (.frnd (fv 4 2 0 0 0 0 8 0), [(2, 0xBECCCCCD)], [(4, 0x80000000)], 0),
      (.fclass (fv 4 2 0 0 0 0 10 0), [(2, 0x80017C01)], [(4, 0x00040100)], 0),
      (.fsfu (fv 4 2 0 0 0 2 8 0), [(2, 0x40800000)], [(4, 0x40000000)], 0),
      (.fsfu (fv 4 2 0 0 0 0 8 0), [(2, 0x80000000)], [(4, 0xFF800000)], 8),
      (.cvt (fv 4 2 0 0 0 0 8 1), [(2, 0xC0700000)], [(4, 0xFFFFFFFD)], 1),
      (.cvt (fv 4 2 0 0 0 10 0 0), [(2, 70000)], [(4, 0x00007C00)], 5),
      (.amax (fv 4 2 0 0 0 0 9 0), [(2, 0xC0003F80)], [(4, 0x40004000)], 0),
      (.pkt5 (fv 4 2 0 0 0 0 4 0), [(2, 0x0000FF01), (3, 1)], [(4, 0x58)], 0),
      (.upkt5 (fv 4 2 0 0 0 0 4 0), [(2, 0x58)], [(4, 0x0000FF01), (5, 1)], 0),
      (.upkt5 (fv 4 2 0 0 0 0 4 0), [(2, 243)], [(4, 0), (5, 0)], 0x100)] : List Row).all Row.test = true := by
  decide +kernel

/-- The band with format slot 2 bound to the descriptor. -/
def slotted (d : Word) (b : Band) : Band := { b with fs := b.fs.set 2 d }

/-- 07_numbers.md R145, R150, R170, R171: scale code 0xFF gives the NaN of E4M3 and IV; −2.5 is 0xC2; 512 saturates to 448 (0x7E); an I8 code times 2. -/
theorem test_quantize :
    (result (.qnt (fv 4 2 0x7F 0 2 2 8 0)) fun b => (slotted 6 b).setV 2 (-1) fun _ => 0xC0200000).map
        (fun b => (b.v32 9 4, b.flags)) = some (0x7F, 0x10)
    ∧ (result (.qnt (fv 4 2 3 0 0 2 8 0)) fun b => ((slotted 6 b).setV 2 (-1) fun _ => 0xC0200000).setV 3 (-1) fun _ => 127).map
        (fun b => (b.v32 9 4, b.flags)) = some (0xC2, 0)
    ∧ (result (.qnt (fv 4 2 3 0 0 2 8 0)) fun b => ((slotted 0x806 b).setV 2 (-1) fun _ => 0x44000000).setV 3 (-1) fun _ => 127).map
        (fun b => (b.v32 9 4, b.flags)) = some (0x7E, 5)
    ∧ (result (.dqnt (fv 4 2 3 0 0 2 8 0)) fun b => ((slotted 2 b).setV 2 (-1) fun _ => 0xFD).setV 3 (-1) fun _ => 128).map
        (fun b => (b.v32 9 4, b.flags)) = some (0xC0C00000, 0) := by
  decide +kernel

/-- The band with lane `l` holding `x l` in register `n`. -/
def perLane (n : Nat) (x : Nat → Nat) (b : Band) : Band := b.setV n (-1) fun l => BitVec.ofNat 32 (x l)

/-- 05_integer.md R131 to R135 and the table of R131. -/
theorem test_exchange :
    (result (.shfl (fv 1 1 1 0 2 2 0 0)) (perLane 1 id)).map (fun b => (b.v32 0 1, b.v32 30 1, b.v32 31 1))
        = some (1, 31, 31)
    ∧ (result (.scan (fv 10 4 0 0 0 16 2 0)) (perLane 4 fun _ => 0x7FFF7FFF)).map
        (fun b => (b.v32 0 10, b.v32 9 10, b.v32 31 11)) = some (32767, 327670, 1048544)
    ∧ (result (.scan (fv 1 1 0 0 0 8 0 0)) (perLane 1 fun _ => 1)).map (fun b => (b.v32 0 1, b.v32 31 1)) = some (0, 31)
    ∧ (result (.rdc (fv 1 1 0 0 0 2 0 0)) (perLane 1 fun l => l + 3)).map (fun b => b.v32 7 1) = some 34
    ∧ (result (.cmpct (fv 4 3 0 1 0 0 0 0)) fun b => (perLane 3 id b).setPred 1 (-1) 0xB2).map
        (fun b => (b.v32 0 4, b.v32 1 4, b.v32 3 4, b.v32 4 4)) = some (1, 4, 7, 0)
    ∧ (result (.vote (fv 7 1 0 0 0 3 0 0)) fun b => b.setPred 1 (-1) 0xB2).map (fun b => b.v32 9 7) = some 0xB2
    ∧ (result (.vote (fv 7 1 0 0 0 2 0 0)) fun b => b.setPred 1 (-1) 0xB2).map (fun b => b.pred 7) = some 0 := by
  decide +kernel

/-- What a scalar word leaves in S[4], with the scalar registers it finds. -/
def scalarOf (i : Instr) (l : List (Nat × DWord)) : Option DWord :=
  (result i fun b => l.foldl (fun b e => b.setS e.1 e.2) b).map fun b => b.sreg 4

/-- 05_integer.md R137, R138. -/
theorem test_scalar :
    scalarOf (.sadd (fs 4 1 2 0 false 0)) [(1, -1), (2, 3)] = some 2
    ∧ scalarOf (.ssub (fs 4 1 0 0 true 0x7FFFFF)) [(1, 5)] = some 6
    ∧ scalarOf (.smul (fs 4 1 2 0 false 0)) [(1, 0x100000001), (2, 0x100000001)] = some 0x200000001
    ∧ scalarOf (.sand (fs 4 1 2 0 false 0)) [(1, 0xF0F0), (2, 0xFF00)] = some 0xF000
    ∧ scalarOf (.sor (fs 4 1 2 0 false 0)) [(1, 0xF0F0), (2, 0xFF00)] = some 0xFFF0
    ∧ scalarOf (.sxor (fs 4 1 2 0 false 0)) [(1, 0xF0F0), (2, 0xFF00)] = some 0x0FF0
    ∧ scalarOf (.sshl (fs 4 1 2 0 false 0)) [(1, 1), (2, 64)] = some 0
    ∧ scalarOf (.sshr (fs 4 1 2 1 false 0)) [(1, 0x8000000000000000), (2, 200)] = some (-1)
    ∧ scalarOf (.smov (fs 4 0 2 0 false 0)) [(2, 77)] = some 77
    ∧ scalarOf (.scmp (fs 4 1 2 10 false 0)) [(1, 1), (2, -1)] = some 1
    ∧ scalarOf (.scmp (fs 4 1 2 2 false 0)) [(1, 1), (2, -1)] = some 0
    ∧ scalarOf (.ssel (fs 4 1 2 0 false 0)) [(1, 1), (2, 9), (4, 0)] = some 9
    ∧ scalarOf (.smin (fs 4 1 2 1 false 0)) [(1, 1), (2, -1)] = some 1
    ∧ scalarOf (.smax (fs 4 1 2 0 false 0)) [(1, 1), (2, -1)] = some 1
    ∧ scalarOf (.smovi (fs 4 0 0 0 true 0x400000)) [] = some 0xFFFFFFFFFFC00000
    ∧ scalarOf (.smovh (fs 4 0 0 2 true 0x3FFFF)) [(4, 5)] = some 0xFFFFC00000000005
    ∧ (result (.srdl (fs 4 0 3 0 true 2)) fun b => (perLane 2 (· + 100) b).setS 3 0x107).map (fun b => b.sreg 4)
        = some 107 := by
  decide +kernel

/-- What a word leaves in predicate 4, with the predicates it finds. -/
def predOf (i : Instr) (l : List (Nat × LaneMask)) : Option LaneMask :=
  (result i fun b => l.foldl (fun b e => b.setPred e.1 (-1) e.2) b).map fun b => b.pred 4

/-- 05_integer.md R123, R140; 07_numbers.md R165: LT of a quiet NaN gives 0 and raises IV. -/
theorem test_predicate :
    predOf (.plop (fv 4 1 2 0 0 4 0 0)) [(1, 0xFF00FF00), (2, 0xF0F0F0F0)] = some 0x0F000F00
    ∧ predOf (.pset (fi 4 0 0 0x80000001)) [] = some 0x80000001
    ∧ (result (.sprd (fv 4 0 3 0 1 0 0 0)) fun b => b.setS 3 0x1000000B2).map (fun b => b.pred 4) = some 0xB2
    ∧ (result (.vtop (fv 4 2 0 0 0 0 0 0)) (perLane 2 (· % 2))).map (fun b => b.pred 4) = some 0xAAAAAAAA
    ∧ (result (.ptov (fv 4 1 0 0 0 0 0 0)) fun b => b.setPred 1 (-1) 2).map (fun b => (b.v32 0 4, b.v32 1 4)) = some (0, 1)
    ∧ (result (.pcnt (fv 4 1 0 0 0 0 0 0)) fun b => b.setPred 1 (-1) 0xB2).map (fun b => b.v32 31 4) = some 4
    ∧ (result (.icmp (fv 4 2 3 0 0 2 5 0)) fun b => (perLane 2 (fun _ => 0x01020309) b).setV 3 (-1) fun _ => 0x02030405).map
        (fun b => b.pred 4) = some 0
    ∧ (result (.icmp (fv 4 2 3 0 0 2 5 0)) fun b => (perLane 2 (fun _ => 0x01020304) b).setV 3 (-1) fun _ => 0x02030405).map
        (fun b => b.pred 4) = some (-1)
    ∧ (result (.fcmp (fv 4 2 3 0 0 2 8 0)) fun b => (perLane 2 (fun _ => 0x7FC00000) b).setV 3 (-1) fun _ => 0).map
        (fun b => (b.pred 4, b.flags)) = some (0, 0x10) := by
  decide +kernel

/-- 02_formats.md R28, 05_integer.md R116: a guarded word leaves the lanes that its guard shuts out as they were. -/
theorem test_guard :
    (result (.movi ⟨⟨5, true⟩, 7, 0, 0, 9⟩) fun b => b.setPred 5 (-1) 2).map (fun b => (b.v32 0 7, b.v32 1 7)) = some (9, 0) := by
  decide +kernel

/-! ### Witnesses: for each statement, a state and operands that meet its hypotheses -/

/-- The band in slot 0 of core 0, with its crew and its context. -/
def at0 (s : State) : Here := (s.hereAt 0 0).getD ⟨0, 0, probeBand, probeCrew, probeCtx⟩

/-- What `Ready` asks for, as a test. -/
def isReady (s : State) : Bool :=
  decide (s.here? = some (at0 s)) && (at0 s).band.running != 0
    && s.clones.all fun e => !(e.1 == (at0 s).core && e.2.1 == (at0 s).slot)

theorem ready_of {s : State} (x : isReady s = true) : Ready s (at0 s) := by
  simp only [isReady, Bool.and_eq_true, decide_eq_true_eq, bne_iff_ne, List.all_eq_true, Bool.not_eq_true',
    Bool.and_eq_false_iff, beq_eq_false_iff_ne] at x
  exact ⟨x.1.1, x.1.2, fun e he h => (x.2 e he).elim (fun a => a h.1) fun a => a h.2⟩

/-- The bench with its band changed. -/
abbrev withBand (f : Band → Band) : State := bench.modBand 0 0 f
/-- The bench with its crew PAIRED, lane 20 and so on shadows of 4 and so on. -/
def pairedBench : State := bench.modCrew 0 0 fun w => { w with paired := true }
/-- The bench with its crew CHECKED, sixteen lanes RUNNING, and mismatches armed for the lanes `l`. -/
def checkedBench (l : List Nat) : State :=
  let s := (bench.modBand 0 0 fun b => { b with lanes := b.lanes.mapIdx fun i x => if i < 16 then x else { x with st := .exited } })
  { s.modCrew 0 0 fun w => { w with checked := true } with clones := l.map fun i => (0, 0, i) }

/-- IntegerInstructions, MovesAndScalars, LaneExchange, PredicatesReadsAndSequencer, FloatArithmetic, FloatFunctionsAndScans,
FloatClass: a band that is Ready and, in `test_words_are_legal`, a legal word of each instruction; a band of a PAIRED crew;
a guard that Leader meets and one that no lane does. -/
theorem witness_lane_words :
    Ready bench (at0 bench) ∧ Ready pairedBench (at0 pairedBench) ∧ (at0 pairedBench).crew.paired = true
    ∧ (at0 bench).band.leads g0 = true ∧ (at0 bench).band.leads ⟨5, false⟩ = false
    ∧ (∀ i ∈ ([.iadd (fv 4 2 3 0 0 0 4 4), .scan (fv 4 2 0 0 0 8 8 3), .scan (fv 4 2 0 0 0 16 2 4), .rdc (fv 4 2 0 0 0 5 7 0),
        .shfl (fv 4 2 0 0 0 4 6 0), .fclass (fv 4 2 0 0 0 0 8 0), .smovh (fs 4 0 0 2 true 0x3FFFF), .lblid (fi 4 0 1 7),
        .swcnt (fs 4 0 0 0 false 0), .cens (fs 4 0 0 0 false 0), .yieldBand (fc 0 0 0 0), .nop (fc 0 0 0 0)] : List Instr), i.wf = true) :=
  ⟨ready_of (by decide +kernel), ready_of (by decide +kernel), by decide +kernel⟩

/-- A module of 64 words with a label at 0x40, a handler's at 0x80 and a function's at 0xC0. -/
def labelledModule : Module :=
  { code := 0, size := 512, labels := [⟨0x40, 0, false, 0⟩, ⟨0x80, 2, false, 0⟩, ⟨0xC0, 1, false, 0⟩], kernels := [],
    symbols := [], spans := [], old := false }
/-- The bench in that module. -/
def labelled : State := bench.modCtx 0 fun x => { x with modules := [(1, labelledModule)] }
/-- `labelled` with each lane's stack as given. -/
def stacked (depth : Nat) (top : List (BitVec 16)) : State := labelled.modBand 0 0 fun b => { b with
  lanes := b.lanes.map fun l => { l with depth := BitVec.ofNat 16 depth, top := top } }

/-- The access ends (`ok_of`). -/
def isOk {α : Type} : Res α → Bool
  | .ok _ _ => true
  | _ => false
/-- The accesses of the stacks all end. -/
def pushed : Stacked → Bool
  | .ok _ _ => true
  | _ => false
theorem ok_of {α : Type} {r : Res α} (a : isOk r = true) : ∃ s x, r = .ok s x := by
  cases r <;> simp_all [isOk]

theorem target_of {h : Here} {x : BitVec 16} (a : ((h.label x).any fun e => e.attr != 2) = true) : h.Target x := by
  cases he : h.label x with
  | none => simp [he] at a
  | some e => exact ⟨e, he, by simpa [he] using a⟩
theorem no_target_of {h : Here} {x : BitVec 16} (a : ((h.label x).any fun e => e.attr != 2) = false) : ¬h.Target x := by
  rintro ⟨e, he, hn⟩
  simp [he, hn] at a
theorem agrees_of {h : Here} {g : Guard} {t : Nat → BitVec 16} (a : h.crew.paired = false) : h.Agrees g t := by
  intro b; simp [a] at b

/-- LanesMove: GO and GOI to a label, to a function's label, and with no lane to act on; in a PAIRED crew, halves that agree. -/
theorem witness_lanes_go :
    Ready labelled (at0 labelled) ∧ (at0 labelled).Agrees g0 (fun _ => 0) ∧ (at0 labelled).Target 0 ∧ (at0 labelled).Target 2
    ∧ (∀ l, l < 32 → (at0 labelled).Target ((at0 labelled).named 9 l)) ∧ (at0 pairedBench).Agrees g0 (fun _ => 0)
    ∧ (at0 labelled).band.guarded ⟨5, false⟩ = 0 ∧ (Instr.go (fc 0 0 0 0)).wf = true ∧ (Instr.goi (fc 0 0 9 0)).wf = true :=
  ⟨ready_of (by decide +kernel), agrees_of (by decide +kernel), target_of (by decide +kernel), target_of (by decide +kernel),
    fun l hl => by
      have : ∀ l, l < 32 → (((at0 labelled).label ((at0 labelled).named 9 l)).any fun e => e.attr != 2) = true := by
        decide +kernel
      exact target_of (this l hl),
    fun _ l hl => by
      have : ∀ l, l < 16 → ((at0 pairedBench).band.guarded g0).getLsbD l = true
          ∧ ((at0 pairedBench).band.guarded g0).getLsbD (l + 16) = true := by decide +kernel
      exact ⟨iff_of_true (this l hl).1 (this l hl).2, fun _ => rfl⟩,
    by decide +kernel⟩

/-- LanesMove, StacksAndControlFaults: a CALL at depth 0, at the last depth held in hardware and at one beyond; a RET
at depths 1, 4 and 5. -/
theorem witness_calls :
    (∀ d ∈ [0, 3, 4], isReady (stacked d [0, 0, 0, 0]) = true ∧ d + 1 ≤ (at0 (stacked d [])).band.cstk.toNat / 2)
    ∧ (∀ d ∈ [1, 4, 5], isReady (stacked d [2, 0, 0, 0]) = true)
    ∧ (Instr.call (fc 0 2 0 0)).wf = true ∧ (Instr.calli (fc 0 2 9 0)).wf = true ∧ (Instr.ret (fc 0 0 0 0)).wf = true
    ∧ (at0 (stacked 0 [])).crew.paired = false ∧ (stacked 4 []).privBusy (at0 (stacked 4 [])) = false
    ∧ (((at0 (stacked 4 [])).label 0).any fun e => e.attr != 2) = true ∧ (((at0 (stacked 4 [])).label 2).any fun e => e.attr != 2) = true := by
  decide +kernel

/-- StacksAndControlFaults: the spill of lane 0 ends, and so does its fill, at depth 5 and at the last one that PVSIZE
has room for; one beyond it is RANGE. -/
theorem witness_spill_and_fill :
    pushed ((stacked 4 [0, 0, 0, 0]).pushAll (at0 (stacked 4 [0, 0, 0, 0]))
        ((at0 (stacked 4 [0, 0, 0, 0])).band.wantAll 1 fun _ => 0) 2 (lanesOf 1)) = true
    ∧ (∀ d ∈ [5, 36], pushed ((stacked d [2, 0, 0, 0]).popAll (at0 (stacked d [2, 0, 0, 0])) (at0 (stacked d [2, 0, 0, 0])).band [0]) = true)
    ∧ (match (stacked 37 [2, 0, 0, 0]).popAll (at0 (stacked 37 [2, 0, 0, 0])) (at0 (stacked 37 [2, 0, 0, 0])).band [0] with
       | .bad l e sub => (l, e, sub) | _ => (9, 9, 9)) = (0, 64, 3)
    ∧ (at0 (stacked 37 [])).ctx.pvsize.toNat = 64 ∧ (at0 (stacked 37 [])).band.lanes.length = 32 := by
  decide +kernel

/-- `stacked` at depth 1, with lane 3 at another depth. -/
def uneven (d : Nat) : State := (stacked 1 [0]).modBand 0 0 fun b => { b with
  lanes := b.lanes.set 3 ⟨.running, 0xFFFF, 0, 0, 0, BitVec.ofNat 16 d, [0]⟩ }

/-- StacksAndControlFaults: GO to a handler and to no label; a GOI whose lanes meet both, the lowest code in lane 5; a CALL
whose lane 3 is the lowest without room; a RET whose lane 3 is the lowest with an empty stack. -/
theorem witness_control_faults :
    Ready labelled (at0 labelled) ∧ (at0 labelled).Agrees g0 (fun _ => 1) ∧ ¬(at0 labelled).Target 1 ∧ ¬(at0 labelled).Target 3
    ∧ Ready (uneven 32) (at0 (uneven 32)) ∧ (at0 (uneven 32)).Target 0 ∧ Ready (uneven 0) (at0 (uneven 0)) ∧ (at0 (uneven 0)).Target 0
    ∧ ((at0 labelled).label 1).isSome = true ∧ ((at0 labelled).label 3).isSome = false ∧ (at0 labelled).band.guarded g0 ≠ 0
    ∧ (let h := at0 (labelled.modBand 0 0 fun b => b.setV 9 (-1) fun l => if l < 5 then 1 else 3)
       h.named 9 4 = 1 ∧ h.named 9 5 = 3 ∧ (h.label 1).map (·.attr) = some 2 ∧ h.label 3 = none)
    ∧ ((at0 (uneven 32)).band.guarded g0).getLsbD 3 = true
    ∧ (at0 (uneven 32)).band.cstk.toNat / 2 < ((at0 (uneven 32)).band.lane 3).depth.toNat + 1
    ∧ (∀ k, k < 3 → ((at0 (uneven 32)).band.lane k).depth.toNat + 1 ≤ (at0 (uneven 32)).band.cstk.toNat / 2)
    ∧ ((at0 (uneven 0)).band.lane 3).depth = 0 ∧ (∀ k, k < 3 → ((at0 (uneven 0)).band.lane k).depth ≠ 0)
    ∧ (∀ k, k < 32 → ((at0 (uneven 0)).band.lane k).top.headD 0 = 0) :=
  ⟨ready_of (by decide +kernel), agrees_of (by decide +kernel), no_target_of (by decide +kernel), no_target_of (by decide +kernel),
    ready_of (by decide +kernel), target_of (by decide +kernel), ready_of (by decide +kernel), target_of (by decide +kernel),
    by decide +kernel⟩

/-- MismatchesAndRunOff: in a PAIRED crew a guard that divides lanes 3 and 19, and targets of GOI that differ there; a band whose
lane 3 has exited, before an ENG; armed mismatches of a CHECKED crew of which lane 7 is the lowest that runs; a band that
is selected at the end of its code, in either mode. -/
theorem witness_mismatches :
    (let h := at0 (pairedBench.modBand 0 0 fun b => (b.setPred 5 (-1) 0x0000FFF7).setV 9 (-1) fun l => if l = 19 then 1 else 0)
     h.crew.paired = true ∧ h.band.guarded ⟨5, false⟩ ≠ 0
     ∧ (∀ n, n < 3 → h.named 9 n = h.named 9 (n + 16)) ∧ h.named 9 3 ≠ h.named 9 19
     ∧ (∀ n, n < 16 → (h.band.guarded ⟨5, true⟩).getLsbD n = decide (n = 3)) ∧ (h.band.guarded ⟨5, true⟩).getLsbD 19 = true)
    ∧ (let s := pairedBench.modBand 0 0 fun b => { b with lanes := b.lanes.set 3 ⟨.exited, 0, 0, 0, 0, 0, []⟩ }
       isReady s = true ∧ (at0 s).band.leads g0 = true
       ∧ (∀ n, n < 3 → (at0 s).band.running.getLsbD n = (at0 s).band.running.getLsbD (n + 16))
       ∧ (at0 s).band.running.getLsbD 3 ≠ (at0 s).band.running.getLsbD 19)
    ∧ (let s := checkedBench [20, 9, 7]
       let m := (at0 s).band.guarded g0
       let u := Claims.HwTrap s (at0 s) 1 7 m
       s.here? = some (at0 s) ∧ (at0 s).crew.checked = true ∧ ((List.range 32).filter fun k => m.getLsbD k).length = 16
       ∧ m.getLsbD 7 = true ∧ (0, 0, 7) ∈ s.clones ∧ (∀ k, k < 7 → (0, 0, k) ∉ s.clones)
       ∧ ((u.band? 0 0).bind (·.waitTo)) = none) := by
  decide +kernel

/-- The bench at TL = 1 with handler lanes `m`, of which those in `e` have exited. -/
def handling (m e : LaneMask) : State := bench.modBand 0 0 fun b => { b with
  tl := true, handler := m, lanes := b.lanes.mapIdx fun i l => if e.getLsbD i then { l with st := .exited } else l }

/-- LanesMove: an EXIT at TL = 0; at TL = 1 with a handler lane left; and the exit of the last ones. -/
theorem witness_exit :
    (at0 bench).band.tl = false ∧ (Instr.exit (fc 0 0 0 0)).wf = true
    ∧ Ready (handling 7 0) (at0 (handling 7 0)) ∧ (at0 (handling 7 0)).band.handler.getLsbD 2 = true
    ∧ ¬(at0 (handling 7 0)).lanes ⟨0, true⟩ 2 ∧ ((at0 (handling 7 0)).band.lane 2).st ≠ .exited
    ∧ Ready (handling 7 2) (at0 (handling 7 2)) ∧ (at0 (handling 7 2)).band.tl = true
    ∧ ∀ l, l < 32 → (at0 (handling 7 2)).band.handler.getLsbD l = true →
        ((at0 (handling 7 2)).band.guarded g0).getLsbD l = true ∨ ((at0 (handling 7 2)).band.lane l).st = .exited :=
  ⟨by decide +kernel, by decide +kernel, ready_of (by decide +kernel), by decide +kernel,
    by unfold Here.lanes; decide +kernel, by decide +kernel, ready_of (by decide +kernel), by decide +kernel, by decide +kernel⟩

/-- The labelled bench with its lanes WANTING label 0, at whose offset 0x40 the word `w` stands, and P as given. -/
def wantingOn (w : Nat) (p : BitVec 64) : State :=
  let s := (State.reset.withFetchWord 64 0).fwPut 0x40 (toBytes 8 w)
  let t : State := { s with l2 := [] }
  (t.modCtx 0 fun x => { x with modules := [(1, labelledModule)] }).modBand 0 0 fun b =>
    { b with p := p, lanes := List.replicate 32 ⟨.wanting, 0, 0, 0, 0, 0, []⟩ }
/-- The same with its LBL there. -/
def wanting (p : BitVec 64) : State := wantingOn 1 p

/-- What a fetch gives. -/
def fetched : Res (DWord × Bool) → Option (DWord × Bool)
  | .ok _ x => some x
  | _ => none

/-- LabelsAreServed: a LBL that lanes want; a skip ahead, and one that wraps, to a label whose LBL stands there; a module. -/
theorem witness_labels :
    Ready (labelled.modBand 0 0 fun b => { b with lanes := b.lanes.set 9 ⟨.wanting, 0, 0, 0, 0, 0, []⟩ })
      (at0 (labelled.modBand 0 0 fun b => { b with lanes := b.lanes.set 9 ⟨.wanting, 0, 0, 0, 0, 0, []⟩ }))
    ∧ (Instr.lbl (fc 0 0 0 0)).wf = true
    ∧ (wanting 0).here? = some (at0 (wanting 0)) ∧ (at0 (wanting 0)).band.running = 0
    ∧ (at0 (wanting 0)).nextLabel = some ((0, 0x40), false) ∧ (at0 (wanting 0x48)).nextLabel = some ((0, 0x40), true)
    ∧ fetched (((wanting 0).cacheLabel 0 0 1 0).fetchWord (at0 (wanting 0)) 0x40) = some (1, false)
    ∧ decode 1 = .ok (.lbl (fc 0 0 0 0))
    ∧ (labelled.ctx? 0).map (fun v => v.modules.find 1) = some (some labelledModule) :=
  ⟨ready_of (by decide +kernel), by decide +kernel, by decide +kernel, by decide +kernel, by decide +kernel, by decide +kernel,
    by decide +kernel, by rfl, by decide +kernel⟩

/-- LabelsAreServed: a skip that finds another word, or an ill-formed LBL, at the label. -/
theorem witness_bad_labels :
    (∀ w ∈ [0, 0x00FF000000000001], let s := wantingOn w 0
      s.here? = some (at0 s) ∧ (at0 s).band.running = 0 ∧ (at0 s).nextLabel = some ((0, 0x40), false)
      ∧ fetched ((s.cacheLabel 0 0 1 0).fetchWord (at0 s) 0x40) = some (BitVec.ofNat 64 w, false))
    ∧ ((0 : DWord).extractLsb' 0 8 ≠ 1 ∧ (0x00FF000000000001 : DWord).extractLsb' 0 8 = 1 ∧ (0x00FF000000000001 : DWord).extractLsb' 16 16 = 0)
    ∧ (match decode 0x00FF000000000001 with | .error _ => true | .ok _ => false) = true := by
  decide +kernel

/-- RoundingAndExactness: a value of every format in range and one beyond it, by their flags, and one that is tiny; operands with
exact values; the codes at the ends of each format. -/
theorem witness_rounding :
    (∀ f ∈ floatFormats, (f.round 0 true false (.fin true 1 1 0)).2.getLsbD 2 = false
      ∧ (f.round 0 true false (.fin true 1 1 200)).2.getLsbD 2 = true ∧ (f.round 0 true false (.fin true 1 1 (-200))).2 = 3)
    ∧ (∃ p q, (FNum.fin false 3 2 1).rat? = some p ∧ (FNum.fin true 0 1 0).rat? = some q) :=
  ⟨by decide +kernel, _, _, rfl, rfl⟩

/-- FloatArithmetic: operands of minimumNumber and maximumNumber that are less, greater, and zeros of two signs. -/
theorem witness_picks :
    let z := fun n => FNum.fin n 0 1 0
    numLt (.fin false 1 1 0) (.fin false 3 1 0) = true ∧ numLt (.fin false 3 1 0) (.fin false 1 1 0) = false
    ∧ numLt (z true) (z false) = false ∧ numLt (z false) (z true) = false ∧ (z true).sign? = some true ∧ (z false).sign? = some false := by
  decide

/-- 07_numbers.md R149, R150, R162: beyond the largest value, BF16 gives an infinity or its largest value by the mode and the sign, and
saturates with SAT; E4M3 gives NaN or saturates; E2M1 has nothing but its largest value; a subnormal result under FTZ. -/
theorem test_overflow :
    (List.map (fun rm => fmtBF16.round rm false false (.fin true 1 1 200)) [0, 1, 2, 3]) = [(0xFF80, 5), (0xFF7F, 5), (0xFF80, 5), (0xFF7F, 5)]
    ∧ fmtBF16.round 0 true false (.fin false 1 1 200) = (0x7F7F, 5)
    ∧ fmtE4M3.round 0 false false (.fin false 464 1 0) = (0x7E, 1) ∧ fmtE4M3.round 0 false false (.fin false 465 1 0) = (0x7F, 5)
    ∧ fmtE4M3.round 0 true false (.fin true 480 1 0) = (0xFE, 5) ∧ fmtE2M1.round 0 false false (.fin true 9 1 0) = (0xF, 5)
    ∧ fmtF32.round 0 false true (.fin true 1 1 (-140)) = (0x80000000, 3) ∧ fmtF32.round 0 false false (.fin true 1 1 (-140)) = (0x80000200, 0) := by
  decide +kernel

/-- Conversions, FloatFunctionsAndScans: slots that are bound and one that is not; kinds; five trits; an F32 scan; a float that an
integer kind holds, one that it rounds, and one that is out of its range. -/
theorem witness_conversions :
    Ready (withBand (slotted 6)) (at0 (withBand (slotted 6)))
    ∧ slotKind ((at0 (withBand (slotted 6))).band.slotDesc 2) ≠ .unbound
    ∧ slotKind ((at0 (withBand (slotted 6))).band.slotDesc 3) = .unbound
    ∧ (∀ i ∈ ([.qnt (fv 4 2 3 0 0 2 8 0), .dqnt (fv 4 2 3 0 0 2 10 0), .cvt (fv 4 2 0 0 0 7 8 15), .amax (fv 4 2 0 0 0 2 9 0),
        .scan (fv 4 2 0 0 0 8 8 3)] : List Instr), i.wf = true)
    ∧ ([1, -1, 0, 0, 1] : List Int).length = 5 ∧ (∀ x ∈ ([1, -1, 0, 0, 1] : List Int), x = -1 ∨ x = 0 ∨ x = 1)
    ∧ (fv 4 2 0 0 0 8 8 3).sub.toNat / 16 % 2 = 0
    ∧ (convElem 8 4 0 false false 0x42FE8000 = (127, 1) ∧ convElem 8 4 1 false false 0x42FF0000 = (127, 1)
       ∧ convElem 8 4 0 false false 0x43000000 = (127, 0x10) ∧ convElem 8 4 0 false false 0xC3000000 = (0x80, 0)) :=
  ⟨ready_of (by decide +kernel), by decide +kernel⟩

/-- The location a locate gives, or its sub-cause. -/
def located : Except Nat (Loc × Nat) → Loc × Nat ⊕ Nat
  | .ok x => .inl x
  | .error e => .inr e

/-- An element that waits, and an operation of it. -/
def elemOf0 (lane : Nat) (loc : Loc) (d : List Byte) : Elem := ⟨lane, loc, d, [], 0, 0, none, 5, [], .pending⟩
def opOf (id : Nat) (kind : OpKind) (size : Nat) (es : List Elem) : MemOp := ⟨id, kind, size, 0, false, false, 9, 3, 0, false, es⟩
/-- The bench with operations in its band's log. -/
def logged (l : List MemOp) : State := bench.modBand 0 0 fun b => { b with log := l }
/-- A load of 4 CHIP bytes, numbered `n`. -/
def chipLoad (n : Nat) : MemOp := opOf n .load 4 [elemOf0 0 (.chip 0x100) []]

/-- MemoryInstructions: legal words; room in the log, and none; a release with an operation outstanding; lane addresses that
all resolve, and one whose third is the lowest that does not; in a PAIRED crew halves that agree and halves that do not. -/
theorem witness_memory_instructions :
    Ready bench (at0 bench) ∧ (at0 bench).room bench .load ∧ (at0 bench).room bench .store
    ∧ ¬(at0 (logged ((List.range 63).map chipLoad))).room (logged ((List.range 63).map chipLoad)) .load
    ∧ (∀ i ∈ ([.lds (fm 4 0 1 1 2 0 0 0 3 0), .sts (fm 4 0 1 2 0 2 2 0 3 0), .atoms (fa 4 0 1 1 2 1 0 0 3 3 5)] : List Instr), i.wf = true)
    ∧ bench.drained (at0 bench) = true ∧ (at0 bench).band.guarded g0 ≠ 0
    ∧ (at0 bench).band.guarded ⟨5, false⟩ = 0 ∧ isReady (logged ((List.range 63).map chipLoad)) = true
    ∧ (logged [chipLoad 0]).drained (at0 (logged [chipLoad 0])) = false ∧ isReady (logged [chipLoad 0]) = true
    ∧ (∀ l, l < 32 → (located (bench.locate (at0 bench) 1 4 .r ((at0 bench).address 1 1 0 0 0 l))).isLeft = true)
    ∧ (let h := at0 (withBand (perLane 2 fun l => 4 * l + (if l = 2 then 1 else 0)))
       (∀ n, n < 2 → (located (bench.locate h 1 4 .r (h.address 0 1 2 0 0 n))).isLeft = true)
       ∧ located (bench.locate h 1 4 .r (h.address 0 1 2 0 0 2)) = .inr 4)
    ∧ (∀ l, l < 16 → ((at0 pairedBench).band.guarded g0).getLsbD l = ((at0 pairedBench).band.guarded g0).getLsbD (l + 16)
        ∧ (at0 pairedBench).address 0 1 2 0 0 l = (at0 pairedBench).address 0 1 2 0 0 (l + 16))
    ∧ (let h := at0 (pairedBench.modBand 0 0 (perLane 2 fun l => 4 * (l / 19)))
       (∀ l, l < 3 → h.address 0 1 2 0 0 l = h.address 0 1 2 0 0 (l + 16))
       ∧ h.address 0 1 2 0 0 3 ≠ h.address 0 1 2 0 0 19) := by
  refine ⟨ready_of (by decide +kernel), ?_, ?_, ?_, by decide +kernel⟩ <;> unfold Here.room <;> decide +kernel

/-- AddressesAndPages: addresses at both ends of each space; GLB addresses that no window covers, that window 0 covers, and
for which it lacks a permission. -/
theorem witness_addresses :
    ([(0, 60), (0, 64), (1, 65532), (1, 65536), (2, 65532), (2, 65536), (2, 0x80000), (2, 0x7FFFFC), (2, 0x800000), (3, 0xFFFC),
        (3, 0x10000)] : List (Nat × Nat)).map
        (fun e => located (bench.locate (at0 bench) (BitVec.ofNat 3 e.1) 4 .r (BitVec.ofNat 64 e.2)))
      = [.inl (.priv 60, 0), .inr 3, .inl (.scr 0 65532, 0), .inr 3, .inl (.scr 0 65532, 0), .inr 3, .inr 3, .inr 3, .inr 3,
          .inl (.chip 0xFFFC, 0), .inr 3]
    ∧ ((at0 bench).crew.gang = [(0, 0)] ∧ (at0 bench).ctx.Covers 0 0xFFFC ∧ (∀ i, i < 16 → ¬(at0 bench).ctx.Covers i 0x10000)
    ∧ (at0 bench).ctx.Permits 0 .rw ∧ ¬({ (at0 bench).ctx with vw := [(0, 0x03), (1, 0)] } : Ctx).Permits 0 .w) := by
  refine ⟨by decide +kernel, ?_⟩
  simp only [Ctx.Covers, Ctx.Permits]
  decide +kernel

/-- A page table with the given entries for address 0 at levels 1 to 4. -/
def tables (l : List DWord) : State :=
  { State.reset with ptes := (l.zipIdx.foldl (fun t e => t.put (pteKey (e.2 + 1) 0x12345) e.1) ([] : Tab DWord)) }
/-- What a translation gives: an address, its sub-cause, or a wait. -/
def translated : Res Leaf → Option (Nat ⊕ Nat)
  | .ok _ l => some (.inl l.pa)
  | .bad e => some (.inr e)
  | .hold => none

/-- AddressesAndPages: a leaf of 2 MiB, one of 64 KiB; an invalid entry at each level, with and without service; the ways
an entry is malformed; and a permission that lacks. -/
theorem witness_pages :
    (([([1, 1, 0x20001F], .r), ([1, 1, 1, 0x3001F], .w), ([1, 1, 1, 0x3001F], .x), ([0], .r), ([1, 0], .r), ([1, 1, 0], .r),
        ([1, 1, 0x40], .r), ([1, 1, 1, 0x40], .r), ([0x101], .r), ([1, 0x201], .r), ([3], .r), ([1, 1, 1, 1], .r),
        ([1, 1, 0x01001F], .r), ([1, 1, 1, 0x3101F], .r), ([1, 1, 0x200003], .r), ([1, 1, 1, 0x30007], .w)] :
        List (List DWord × Need)).map fun e => translated ((tables e.1).translate 0x12345 e.2))
      = [some (.inl 0x212345), some (.inl 0x32345), some (.inl 0x32345)] ++ [5, 5, 5].map (fun e => some (.inr e)) ++ [none, none]
        ++ [7, 7, 7, 7, 7, 7, 6, 6].map (fun e => some (.inr e)) := by
  decide +kernel

/-- What `Due` asks for, as a test. -/
def isDue (s : State) (o : MemOp) (e : Elem) : Bool :=
  let h := at0 s
  decide (s.hereAt h.core h.slot = some h) && decide (h.band.log.find? (fun p => p.id == o.id) = some o)
    && decide (o.elems.find? (fun d => d.lane == e.lane) = some e) && (h.band.log.all fun p => p.id != o.id || decide (p = o))
    && (o.elems.all fun d => d.lane != e.lane || decide (d = e)) && decide (e.lane < 32) && decide (e.st = .pending)
    && s.mayGo h o.id e.lane && (!h.band.tl && !h.band.killed && !o.kept)

theorem due_of {s : State} {o : MemOp} {e : Elem} (x : isDue s o e = true) : Due s (at0 s) o e := by
  simp only [isDue, Bool.and_eq_true, decide_eq_true_eq, Bool.not_eq_true', List.all_eq_true, Bool.or_eq_true, bne_iff_ne] at x
  obtain ⟨⟨⟨⟨⟨⟨⟨⟨a, b⟩, c⟩, p⟩, q⟩, d⟩, f⟩, g⟩, ⟨i, j⟩, k⟩ := x
  exact ⟨a, b, c, fun y hy n => (p y hy).resolve_left (absurd n), fun y hy n => (q y hy).resolve_left (absurd n), d, f, g, i, j, k⟩

/-- An operation of one element of lane 7, with all its kind needs. -/
def single (kind : OpKind) (loc : Loc) : MemOp := opOf 5 kind 4 [elemOf0 7 loc [1, 2, 3, 4]]
def theElem (loc : Loc) : Elem := elemOf0 7 loc [1, 2, 3, 4]
def allKinds : List OpKind := [.load, .store, .loadS, .storeS, .loadT, .atom, .cas, .atomS, .red, .cctl]

/-- ElementsPerformed: an element of each kind at the last CHIP bytes of the context and at the last of the crew's
scratchpad, free of poison; a load of 128 bits that lacks both of its parts, and one that lacks the second. -/
theorem witness_elements :
    (∀ k ∈ allKinds, isDue (logged [single k (.chip 0xFFFC)]) (single k (.chip 0xFFFC)) (theElem (.chip 0xFFFC)) = true
      ∧ isDue (logged [single k (.scr 0 65532)]) (single k (.scr 0 65532)) (theElem (.scr 0 65532)) = true)
    ∧ (∀ got ∈ [[], [(0, [1, 2, 3, 4, 5, 6, 7, 8])]],
        let e : Elem := { elemOf0 7 (.chip 0xFFF0) [] with got := got }
        isDue (logged [opOf 5 .load 16 [e]]) (opOf 5 .load 16 [e]) e = true ∧ (8 % 8 = 0 ∧ 8 + 8 ≤ 16 ∧ ∀ g ∈ e.got, g.1 ≠ 8))
    ∧ bench.chip.poisoned 8 0xFFFC 4 = false
    ∧ (bench.member? (at0 bench).crew 0).map (fun e => e.1) = some 0
    ∧ (bench.coreAt 0).scr.poisoned 8 65532 4 = false := by
  decide +kernel

/-- What a read gives that ends without poison. -/
def clean : Res (List Byte × Bool) → Option (List Byte)
  | .ok _ (d, false) => some d
  | _ => none

/-- AtomicsAndLocalElements: an element of each kind on the last word of the local page, whose access ends; a part of a wide one. -/
theorem witness_local_elements :
    (∀ k ∈ allKinds, isDue (logged [single k (.ia 0xFFFC)]) (single k (.ia 0xFFFC)) (theElem (.ia 0xFFFC)) = true)
    ∧ (logged [single .load (.ia 0xFFFC)]).localIa 0xFFFC = true
    ∧ (clean ((logged [single .load (.ia 0xFFFC)]).iaRead (some 0) 0xFFFC 4 0 0)).isSome = true
    ∧ (clean ({ bench with fresh := bench.fresh + 1 }.iaRead (some 0) (0xFFF0 + 8) 8 0 0)).isSome = true
    ∧ isOk ((logged [single .store (.ia 0xFFFC)]).iaWrite (some 0) (some 0) 0xFFFC [1, 2, 3, 4] 0) = true
    ∧ (∀ cp ∈ [0, 1, 2, 3], ∀ scope ∈ [1, 2, 5],
        (clean ((logged [single .atom (.ia 0xFFFC)]).iaAtomic 0 0 0xFFFC 4 cp scope 0 (newBytes false 3 [1, 2, 3, 4] []))).isSome = true) := by
  decide +kernel

/-- How an access ends that faults. -/
def faults : Went → Option (Nat × Nat)
  | .bad a b => some (a, b)
  | _ => none
/-- The bench with a page of no kind, and with one whose service has failed. -/
def noPage : MemOp := single .load (.ia 0x20000)
def unmapped : State := logged [noPage]
def failedPage : State :=
  { unmapped with ptes := unmapped.ptes.put (pteKey 4 0x20000) 0x40, served := [(2, false)] }
def readOnly : State := { unmapped with ptes := unmapped.ptes.put (pteKey 4 0x20000) 0x200001B }

/-- FaultsReturn: NOPAGE without and with service, and PPERM. -/
theorem witness_faults_return :
    isDue unmapped noPage (theElem (.ia 0x20000)) = true
    ∧ faults (unmapped.perform (at0 unmapped) noPage (theElem (.ia 0x20000))) = some (5, 0)
    ∧ unmapped.serviced ((at0 unmapped).elemIa (theElem (.ia 0x20000))) = false
    ∧ isDue failedPage noPage (theElem (.ia 0x20000)) = true
    ∧ faults (failedPage.perform (at0 failedPage) noPage (theElem (.ia 0x20000))) = some (5, 0)
    ∧ failedPage.serviced ((at0 failedPage).elemIa (theElem (.ia 0x20000))) = true
    ∧ isDue readOnly noPage (theElem (.ia 0x20000)) = true
    ∧ faults (readOnly.perform (at0 readOnly) noPage (theElem (.ia 0x20000))) = some (6, 0) := by
  decide +kernel

/-- The state after an access that ends. -/
def ended {α : Type} (s : State) : Res α → State
  | .ok t _ => t
  | _ => s
/-- The bench after core 0 has written a word. -/
def wrote : State := ended bench (bench.iaWrite (some 0) (some 0) 0xFFFC [1, 2, 3, 4] 0)
/-- The bench whose core 1 has read the line before. -/
def shared : State := ended bench (bench.iaRead (some 1) 0xFFFC 4 0 0)
def sharedWrote : State := ended shared (shared.iaWrite (some 0) (some 0) 0xFFFC [1, 2, 3, 4] 0)

/-- ReadAfterWrite and MessagePassing: a word written at the end of the page, read back by its core; read by another after
a release and with an acquire at CLUSTER scope, when that core holds no copy of the line and when it holds a clean one. -/
theorem witness_writes_and_reads :
    bench.wf = true ∧ 0xFFFC % 128 + ([1, 2, 3, 4] : List Byte).length ≤ 128
    ∧ isOk (bench.iaWrite (some 0) (some 0) 0xFFFC [1, 2, 3, 4] 0) = true ∧ isOk (wrote.iaRead (some 0) 0xFFFC 4 2 0) = true
    ∧ isOk ((wrote.release 0 0 2).iaRead (some 1) 0xFFFC 4 0 2) = true ∧ wrote.l1Line 1 (0xFFFC / 128) = none
    ∧ (wrote.release 0 0 2).pinners (some 1) (0xFFFC / 128) = []
    ∧ shared.wf = true ∧ isOk (shared.iaWrite (some 0) (some 0) 0xFFFC [1, 2, 3, 4] 0) = true
    ∧ ((sharedWrote.l1Line 1 (0xFFFC / 128)).map fun e => e.dirty == 0 && e.poison == 0 && e.pins.isEmpty) = some true
    ∧ (sharedWrote.release 0 0 2).pinners (some 1) (0xFFFC / 128) = []
    ∧ isOk ((sharedWrote.release 0 0 2).iaRead (some 1) 0xFFFC 4 0 2) = true := by
  decide +kernel

/-- ReadAfterWrite and MessagePassing at SYSTEM scope: the word lies in HBM, and is read back. -/
theorem witness_on_hbm :
    Claims.OnHbm bench 0xFFFC ∧ wrote.pinners (some 0) (0xFFFC / 128) = [] ∧ isOk (wrote.iaRead (some 0) 0xFFFC 4 2 5) = true
    ∧ isOk ((wrote.release 0 0 5).iaRead (some 1) 0xFFFC 4 0 5) = true := by
  unfold Claims.OnHbm
  refine ⟨⟨?_, ?_⟩, by decide +kernel, by decide +kernel, by decide +kernel⟩
  · have h : (bench.l2.find (0xFFFC / 128)).all (fun e => e.mt == 0) = true := by decide +kernel
    intro e he; rw [he] at h; simpa using h
  · have h : (match bench.walk (localPart 0xFFFC) with | .leaf l => l.mt == 0 | _ => true) = true := by decide +kernel
    intro l hl; rw [hl] at h; simpa using h

/-- The bench, `n` cycles later, with line 1 pinned by core 1 at cycle 0 and at cycle 1. -/
def pinned (n : Nat) : State :=
  { bench.modCore 1 fun x => { x with l1 := [(1, ⟨List.replicate 128 0, 0, true, true, false, false, [⟨0, 0, 0⟩, ⟨1, 1, 1⟩], [], .fresh, 0⟩)] } with
    cycle := n }

/-- PinsHoldAndPromote: a line pinned elsewhere; pins all younger than 65,536 cycles, and one that has just reached it. -/
theorem witness_pins :
    ((pinned 0).cores.find 1).isSome = true ∧ (((pinned 0).coreAt 1).l1.find (128 / 128)).map (·.pins) = some [⟨0, 0, 0⟩, ⟨1, 1, 1⟩]
    ∧ (pinned 0).l1Line 0 (128 / 128) = none
    ∧ (∀ p ∈ ([⟨0, 0, 0⟩, ⟨1, 1, 1⟩] : List Pin), (pinned 65535).cycle < p.cycle + 65536)
    ∧ ∃ p ∈ ([⟨0, 0, 0⟩, ⟨1, 1, 1⟩] : List Pin), p.cycle + 65536 ≤ (pinned 65536).cycle := by
  decide +kernel

/-- R184: a line of the L1 that a store filled, on a page that permits writes only: a load of it is PPERM. -/
def writeOnly : State :=
  { bench.modCore 0 fun x => { x with l1 := [(1, ⟨List.replicate 128 0, 0, false, true, false, false, [], [], .fresh, 0⟩)] } with
    l2 := bench.l2.put 1 ⟨List.replicate 128 0, 0, 0, 0, 0, false, true, false⟩ }
theorem test_write_only : (match writeOnly.iaRead (some 0) 128 4 0 0 with | .bad b => b | _ => 0) = 6 := by decide +kernel

/-- A store whose write to another device is not acknowledged. -/
def remoteStore : MemOp := opOf 5 .store 4 [⟨7, .ia 0x1000000000100, [1, 2, 3, 4], [], 0, 0, none, 5, [], .sent 1 0⟩]

/-- FencesWaitsAndPrefetch: a drained band, one that is not, one with remote writes; WAITC fields that are met exactly and
that are not; a prefetch of one lane's line for each policy. -/
theorem witness_fences :
    isReady bench = true ∧ bench.drained (at0 bench) = true ∧ isReady (logged [remoteStore]) = true
    ∧ (logged [remoteStore]).drained (at0 (logged [remoteStore])) = false ∧ (logged [remoteStore]).remoteWrites (at0 (logged [remoteStore])) = true
    ∧ bench.remoteWrites (at0 bench) = false ∧ (Instr.fence (fy 0 0 2 0)).wf = true ∧ (Instr.fence (fy 0 0 0x15 0)).wf = true
    ∧ (logged [remoteStore]).ldCount (at0 (logged [remoteStore])) = 0 ∧ (logged [remoteStore]).stCount (at0 (logged [remoteStore])) = 1
    ∧ (logged [remoteStore]).engCount (at0 (logged [remoteStore])) = 0
    ∧ (Instr.pref (fm 0 0 1 4 0 0 0 2 3 0)).wf = true
    ∧ (let s := withBand fun b => (b.setPred 5 (-1) 0x80).setS 3 0x100
       let h := at0 s
       isReady s = true ∧ h.band.guarded ⟨5, false⟩ = 1#32 <<< 7
       ∧ located (s.locate h 4 1 .r (h.address 1 4 0 3 0 7)) = .inl (.ia 0x100, 0) ∧ s.localIa 0x100 = true
       ∧ (s.reach (some 0) (0x100 / 128) 0).isSome = true ∧ isOk (s.l1Get 0 (0x100 / 128) .r false) = true
       ∧ isOk (s.l2Get (0x100 / 128) .r) = true) := by
  decide +kernel

/-- The bench at TL = 1 since operation 6, with a store whose fault stands, a load that waits for it, one that waits for
nothing, and a store of the handler on the line of the first. -/
def faultedStore : Elem := { elemOf0 0 (.chip 0x100) [1, 2, 3, 4] with st := .faulted 5 0 }
def heldBack : State := bench.modBand 0 0 fun b => { b with
  tl := true, handler := -1, trapAt := 6
  log := [opOf 3 .store 4 [faultedStore], opOf 4 .load 4 [elemOf0 0 (.chip 0x100) []], opOf 5 .load 4 [elemOf0 0 (.chip 0x4000) []],
    { opOf 8 .store 4 [{ elemOf0 0 (.chip 0x100) [9, 9, 9, 9] with seq := 8 }] with dst := 3 }] }

/-- FencesWaitsAndPrefetch: what is held, what the handler's waits look at, and what may go. -/
theorem witness_held :
    (Here.Held heldBack (at0 heldBack) (opOf 3 .store 4 [faultedStore]) faultedStore
    ∧ Here.Held heldBack (at0 heldBack) (opOf 4 .load 4 [elemOf0 0 (.chip 0x100) []]) (elemOf0 0 (.chip 0x100) []))
    ∧ ((heldBack.live (at0 heldBack)).map fun e => e.1.id) = [5, 8]
    ∧ (heldBack.mayGo (at0 heldBack) 8 0, heldBack.mayGo (at0 heldBack) 5 0, heldBack.mayGo (at0 heldBack) 4 0) = (true, true, false)
    ∧ heldBack.drained (at0 heldBack) = false ∧ heldBack.ldCount (at0 heldBack) = 1 ∧ heldBack.stCount (at0 heldBack) = 1 := by
  have a : Here.Held heldBack (at0 heldBack) (opOf 3 .store 4 [faultedStore]) faultedStore :=
    .hurt (by unfold Here.Pending; decide +kernel) (by decide)
  exact ⟨⟨a, .behind (by unfold Here.Pending; decide +kernel) a (by decide +kernel) (by decide +kernel)⟩, by decide +kernel⟩

/-- The bench with S[1] to S[3] as given and `n` commands of the band in the engine. -/
def commanded (a b c : DWord) (n : Nat) : State :=
  (bench.modBand 0 0 fun x => ((x.setS 1 a).setS 2 b).setS 3 c).modCore 0 fun x => { x with
    eng := (List.range n).map fun i => EngCmd.fresh i 0 0 0 [] (-1) (-1) 1 false 0 0 0 }

/-- CommandsIssue: addresses at the end of the allotment and beyond, misaligned, and none; the band's fifteen
commands; an access to the block outstanding; a PAIRED crew whose halves run together. -/
theorem witness_engine_issue :
    ((∀ n ∈ [0, 14, 15], isReady (commanded 65472 0 65520 n) = true ∧ (commanded 65472 0 65520 n).engCount (at0 (commanded 65472 0 65520 n)) = n)
    ∧ (65472 % 64 = 0 ∧ 65472 + 64 ≤ (at0 bench).crew.size ∧ 65520 % 16 = 0 ∧ 65520 + 16 ≤ (at0 bench).crew.size)
    ∧ ((at0 bench).crew.size < 65536 + 64 ∧ 65 % 64 ≠ 0 ∧ (at0 bench).crew.size < 65536 + 16)
    ∧ (at0 (commanded 65472 0 65520 0)).crew.paired = false ∧ (at0 bench).band.leads g0 = true
    ∧ (commanded 65472 0 65520 0).scrPoisoned 0 (at0 bench).crew 65472 64 = false
    ∧ (∀ l, l < 16 → (at0 pairedBench).band.running.getLsbD l = (at0 pairedBench).band.running.getLsbD (l + 16))
    ∧ (at0 bench).band.log = []) ∧ ¬(at0 bench).Waits bench 65472 64
    ∧ (at0 (logged [single .load (.scr 0 65472)])).Waits (logged [single .load (.scr 0 65472)]) 65472 64 := by
  refine ⟨by decide +kernel, ?_, ?_⟩
  · have h : bench.live (at0 bench) = [] := by decide +kernel
    rintro ⟨p, hp, -⟩
    simp [h] at hp
  · have h : (single .load (.scr 0 65472), theElem (.scr 0 65472)) ∈
        (logged [single .load (.scr 0 65472)]).live (at0 (logged [single .load (.scr 0 65472)])) := by decide +kernel
    have m : (at0 (logged [single .load (.scr 0 65472)])).crew.member = 0 := by decide +kernel
    exact ⟨_, h, 65472, by rw [m]; rfl, by decide, by decide⟩

/-- The bench with a barrier object of 2 arrivals at SCR 0x100, in generation `g` and phase `p`. -/
def barred (g p : Nat) : State :=
  (labelled.scrWrite 0 (at0 labelled).crew 0x100 (toBytes 16 (⟨g, p, 2, 2, 0, 0, 0, 0⟩ : Obj).toNat)).modBand 0 0 fun b =>
    ((b.setS 1 3).setS 2 0x100).setS 3 0x100

/-- BarrierObjectsAndWaits: objects in range, at the last place and beyond; a release with work outstanding; a
lane that finds its generation past, the object abandoned, or must wait. -/
theorem witness_barriers :
    (⟨15, 3, 65535, 65535, -1, -1, 255, 65535⟩ : Obj).Fits ∧ (⟨0, 0, 0, 0, 0, 0, 0, 0⟩ : Obj).Fits
    ∧ (at0 (barred 3 0)).Target 0 ∧ ¬(at0 (barred 3 0)).Target 1 ∧ (bench.crew? 0 0).isSome = true
    ∧ isReady (barred 3 0) = true ∧ (at0 (barred 3 0)).band.guarded g0 ≠ 0 ∧ (at0 (barred 3 0)).band.sreg 2 = 0x100
    ∧ ((at0 (barred 3 0)).object (barred 3 0) 0x100).gen = 3 ∧ ((at0 (barred 3 0)).object (barred 3 0) 0x100).phase = 0
    ∧ ((at0 (barred 4 0)).object (barred 4 0) 0x100).gen = 4 ∧ ((at0 (barred 3 3)).object (barred 3 3) 0x100).phase = 3
    ∧ (barred 3 0).drained (at0 (barred 3 0)) = true ∧ isReady (barred 4 0) = true ∧ isReady (barred 3 3) = true :=
  ⟨by unfold Obj.Fits; decide, by unfold Obj.Fits; decide, target_of (by decide +kernel), no_target_of (by decide +kernel),
    by decide +kernel⟩

/-- A copy block: CTL, SRC, DST, the words at 0x18 and 0x1C, and what follows. -/
def copyBlock (ctl src dst len cnt : Nat) (rest : List Byte) : List Byte :=
  toBytes 8 ctl ++ toBytes 8 src ++ toBytes 8 dst ++ toBytes 4 len ++ toBytes 4 cnt ++ rest ++ List.replicate (32 - rest.length) 0
/-- An accepted command of core 0 that nothing has been done of. -/
def copyCmd (fn : Nat) (block : List Byte) : EngCmd :=
  { EngCmd.fresh 3 0 0 fn block (-1) (-1) 1 true 9 0 0 with accepted := true }
def linCopy : EngCmd := copyCmd 0 (copyBlock 9 0x100 0x200 16 0 [])
/-- The bench with commands in the engine. -/
def engined (l : List EngCmd) : State := bench.modCore 0 fun x => { x with eng := l }

/-- CopiesWithinScratchpad: a linear copy of 16 bytes that meets every hypothesis; and for each of the six functions a
block and a list that are legal. -/
theorem witness_copies :
    (let s := engined [linCopy]
     let d := { linCopy with idx := if linCopy.listed then s.readList 0 (at0 bench).crew linCopy else [] }
     let wrote : Nat → Nat → Prop := fun i b => i < d.units ∧ (d.unit i).void = false ∧ b < (d.unit i).wr
     (s.engCmd? 0 linCopy.id = some linCopy ∧ s.crew? 0 linCopy.crew = some (at0 bench).crew
     ∧ s.member? (at0 bench).crew (at0 bench).crew.member = some (0, (at0 bench).crew)
     ∧ (s.ctx? (at0 bench).crew.task.ctx).isSome = true
     ∧ linCopy.fn ≤ 5 ∧ linCopy.ssp = 1 ∧ linCopy.dsp = 1 ∧ linCopy.swz = false ∧ linCopy.strict = false ∧ linCopy.sc = 1
     ∧ linCopy.obj = BitVec.allOnes 64 ∧ linCopy.stat = BitVec.allOnes 64 ∧ linCopy.blockOk = true
     ∧ linCopy.listOk (at0 bench).crew = true ∧ (at0 bench).crew.size < 2 ^ 32
     ∧ (∀ i, i < d.units → (d.unit i).void = false → (d.unit i).dst % 2 ^ 64 + (d.unit i).wr ≤ (at0 bench).crew.size
          ∧ ((d.unit i).src.isSome = true → ((d.unit i).src.getD 0) % 2 ^ 64 + (d.unit i).wr ≤ (at0 bench).crew.size))
     ∧ (s.coreAt 0).scr.poison = [])
     ∧ (∀ i b j e, wrote i b → wrote j e → (d.unit i).dst % 2 ^ 64 + b = (d.unit j).dst % 2 ^ 64 + e → i = j)
     ∧ (∀ i b j e, wrote i b → wrote j e → (d.unit j).src.isSome = true →
          (d.unit i).dst % 2 ^ 64 + b ≠ ((d.unit j).src.getD 0) % 2 ^ 64 + e))
    ∧ ∀ c ∈ [linCopy, copyCmd 1 (copyBlock 9 0x100 0x200 16 2 (toBytes 8 32 ++ toBytes 8 16)),
        copyCmd 2 (copyBlock 9 0x100 0x800 16 2 (toBytes 4 8 ++ toBytes 4 0x40 ++ toBytes 8 16 ++ toBytes 8 16)),
        copyCmd 3 (copyBlock 9 0x100 0x800 16 2 (toBytes 4 8 ++ toBytes 4 0x40 ++ toBytes 8 16 ++ toBytes 8 16)),
        copyCmd 4 (copyBlock 9 0x100 0x800 4 1 (toBytes 4 0x40 ++ toBytes 4 0 ++ toBytes 8 4 ++ toBytes 8 4)),
        copyCmd 5 (copyBlock 0x2008 0x11223344 0x800 16 0 [])], c.blockOk = true ∧ c.listOk (at0 bench).crew = true
          ∧ c.dsp = 1 ∧ c.swz = false ∧ c.strict = false := by
  refine ⟨?_, by decide +kernel⟩
  intro s d wrote
  have hu : d.units = 1 := by decide +kernel
  have hw : (d.unit 0).wr = 16 := by decide +kernel
  have hd : (d.unit 0).dst = 0x200 := by decide +kernel
  have hs : (d.unit 0).src = some 0x100 := by decide +kernel
  refine ⟨by decide +kernel, ?_, ?_⟩
  · intro i b j e hi hj _
    have a := hi.1
    have c := hj.1
    omega
  · intro i b j e hi hj _ h
    have a := hi.1
    have c := hj.1
    obtain rfl : i = 0 := by omega
    obtain rfl : j = 0 := by omega
    have x := hj.2.2
    rw [hw] at x
    simp only [hd, hs, Option.getD_some] at h
    omega

/-- The bench with inbound window 2 open to devices 3 to 5 for the first 64 KiB, and EPOCH 6; device 4 has had numbers 10, and 12,
answered. -/
def targeted (s : State) : State := { s with fab := { s.fab with
  epoch := 6, inwin := [(4, 0x0005030F), (5, 0)], sources := [(4, ⟨11, [12], [(10, .data []), (12, .data [])]⟩)] } }
def remoteAsk (src : Nat) (q : BitVec 16) (kind : ReqKind) (ia : Nat) : RemoteReq :=
  ⟨src, 6, q, 2, kind, ia, 4, [1, 2, 3, 4], [], 0, false, true, false, 0⟩

/-- A collective of a team of two devices, 0 and 1, at member 0, whose partner's message is missing. -/
def allReduce : EngCmd :=
  { copyCmd 0x10 [] with coll := some ⟨7, 0, 2, 0, [0, 1], 0, 16, 0, List.replicate 16 1, [], 0⟩, started := true, cursor := 1 }
/-- A message of its step 0 from member 1, on device 1, and the request that brings it with number `q`. -/
def reduceMsg : CollMsg := { team := 7, step := 0, sender := 1, device := 1, ctl := 0, len := 16, kx := 0, nmem := 2, members := [0, 1], data := List.replicate 16 2 }

/-- EngineAndCollectiveEvents: a command that may be accepted behind one that is, and one behind an older that may not; one that
waits for the start of an older; one that is finished; a collective that a TEAM abort finds, and one it does not; messages
that are new, known, and of a step that has ended; a message that has been missing for FTMO cycles. -/
theorem witness_engine_events :
    (let c := { linCopy with accepted := false, id := 4 }
     let s := engined ([linCopy] ++ c :: [])
     (s.coreAt 0).eng = [linCopy] ++ c :: [] ∧ c.accepted = false ∧ s.bandPast 0 c.slot c.crew c.id = true
     ∧ (∀ d ∈ [linCopy], d.accepted = true) ∧ ∀ d ∈ [linCopy], d.id ≠ c.id)
    ∧ (let c := { linCopy with id := 4 }
       let s := engined [linCopy, c]
       (s.coreAt 0).eng = [linCopy] ++ c :: [] ∧ c.started = false ∧ linCopy.accepted = true ∧ linCopy.started = false)
    ∧ (let c := { linCopy with finished := true }
       let s := engined [c]
       (s.coreAt 0).eng.find? (fun d => d.id == c.id) = some c ∧ c.finished = true ∧ c.sent = none ∧ s.fab.reqs = []
       ∧ (s.band? 0 c.slot).map (fun b => (b.crew, b.tl)) = some (c.crew, false))
    ∧ (let s := engined [allReduce]
       s.allColls = [] ++ (0, allReduce) :: [] ∧ (allReduce.coll.map fun x => (x.team, x.step)) = some (7, 0)
       ∧ (s.crew? 0 allReduce.crew).isSome = true ∧ s.engCmd? 0 allReduce.id = some allReduce ∧ allReduce.finished = false)
    ∧ bench.allColls = []
    ∧ (let s := targeted bench
       let r : RemoteReq := { remoteAsk 4 11 .write 0 with epoch := 6 }
       r.whole = true ∧ r.epoch = s.fab.epoch ∧ (s.fab.sources.get ⟨0, [], []⟩ 4).la = 11 ∧ (11 : BitVec 16) ∉ (s.fab.source 4).accepted
       ∧ (12 : BitVec 16) ∈ (s.fab.source 4).accepted ∧ ¬reduceMsg.step < s.fab.teams.get 0 7
       ∧ reduceMsg.step < ({ s.fab with teams := [(7, 1)] } : Fabric).teams.get 0 7)
    ∧ (let s : State := { engined [allReduce] with cycle := 5400000 }
       (∀ x ∈ allReduce.coll, (∀ m ∈ x.members, m < 256) ∧ (1 < x.nmem ∧ 1 ≠ x.me ∧ 0 = x.me ∧ x.got = [] ∧ s.fab.inbox = [])
         ∧ x.timer + s.fab.ftmo.toNat ≤ s.cycle)
       ∧ allReduce.started = true ∧ (s.ctx? (at0 bench).crew.task.ctx).isSome = true) := by
  decide +kernel

/-- A matrix command of the band at the head of the bench's unit. -/
def mxCmd (op : Nat) (sa sb : DWord) (fsa fsb : Word) : MxCmd :=
  ⟨3, 0, 0, op, sa, sb, -1, fsa, fsb, true, 0x7FD, -1, none, 0, true, false, []⟩
def mxBench (l : List MxCmd) (own : Option Nat) (slot : Word) : State :=
  bench.modCore 0 fun x => { x with mx := { Matrix.reset with owner := own, queue := l, bank0 := { Bank.reset with slot := slot } } }

/-- CommandsIssue: a free unit, the crew's own, another's; fourteen and fifteen commands of the band. -/
theorem witness_matrix_issue :
    (∀ o ∈ [none, some 0, some 5], isReady (mxBench [] o 0) = true)
    ∧ (mxBench (List.replicate 14 (mxCmd 0xB1 0 0 0 0)) none 0).mxCount (at0 bench) = 14
    ∧ (mxBench (List.replicate 15 (mxCmd 0xB1 0 0 0 0)) none 0).mxCount (at0 bench) = 15
    ∧ isReady (mxBench (List.replicate 15 (mxCmd 0xB1 0 0 0 0)) none 0) = true
    ∧ isReady (mxBench [] none 0 |>.modBand 0 0 fun b => b.setS 6 (-1)) = true := by
  decide +kernel

theorem mxHead_of {c : MxCmd} {o : Option Nat} {d : Word} (a : c.accepted = true) (b : c.notOwner = false) (e : c.gt = none)
    (q : ((mxBench [c] o d).coreAt 0).mx.queue = [c]) (w : (mxBench [c] o d).crew? 0 c.crew = some (at0 bench).crew) :
    MxHead (mxBench [c] o d) 0 c (at0 bench).crew := ⟨⟨[], q⟩, a, b, e, w⟩

/-- The tile word of M, N, KB, ACC, STR / 16. -/
def tileWord (m n kb acc str : Nat) : DWord := BitVec.ofNat 64 (m + n * 2 ^ 9 + kb * 2 ^ 19 + acc * 2 ^ 26 + str * 2 ^ 40)
def loadCmd : MxCmd := mxCmd 0xB0 0x100 (BitVec.ofNat 64 (1 + 2 ^ 7 + 32 * 2 ^ 15)) 0 2
def mmaCmd : MxCmd := mxCmd 0xB2 0x100 (tileWord 1 1 1 0 2) 2 2

/-- MatrixLoadsAndReadsOut, MatrixProducts: a load of one I8 row, a product of one I8 row and column, and a tile that is
cleared, read out and moved. -/
theorem witness_matrix :
    MxHead (mxBench [loadCmd] (some 0) 0) 0 loadCmd (at0 bench).crew ∧ MxHead (mxBench [mmaCmd] (some 0) 2) 0 mmaCmd (at0 bench).crew
    ∧ (cellsPer loadCmd.fsb = some 8 ∧ (LoadD.ofNat loadCmd.sb.toNat).ok loadCmd.fsb = true
    ∧ (LoadD.ofNat loadCmd.sb.toNat).inside (at0 bench).crew loadCmd.fsb loadCmd.sa.toNat 0 = true
    ∧ ((mxBench [loadCmd] (some 0) 0).coreAt 0).scr.poison = []
    ∧ (Tile.ofWord mmaCmd.sb).gt = false ∧ actKind mmaCmd.fsa = true ∧ (cellsPer mmaCmd.fsb).isSome = true
    ∧ mmaCmd.tileOk (Tile.ofWord mmaCmd.sb) 0 (slotN mmaCmd.fsb) = true
    ∧ (let b := ((mxBench [mmaCmd] (some 0) 2).coreAt 0).mx.bank ((mxBench [mmaCmd] (some 0) 2).coreAt 0).mx.sel
       b.slot = mmaCmd.fsb ∧ b.parity = [] ∧ b.bad = [])
    ∧ (∀ i, i < (Tile.ofWord mmaCmd.sb).m →
        mmaCmd.sa.toNat + i * (Tile.ofWord mmaCmd.sb).str + rowBytes mmaCmd.fsa (Tile.ofWord mmaCmd.sb).k ≤ (at0 bench).crew.size)
    ∧ slotScl mmaCmd.fsa = false
    ∧ (∀ op ∈ [0xB1, 0xB4, 0xB5, 0xB6], ((mxBench [mxCmd op 0x100 (tileWord 1 1 1 0 1) 0 2] (some 0) 2).coreAt 0).mx.queue
        = [mxCmd op 0x100 (tileWord 1 1 1 0 1) 0 2])
    ∧ (Tile.ofWord (tileWord 1 1 1 0 1)).ok 0 ((mxBench [mmaCmd] (some 0) 2).coreAt 0).mx.nc = true
    ∧ (Tile.ofWord (tileWord 1 1 1 0 1)).fits 1 ((mxBench [mmaCmd] (some 0) 2).coreAt 0).mx.nc = true
    ∧ readKind 2 = true ∧ ((Tile.ofWord (tileWord 1 1 1 0 1)).block 0 ((mxBench [mmaCmd] (some 0) 2).coreAt 0).mx.nc).nb = 1
    ∧ (1 * slotBits 2 + 7) / 8 ≤ (Tile.ofWord (tileWord 1 1 1 0 1)).str
    ∧ ((mxBench [mmaCmd] (some 0) 2).band? 0 0).map (·.crew) = some 0) :=
  ⟨mxHead_of rfl rfl rfl (by decide +kernel) (by decide +kernel), mxHead_of rfl rfl rfl (by decide +kernel) (by decide +kernel),
    by decide +kernel⟩

/-- AccumulatorRules: contributions at the anchor, above and below it; integer slots. -/
theorem witness_accumulator :
    (0 : Int) ≤ 2 - (⟨0, 0, false⟩ : Acc).anchor.toInt ∧ (-2 : Int) - (⟨0, 0, false⟩ : Acc).anchor.toInt < 0
    ∧ slotKind 2 = .int 8 true ∧ slotKind 0xFE = .int 16 false ∧ slotRm 2 = 0 := by
  decide +kernel

/-- MatrixAcceptsAndCompletes, MatrixRefusalsAndScrubs, MatrixGroupsAndGangs: a command to accept; the formats, tiles and banks an MMA is refused
for, each with what comes before it in order; a GT = 1 tile too large for its gang, and one whose partner is missing; a
column whose parity does not hold, one marked already, and one that holds. -/
theorem witness_matrix_queue :
    (let c := { mmaCmd with accepted := false, id := 4 }
     let s := mxBench ([mmaCmd] ++ c :: []) (some 0) 2
     (s.coreAt 0).mx.queue = [mmaCmd] ++ c :: [] ∧ c.accepted = false ∧ s.bandPast 0 0 0 4 = true
     ∧ (s.modBand 0 0 fun b => { b with log := [chipLoad 2] }).bandPast 0 0 0 4 = false)
    ∧ (actKind 0 = false ∧ cellsPer 0xC = none)
    ∧ (mxCmd 0xB2 0x108 (tileWord 1 1 1 0 2) 2 2).tileOk (Tile.ofWord (tileWord 1 1 1 0 2)) 0 (slotN 2) = false
    ∧ (mxCmd 0xB2 0x100 (tileWord 97 1 1 0 2) 2 2).tileOk (Tile.ofWord (tileWord 97 1 1 0 2)) 0 (slotN 2) = false
    ∧ ((mxBench [mmaCmd] (some 0) 3).coreAt 0).mx.bank0.slot ≠ mmaCmd.fsb
    ∧ (let t := Tile.ofWord (tileWord 97 1 1 0 2 ||| 0x8000000000000000)
       t.gt = true ∧ t.ok 0 (slotN 2) = true ∧ (at0 bench).crew.gang.length < 4 * ((t.m + 95) / 96 - 1) + (t.n + slotN 2 - 1) / slotN 2 ∧ 1 ≤ t.m)
    ∧ (let c := { mmaCmd with gt := some 0 }
       let s := mxBench [c] (some 0) 2
       (s.coreAt 0).mx.queue = [c] ∧ (at0 s).crew.gang[0]? = some (0, 0) ∧ s.gtOf (0, 0) 0 = none
       ∧ (s.crew? 0 0).map (·.gone) = some false)
    ∧ (let bank := fun (x : Core) => { x with mx := { x.mx with bank1 := { x.mx.bank1 with parity := [(2, 5)], bad := [(2, 4)] } } }
       let b := ((bench.modCore 0 bank).coreAt 0).mx.bank true
       ((b.parity.get 0 2).getLsbD 0 = true ∧ (b.bad.get 0 2).getLsbD 0 = false)
       ∧ (b.parity.get 0 2).getLsbD 319 = false ∧ ((b.parity.get 0 2).getLsbD 2 = true ∧ (b.bad.get 0 2).getLsbD 2 = true)) := by
  decide +kernel

/-- MMAG of one I8 column, and a group table at SCR 0x1000 with a group for each of `l`: its rows and its weights. -/
def groupsCmd : MxCmd := mxCmd 0xB3 0x1000 (tileWord 2 1 1 0 2) 2 2
def grouped (l : List (Nat × Nat)) : State :=
  (mxBench [groupsCmd] (some 0) 2).scrWrite 0 (at0 bench).crew 0x1000
    (toBytes 8 (1 + 2 ^ 7 + 32 * 2 ^ 15) ++ toBytes 4 l.length ++ toBytes 4 0
      ++ l.flatMap fun e => toBytes 4 e.1 ++ toBytes 4 0x100 ++ toBytes 4 e.2 ++ toBytes 4 0xFFFFFFFF)

/-- MatrixGroupsAndGangs: groups that load their bank and that keep it, one group alone, and groups of which the third passes M. -/
theorem witness_groups :
    ∀ l ∈ [[(1, 0x200), (1, 0xFFFFFFFF)], [(2, 0x200)], [(1, 0x200), (0, 0x200), (2, 0x200)]],
      let t := Tile.ofWord groupsCmd.sb
      let s := grouped l
      let field : Nat → Nat → Nat := fun o n => ofBytes (s.rowAt 0 (at0 bench).crew (0x1000 + o) n)
      let d := LoadD.ofNat (field 0 8)
      let gs := (List.range (field 8 4)).map fun g => (⟨field (16 + 16 * g) 4, field (20 + 16 * g) 4, field (24 + 16 * g) 4,
        field (28 + 16 * g) 4⟩ : Group)
      MxHead s 0 groupsCmd (at0 bench).crew
      ∧ (groupsCmd.tileOk t 0 (slotN 2) = true ∧ t.gt = false ∧ t.m = 2
      ∧ field 8 4 = l.length ∧ field 12 4 = 0 ∧ d.ok 2 = true ∧ d.kb = t.kb ∧ d.cbase = 0 ∧ d.n = t.n
      ∧ (∀ g ∈ gs, g.rows ≤ 96 ∧ g.aoff % 16 = 0 ∧ g.wscl = 0xFFFFFFFF) ∧ gs.map Group.rows = l.map (·.1)
      ∧ ((s.coreAt 0).mx.bank (s.coreAt 0).mx.sel).slot = 2 ∧ (s.coreAt 0).scr.poison = []
      ∧ (s.coreAt 0).mx.bank0.bad = [] ∧ (s.coreAt 0).mx.bank0.parity = [] ∧ (s.coreAt 0).mx.bank1.bad = [] ∧ (s.coreAt 0).mx.bank1.parity = []
      ∧ (∀ g ∈ gs, (g.wsrc ≠ 0xFFFFFFFF → d.inside (at0 bench).crew 2 g.wsrc g.wscl = true)
          ∧ ∀ r, r < g.rows → g.aoff + r * t.str + rowBytes 2 t.k ≤ (at0 bench).crew.size)) := by
  intro l hl t s field d gs
  have q : (s.coreAt 0).mx.queue = [groupsCmd] ∧ s.crew? 0 0 = some (at0 bench).crew := by
    show ((grouped l).coreAt 0).mx.queue = [groupsCmd] ∧ (grouped l).crew? 0 0 = some (at0 bench).crew
    revert l; decide +kernel
  refine ⟨⟨⟨[], q.1⟩, rfl, rfl, rfl, q.2⟩, ?_⟩
  simp only [t, s, field, d, gs]
  clear q t s field d gs
  revert l
  decide +kernel

/-- A gang of two, on cores 0 and 1, whose GT = 1 MMAs head their units: accepted or not, with scales at one place or at two. -/
def ofGang (accepted : Bool) (scl m : Nat) : MxCmd :=
  { mxCmd 0xB2 0x100 (tileWord 1 41 1 0 2 ||| BitVec.ofNat 64 (2 ^ 63 + scl * m * 2 ^ 50)) 2 2 with
    id := 3 + m, crew := m, gt := some 0, accepted := accepted }
def ofGangCrew (m : Nat) : Crew := { probeCrew with gang := [(0, 0), (1, 1)], member := m, serial := m }
def ganged (accepted : Bool) (scl : Nat) : State :=
  let core : Nat → Core := fun m => { Core.reset with
    bands := [(0, { probeBand with crew := m })]
    crews := [(m, ofGangCrew m)]
    mx := { Matrix.reset with
      owner := some m, queue := [ofGang accepted scl m], gts := [(0, ofGang accepted scl m)], bank0 := { Bank.reset with slot := 2 } } }
  { bench with cores := [(0, core 0), (1, core 1)] }

/-- MatrixGroupsAndGangs: a gang whose operands agree, and one whose second member's scales lie elsewhere. -/
theorem witness_paired : ∀ scl ∈ [0, 1], Paired (ganged true scl) [(0, 0), (1, 1)] 0 (ofGang true scl) ofGangCrew := by
  intro scl hs
  have h : ∀ scl ∈ [0, 1], ∀ m, m < 2 →
      (ganged true scl).crew? m m = some (ofGangCrew m) ∧ ((ganged true scl).coreAt m).mx.queue = [ofGang true scl m]
      ∧ (ganged true scl).gtOf (m, m) 0 = some (ofGang true scl m) := by
    decide +kernel
  have g : ∀ (m : Nat) e, [((0 : Nat), (0 : Nat)), (1, 1)][m]? = some e → m < 2 ∧ e = (m, m) := by
    rintro (_ | _ | m) e he <;> simp_all
  refine ⟨by decide, fun m e he => ?_, fun m e he => ?_, fun m e he => ?_⟩ <;> obtain ⟨a, rfl⟩ := g m e he
  · exact ⟨(h scl hs m a).1, rfl, rfl⟩
  · exact ⟨⟨[], (h scl hs m a).2.1⟩, rfl, rfl, rfl, rfl, rfl⟩
  · exact ⟨_, (h scl hs m a).2.2, rfl⟩

/-- MatrixGroupsAndGangs: what the first of those gangs further needs; how a member waits for a partner's acceptance, for its band's
operations, and finds it gone. -/
theorem witness_gangs :
    (ofGang true 0 1).agrees (ofGang true 0 0) ∧ ¬(ofGang true 1 1).agrees (ofGang true 1 0)
    ∧ ((∀ m, m < 2 → (ofGang true 0 m).tileOk (Tile.ofWord (ofGang true 0 m).sb) m (slotN 2) = true
        ∧ (((ganged true 0).coreAt m).mx.bank ((ganged true 0).coreAt m).mx.sel).slot = 2
        ∧ ((ganged true 0).coreAt m).mx.bank0.bad = [] ∧ ((ganged true 0).coreAt m).mx.bank0.parity = []
        ∧ ((ganged true 0).coreAt m).scr.poison = [] ∧ (ofGang true 0 m).seen = [] ∧ (ofGang true 0 m).obj = BitVec.allOnes 64)
      ∧ (let t := Tile.ofWord (ofGang true 0 0).sb
         t.gt = true ∧ actKind 2 = true ∧ (cellsPer 2).isSome = true ∧ t.fits 2 (slotN 2) = true ∧ t.m = 1
         ∧ 0x100 / 2 ^ 19 = 0 ∧ 0x100 + rowBytes 2 t.k ≤ (ofGangCrew 0).size))
    ∧ (let s := ganged false 0
       (∀ m, m < 2 → ((s.coreAt m).mx.queue.find? fun x => !x.accepted) = some (ofGang false 0 m)
         ∧ s.gtOf (m, m) 0 = some (ofGang false 0 m) ∧ (s.crew? m m).map (·.gone) = some false
         ∧ s.bandPast m 0 m (3 + m) = true)
       ∧ (s.modBand 1 0 fun b => { b with log := [chipLoad 2] }).bandPast 1 0 1 4 = false)
    ∧ (let s := (ganged true 0).modCore 1 fun x => { x with mx := { x.mx with queue := [], gts := [] } }
       s.gtOf (1, 1) 0 = none ∧ (s.crew? 1 1).map (·.gone) = some false
       ∧ ((s.modCrew 1 1 fun w => { w with gone := true }).crew? 1 1).map (·.gone) = some true) := by
  refine ⟨⟨rfl, rfl, rfl, fun _ _ => rfl⟩, fun h => absurd (h.2.2.2 50 (by decide)) (by decide +kernel), by decide +kernel⟩

/-- MatrixLoadsAndReadsOut, MatrixRefusalsAndScrubs: MACR with GT = 1 whose row lies in the crew's own scratchpad; a scrub of a unit
with an owner. -/
theorem witness_gang_reads :
    (let c := mxCmd 0xB5 0x100 (tileWord 1 1 1 0 1 ||| 2 ^ 63) 0 2
     let s := mxBench [c] (some 0) 2
     let t := Tile.ofWord c.sb
     (s.coreAt 0).mx.queue = [c] ∧ t.gt = true ∧ t.ok 0 (s.coreAt 0).mx.nc = true ∧ t.fits 1 (s.coreAt 0).mx.nc = true
     ∧ (t.block 0 (s.coreAt 0).mx.nc).mb = 1 ∧ s.member? (at0 bench).crew (0x100 / 2 ^ 19) = some (0, (at0 bench).crew)
     ∧ (s.coreAt 0).mx.owner = some 0 ∧ (s.crew? 0 0).isSome = true ∧ (mxBench [] none 2).coreAt 0 ≠ s.coreAt 0) := by
  decide +kernel

/-- A clause command of the band, accepted, at the head of its cluster's array. -/
def clCmd (op : Nat) (sa sb : DWord) : ClCmd :=
  ⟨3, 0, 0, 0, 0, op, sa, sb, -1, 0, 8, -1, 0, true, false, [], [], 0, [], [], []⟩
/-- The bench with cluster 0's array as given. -/
def clBench (l : List ClCmd) (own : Option Nat) : State :=
  bench.setCluster 0 { bench.clusterAt 0 with clause := ⟨own, ClState.reset, l⟩ }

/-- ClauseIssueAndAcceptance: a free array, the context's, another's; fourteen and fifteen commands; an array taken away from
the context, while another context has it and while none has; a command to accept that uses memory, and one that does not;
the limits of the ranges, and a command past each check. -/
theorem witness_clause_issue :
    ((∀ o ∈ [none, some 0, some 5], isReady (clBench [] o) = true ∧ (at0 (clBench [] o)).ctx.arrays.find 0 = none)
    ∧ (clBench (List.replicate 14 (clCmd 0xC7 0 0)) (some 0)).clCount (at0 bench) = 14
    ∧ (clBench (List.replicate 15 (clCmd 0xC7 0 0)) (some 0)).clCount (at0 bench) = 15
    ∧ (∀ o ∈ [none, some 5], let s := (clBench [] o).modCtx 0 fun v => { v with arrays := [(0, ClState.reset)] }
       isReady s = true ∧ (at0 s).ctx.arrays.find 0 = some ClState.reset ∧ (s.clusterAt 0).clause.owner = o)
    ∧ (∀ op ∈ [0xC1, 0xC5, 0xC8], let c := { clCmd op 0x100 0x10000 with accepted := false, id := 4 }
       let s := clBench ([clCmd 0xC7 0 0] ++ c :: []) (some 0)
       (s.clusterAt 0).clause.queue = [clCmd 0xC7 0 0] ++ c :: [] ∧ c.accepted = false ∧ c.core = 0 ∧ s.bandPast 0 0 0 4 = true
       ∧ (s.modBand 0 0 fun b => { b with log := [chipLoad 2] }).bandPast 0 0 0 4 = false))
    ∧ (ClauseRange 0x10000 ∧ ClauseRange 0x107FF ∧ ClauseRange 0x8000000 ∧ ¬ClauseRange 0 ∧ ¬ClauseRange 0x10800
        ∧ ¬ClauseRange 0x207FF ∧ ¬ClauseRange 0x100010000)
    ∧ (ClassRange 0x100 ∧ ClassRange 0x1FF ∧ ClassRange 0x10000 ∧ ¬ClassRange 0 ∧ ¬ClassRange 0x2FF ∧ ¬ClassRange 0x20100) := by
  refine ⟨by decide +kernel, ?_⟩
  simp only [ClauseRange, ClassRange]
  decide +kernel

theorem clHead_of {c : ClCmd} (a : c.accepted = true) (b : c.sent = []) (e : c.noArray = false)
    (q : ((clBench [c] (some 0)).clusterAt 0).clause.queue = [c])
    (w : (clBench [c] (some 0)).crew? c.core c.crew = some (at0 bench).crew)
    (x : ((clBench [c] (some 0)).ctx? c.ctx).isSome = true) (p : ((clBench [c] (some 0)).coreAt c.core).scr.poison = [])
    (t : ((clBench [c] (some 0)).clusterAt 0).clause.st.tidy = true) :
    ClHead (clBench [c] (some 0)) 0 c (at0 bench).crew :=
  ⟨⟨[], q⟩, a, b, e, w, Option.isSome_iff_exists.mp x, p, t⟩

/-- The IA that a window gives. -/
def won : Except Nat (Nat × Nat) → Option Nat
  | .ok e => some e.1
  | .error _ => none

/-- ClauseTables, ClauseInferenceAndFeedback, and the errors of ClauseIssueAndAcceptance: each of the ten commands at the head
of the array; CLLD and CLST with rows left and with none; a CFG entry and a table that hold a reserved bit; pieces of a row
that go to and come from the local page, one past every window, and one of a poisoned row. -/
theorem witness_clause_heads :
    ClHead (clBench [clCmd 0xC0 0x100 0x207FE] (some 0)) 0 (clCmd 0xC0 0x100 0x207FE) (at0 bench).crew
    ∧ ClHead (clBench [clCmd 0xC1 0x100 0x207FE] (some 0)) 0 (clCmd 0xC1 0x100 0x207FE) (at0 bench).crew
    ∧ ClHead (clBench [clCmd 0xC2 0x100 0x207FE] (some 0)) 0 (clCmd 0xC2 0x100 0x207FE) (at0 bench).crew
    ∧ (∀ op ∈ [0xC0, 0xC1, 0xC2, 0xC3, 0xC4, 0xC5, 0xC6, 0xC7, 0xC8, 0xC9], ∀ sb ∈ [0x1F07FE0, 0x207FE],
      let c := clCmd op 0x100 (BitVec.ofNat 64 sb)
      ((clBench [c] (some 0)).clusterAt 0).clause.queue = [c] ∧ (clBench [c] (some 0)).crew? 0 0 = some (at0 bench).crew
      ∧ ((clBench [c] (some 0)).ctx? 0).isSome = true)
    ∧ (0x100 % 16 = 0 ∧ 0x100 + 2 * 2 ≤ (at0 bench).crew.size ∧ 0x100 + 528 ≤ (at0 bench).crew.size)
    ∧ (∀ i, i < 2 → ofBytes ((clBench [clCmd 0xC0 0x100 0x207FE] (some 0)).rowAt 0 (at0 bench).crew (0x100 + 2 * i) 2) < 2 ^ 10)
    ∧ (let d := { clCmd 0xC1 0x100 0x207FE with cursor := 1, part := List.replicate 1024 0 }
       ((clBench [d] (some 0)).clusterAt 0).clause.queue = [d] ∧ d.cursor < 2 ∧ d.part.length = 1024)
    ∧ (let s := (clBench [clCmd 0xC0 0x100 0x207FE] (some 0)).scrWrite 0 (at0 bench).crew 0x102 [0, 4]
       ofBytes (s.rowAt 0 (at0 bench).crew 0x102 2) = 2 ^ 10 ∧ ofBytes (s.rowAt 0 (at0 bench).crew 0x100 2) < 2 ^ 10)
    ∧ (let s := clBench [clCmd 0xC1 0x100 0x207FE] (some 0)
       won ((at0 bench).ctx.win 0x100 .r) = some 0x100 ∧ won ((at0 bench).ctx.win 0x100 .w) = some 0x100 ∧ s.localIa 0x100 = true
       ∧ 0x100 % 128 + min 1024 (64 - 0x100 % 64) ≤ 128 ∧ (clean (s.iaRead (some 0) 0x100 64 2 0)).isSome = true
       ∧ isOk (s.iaWrite (some 0) none 0x100 (List.replicate 64 127) 0) = true
       ∧ won ((at0 bench).ctx.win 0x10000 .r) = none)
    ∧ ((clBench [] (some 0)).band? 0 0).map (·.crew) = some 0 ∧ (0x0201 : DWord).toNat < 2 ^ 16 :=
  ⟨clHead_of rfl rfl rfl (by decide +kernel) (by decide +kernel) (by decide +kernel) (by decide +kernel) (by decide +kernel),
    clHead_of rfl rfl rfl (by decide +kernel) (by decide +kernel) (by decide +kernel) (by decide +kernel) (by decide +kernel),
    clHead_of rfl rfl rfl (by decide +kernel) (by decide +kernel) (by decide +kernel) (by decide +kernel) (by decide +kernel),
    by decide +kernel⟩

/-- What `Copying` asks for of a command of core 0, as a test. -/
def runsOn (s : State) (c : EngCmd) : Bool :=
  decide (s.engCmd? 0 c.id = some c ∧ s.crew? 0 c.crew = some (at0 s).crew ∧ s.ctx? (at0 s).crew.task.ctx = some (at0 s).ctx
    ∧ c.accepted = true ∧ c.started = true ∧ c.finished = false ∧ c.sent = none ∧ c.coll = none)
theorem copying_of {s : State} {c : EngCmd} (h : runsOn s c = true) : Copying s 0 c (at0 s).crew (at0 s).ctx := by
  simp only [runsOn, decide_eq_true_eq] at h
  exact ⟨h.1, h.2.1, h.2.2.1, h.2.2.2⟩

/-- A gather of two rows of 12 bytes, of which the second is missing in the source. -/
def gather : EngCmd := { copyCmd 2 (copyBlock 9 0x100 0x800 12 2 (toBytes 4 1 ++ toBytes 4 0x40 ++ toBytes 8 12 ++ toBytes 8 12)) with
  started := true, idx := [0, 7], left := 24 }
/-- CPY.ZC or CPY.ZD of 33 elements of 2 bytes, with room for `cap` bytes. -/
def packing (fn cap : Nat) : EngCmd := { copyCmd fn (copyBlock 0x1009 0x100 0x800 66 cap []) with started := true, left := 66 }
/-- CKPT of two granules, in `mode`. -/
def ckpt (mode : Nat) : EngCmd :=
  { copyCmd 0x20 (toBytes 8 mode ++ toBytes 8 0 ++ toBytes 8 0x4000 ++ toBytes 8 8192 ++ toBytes 8 5 ++ List.replicate 24 0) with
    started := true, left := 8192 }
/-- Commands in a context with a window on the local page, one on device 1, and one on IA 2^56, which names no device. -/
def windowed (l : List EngCmd) (live : Bool) : State :=
  let s := (engined l).modCtx 0 fun x => { x with vw := [(0, 0x0F), (1, 0), (2, 0x1000F), (3, 2 ^ 56)] }
  { s with fab := { s.fab with members := if live then [(1, ⟨true, 0⟩)] else [] } }
/-- How a piece is moved: 0 at once, 256 by a request, 512 not yet, and else its fault. -/
def moves : Moved → Nat
  | .ok _ _ => 0
  | .sent _ _ _ => 256
  | .bad c _ => c
  | .hold => 512

/-- CopiesStepByStep: a copy before its read, before its write, before its count and at its end; a gather at its row, at its
missing row and at its end, with a status area; a scatter's row that is not written; a fill. -/
theorem witness_copy_steps :
    ∀ c ∈ ([{ linCopy with started := true }, { linCopy with started := true, part := List.replicate 16 1 },
        { linCopy with started := true, part := List.replicate 16 1, woff := 16 }, { linCopy with started := true, cursor := 1, wide := 1 },
        gather, { gather with cursor := 1 }, { gather with cursor := 2, wide := 1, stat := 0x60, bits := [1] },
        { gather with fn := 3, cursor := 1 }, { copyCmd 5 (copyBlock 0x2008 0x11223344 0x800 16 0 []) with started := true }] : List EngCmd),
      Copying (engined [c]) 0 c (at0 (engined [c])).crew (at0 (engined [c])).ctx ∧ c.fn ≤ 5 ∧ c.wide ≠ 5 := by
  intro c hc
  have h : runsOn (engined [c]) c = true ∧ c.fn ≤ 5 ∧ c.wide ≠ 5 := by revert c; decide +kernel
  exact ⟨copying_of h.1, h.2⟩

/-- CopiesStepByStep: where those copies stand in their units. -/
theorem witness_copy_units :
    linCopy.units = 1 ∧ linCopy.unit 0 = ⟨some 0x100, 16, 0x200, 16, 0, 0, false⟩ ∧ (gather.unit 0).src = some 0x100
    ∧ gather.units = 2 ∧ (gather.unit 1).src = none ∧ ({ gather with fn := 3 } : EngCmd).idx.getD 1 0 = 7
    ∧ ({ gather with fn := 3 } : EngCmd).units = 2 ∧ (({ gather with fn := 3 } : EngCmd).unit 1).void = true
    ∧ 0x60 + 1 ≤ (at0 bench).crew.size ∧ (List.replicate 128 (0 : Byte)).length % 128 = 0 := by
  decide +kernel

/-- CopiesStepByStep: pieces that end at the end of each space, and one byte beyond; addresses that no member of the gang has;
windows on this device, on another that is a member or is none, and on an address that names no device; a range that goes
from one window into the next. -/
theorem witness_engine_spaces :
    (let s := windowed [] true
     let r := fun sp a n => moves (s.engRead 0 (at0 s).crew (at0 s).ctx linCopy sp a n 0)
     let w := fun sp a n => moves (s.engWrite 0 (at0 s).crew (at0 s).ctx linCopy sp a 0 (List.replicate n 1))
     (s.member? (at0 s).crew (at0 s).crew.member).map (·.1) = some 0 ∧ s.member? (at0 s).crew 1 = none
     ∧ [r 1 65520 16, r 1 65521 16, r 2 65520 16, r 2 0x80000 1, r 2 0x800000 1, r 3 0xFFF0 16, r 3 0xFFF1 16]
        = [0, 5, 0, 5, 5, 0, 5]
     ∧ [w 1 65520 16, w 1 65521 16, w 2 65520 16, w 2 0x80000 1, w 2 0x800000 1, w 3 0xFFF0 16, w 3 0xFFF1 16]
        = [0, 5, 0, 5, 5, 0, 5]
     ∧ [r 4 0xFFF0 16, r 4 0x10000 16, r 4 0x20000 16, w 4 0xFFF0 16, w 4 0x10000 16, w 4 0x20000 16] = [0, 256, 3, 0, 256, 3]
     ∧ (at0 s).ctx.farIn s 0xFFF8 16 = 8)
    ∧ (let s := windowed [] false
       moves (s.engRead 0 (at0 s).crew (at0 s).ctx linCopy 4 0x10000 16 0) = 0xA ∧ s.fab.down 1 = true) := by
  decide +kernel

/-- CopiesStepByStep: commands that break a rule of their block, whose list is poisoned, whose windows have a DSC of 0, and whose
first index is in range and second is not. -/
theorem witness_commands_stop :
    (∀ c ∈ ([copyCmd 0 (copyBlock 0 0x100 0x200 16 0 []), { copyCmd 0 (copyBlock 36 0xFFF8 0x100 16 0 []) with sc := 0 },
        copyCmd 2 (copyBlock 0x49 0x100 0x800 12 2 (toBytes 4 1 ++ toBytes 4 0x40 ++ toBytes 8 12 ++ toBytes 8 12))] : List EngCmd),
      let s := (windowed [c] true).modCore 0 fun x => { x with scr := ⟨(x.scr.write 8 0x44 [7, 0, 0, 0]).cells, []⟩ }
      s.engCmd? 0 c.id = some c ∧ s.crew? 0 c.crew = some (at0 s).crew ∧ s.ctx? (at0 s).crew.task.ctx = some (at0 s).ctx ∧ c.fn ≤ 7
      ∧ c.accepted = true ∧ c.started = false ∧ c.finished = false ∧ c.sent = none ∧ s.mayStart 0 c = true
      ∧ (s.engBegin 0 (at0 s).crew (at0 s).ctx c).wide ≠ 5
      ∧ (c.blockOk = false ∨ (c.listOk (at0 s).crew = true ∧ s.listPoisoned 0 (at0 s).crew (s.engBegin 0 (at0 s).crew (at0 s).ctx c) = false
          ∧ ((c.sc = 0 ∧ (s.engBegin 0 (at0 s).crew (at0 s).ctx c).windows (at0 s).ctx = [0, 1] ∧ (at0 s).ctx.vdsc 0 = 0)
            ∨ (c.sc = 1 ∧ c.strict = true ∧ (s.engBegin 0 (at0 s).crew (at0 s).ctx c).idx = [0, 7])))))
    ∧ (let c := { gather with started := false, idx := [] }
       let s := (engined [c]).modCore 0 fun x => { x with scr := x.scr.mark 8 0x40 }
       s.mayStart 0 c = true ∧ c.blockOk = true ∧ c.listOk (at0 s).crew = true
       ∧ s.listPoisoned 0 (at0 s).crew (s.engBegin 0 (at0 s).crew (at0 s).ctx c) = true) := by
  decide +kernel
/-- CompressionAndCheckpoints: CPY.ZC before its read, with a chunk that fits and one that does not, and at the last chunk, with its
write done; CPY.ZD before its mask, before its elements, with a mask that sets a bit beyond the chunk, and without room;
CKPT before its granule, after its read, after its writes, and at its end, in both modes. -/
theorem witness_packed_copies :
    ∀ c ∈ ([packing 6 200, { packing 6 200 with part := List.replicate 64 1 }, { packing 6 4 with part := List.replicate 64 1 },
        { packing 6 200 with cursor := 1, part := [1, 1], woff := 8, pos := 68 },
        packing 7 200, { packing 7 200 with part := [3, 0, 0, 0] }, { packing 7 4 with part := [3, 0, 0, 0] },
        { packing 7 200 with part := [3, 0, 0, 0, 1, 1, 1, 1] }, { packing 7 200 with cursor := 1, part := [2, 0, 0, 0], pos := 8 },
        ckpt 0, { ckpt 0 with part := List.replicate 64 1 }, { ckpt 0 with part := List.replicate 4096 1 },
        { ckpt 0 with part := List.replicate 4096 1, woff := 4112 }, { ckpt 0 with cursor := 2, wide := 1, stat := 0x60 }, ckpt 1,
        { ckpt 1 with part := List.replicate 4096 1, woff := 4096 }] : List EngCmd),
      Copying (engined [c]) 0 c (at0 (engined [c])).crew (at0 (engined [c])).ctx ∧ c.units = 2 := by
  intro c hc
  have h : runsOn (engined [c]) c = true ∧ c.units = 2 := by revert c; decide +kernel
  exact ⟨copying_of h.1, h.2⟩

/-- CompressionAndCheckpoints: a granule of HBM whose bit is set, and one whose bit is not; elements that are zeros and are not. -/
theorem witness_granules :
    (match bench.walk (localPart 0) with | .leaf l => l.mt == 0 && l.pa / 4096 == 0 | _ => false) = true
    ∧ won ((at0 bench).ctx.win 0 .r) = some 0 ∧ bench.granules = [0]
    ∧ moves ({ bench with granules := [] }.engRead 0 (at0 bench).crew (at0 bench).ctx (ckpt 0) 4 0 64 0) = 0
    ∧ zeroElem true [0, 0x80] = true ∧ zeroElem false [0, 0x80] = false ∧ zeroElem true [0, 0] = true := by
  decide +kernel

/-- `allReduce` of 64-bit integers, at the place that `place` names, with its partner's contribution. -/
def summing (cursor woff place : Nat) : EngCmd := { allReduce with
  block := copyBlock (1 + 1 * 8 + 4 * 64) 0x100 place 16 0 []
  coll := some ⟨7, 0, 2, 0, [0, 1], 0, 16, 0, List.replicate 16 1, [(1, List.replicate 16 2)], 0⟩
  cursor := cursor, woff := woff, part := if cursor = 1 then [] else List.replicate 16 3 }

/-- CollectiveData: a collective whose contributions are all there, one that writes its DST, which an element straddles a 64-byte
boundary of or does not, and one that has written it; what the two parts of the straddling element may meet. -/
theorem witness_collective_steps :
    (∀ c ∈ [summing 1 0 0x200, summing 2 0 0x200, summing 2 0 0x23C, summing 2 16 0x200],
      let s := windowed [c] true
      s.engCmd? 0 c.id = some c ∧ s.crew? 0 c.crew = some (at0 s).crew ∧ s.ctx? (at0 s).crew.task.ctx = some (at0 s).ctx
      ∧ c.accepted = true ∧ c.started = true ∧ c.finished = false ∧ c.sent = none ∧ c.wide ≠ 5 ∧ s.fab.aborts = [] ∧ s.fab.inbox = []
      ∧ (c.coll.map fun x => (x.members, x.got.length + 1, x.nmem)) = some ([0, 1], 2, 2) ∧ s.mayMove c = true ∧ s.domidx = 0
      ∧ s.fab.down 1 = false ∧ c.dt = 4 ∧ c.dsp = 1 ∧ c.part.length = (if c.cursor = 1 then 0 else 16))
    ∧ (let s := windowed [] true
       moves (s.engWrite 0 (at0 s).crew (at0 s).ctx linCopy 1 0x23C 0 [3, 3, 3, 3]) = 0
       ∧ moves (s.engWrite 0 (at0 s).crew (at0 s).ctx linCopy 1 65532 0 [3, 3, 3, 3]) = 0
       ∧ moves (s.engWrite 0 (at0 s).crew (at0 s).ctx linCopy 1 65536 0 [3, 3, 3, 3]) = 5)
    ∧ ([7, -9] : List Int) ≠ [] ∧ (fmtF32.decode false 0x3F800000).rat?.isSome = true ∧ (fmtF32.decode false 0x7F800000).rat?.isSome = false
    ∧ (fmtF32.decode false 0x7F800001).isSnan = true := by
  decide +kernel

/-- A module whose label 0 is the entry of a kernel of `crew` bands and gangs of `gang`, and whose label 1 is no entry. -/
def kernelModule (crew gang energy : Nat) : Module :=
  { code := 0, size := 512, labels := [⟨0x40, 0, true, 0⟩, ⟨0x80, 0, false, 0⟩],
    kernels := [⟨0, 16, crew, gang, 0, 1, 64, 4096, energy, List.replicate 8 0⟩], symbols := [], spans := [], old := false }
/-- The bench in that module, with a task record of KIND `kind` for `gang` members at SCR 0x100 and queue 3 the context's. -/
def record (kind gang : Nat) : List Byte :=
  toBytes 2 1 ++ toBytes 2 0 ++ toBytes 1 kind ++ toBytes 1 1 ++ toBytes 1 gang ++ List.replicate 57 0
def tasked (tasks : List Task) : State :=
  ((bench.modCtx 0 fun x => { x with modules := [(1, kernelModule 1 1 11)] }).scrWrite 0 (at0 bench).crew 0x100 (record 1 1)).setQueue 0 3
    ⟨some 0, tasks⟩
/-- A crew task of the bench's context that waits. -/
def waiting (held : Bool) (prio since : Nat) : Task := ⟨9, 0, 1, 0, 1, record 1 1, List.replicate 8 0, 0, 3, held, prio, [], since⟩

/-- TasksQueuesAndSpawns: a queue operand that names the context's queue, and one that does not; a record that may enter and one
that may not; queues empty, with held records, and full; counters at the last index and beyond; an entry that a SPAWN may
name and labels it may not; bins open, free and all taken. -/
theorem witness_tasks :
    ((at0 (tasked [])).NamesQueue (tasked []) 3 0 3 ∧ ∀ q n, ¬(at0 (tasked [])).NamesQueue (tasked []) 0x200 q n)
    ∧ isReady (tasked []) = true
    ∧ ((tasked []).checkRec (at0 (tasked [])).ctx 1 ((tasked []).rowAt 0 (at0 bench).crew 0x100 64)).isSome = true
    ∧ (tasked []).checkRec (at0 (tasked [])).ctx 1 (List.replicate 64 0) = none
    ∧ (0x100 % 64 = 0 ∧ 0x100 + 64 ≤ (at0 bench).crew.size) ∧ (tasked []).scrPoisoned 0 (at0 bench).crew 0x100 64 = false
    ∧ ((tasked [waiting true 0 0, waiting false 0 0]).queueAt 0 3).tasks = [waiting true 0 0] ++ waiting false 0 0 :: []
    ∧ ((tasked (List.replicate 4096 (waiting true 0 0))).queueAt 0 3).tasks.length = 4096
    ∧ (∀ t ∈ ((tasked (List.replicate 3 (waiting true 0 0))).queueAt 0 3).tasks, t.held = true)
    ∧ ((15 < 2 ^ 18 ∧ 15 < (at0 bench).ctx.dccnt.toNat) ∧ (at0 bench).ctx.dccnt.toNat ≤ 16)
    ∧ ((at0 (tasked [])).module.bind fun v => v.header 0).bind binLaunch ≠ none
    ∧ (at0 (tasked [])).label 0 ≠ none ∧ ((at0 (tasked [])).module.bind fun v => v.header 1).bind binLaunch = none
    ∧ (at0 (tasked [])).label 1 ≠ none ∧ (at0 (tasked [])).label 2 = none
    ∧ (let full := (tasked []).setCluster 0 { (tasked []).clusterAt 0 with
          bins := (List.range 64).map fun i => (i, ⟨0, 2, 0, [(0, 0)], 0, 0⟩) }
       (∀ i, i < 64 → (full.clusterAt 0).bins.find i ≠ none) ∧ isReady full = true)
    ∧ (∀ i, i < 64 → ((tasked []).clusterAt 0).bins.find i = none) := by
  refine ⟨⟨?_, ?_⟩, by decide +kernel⟩
  · unfold Here.NamesQueue; decide +kernel
  · rintro q n ⟨h, -⟩
    revert h; decide +kernel

/-- The bench with S[4] as given, at TL = 1 or 0, its context SYS or not. -/
def privileged (sys tl : Bool) (v : DWord) : State :=
  (bench.modCtx 0 fun x => { x with sys := sys }).modBand 0 0 fun b => { b.setS 4 v with tl := tl, handler := -1 }

/-- SystemRegisters: both modes; a write of CSTK at TL = 1 with the least and the greatest depth, and with each that is
refused; a write of TFRM of −1, of an aligned offset and of one that is not. -/
theorem witness_system_registers :
    (∀ sys ∈ [false, true], ∀ tl ∈ [false, true], ∀ v ∈ [8, 16, 9, 0, 0x10000, 0x10008, 128, 0xFFFFFFFFFFFFFFFF],
      isReady (privileged sys tl (BitVec.ofNat 64 v)) = true
      ∧ (at0 (privileged sys tl (BitVec.ofNat 64 v))).band.leads g0 = true
      ∧ (at0 (privileged sys tl (BitVec.ofNat 64 v))).ctx.sys = sys
      ∧ (at0 (privileged sys tl (BitVec.ofNat 64 v))).band.tl = tl
      ∧ (at0 (privileged sys tl (BitVec.ofNat 64 v))).band.sreg 4 = BitVec.ofNat 64 v)
    ∧ (at0 bench).ctx.pvsize.toNat = 64
    ∧ (let ok : Nat → Bool := fun v => decide (8 ≤ v ∧ v ≤ 65536 ∧ v % 8 = 0 ∧ v ≤ 64)
       ok 8 = true ∧ ok 64 = true ∧ ok 0 = false ∧ ok 9 = false ∧ ok 72 = false ∧ ok 0x10008 = false)
    ∧ ((0xFFFFFFFFFFFFFFFF : DWord) = BitVec.allOnes 64 ∧ (128 : DWord).toNat % 128 = 0 ∧ (9 : DWord).toNat % 128 ≠ 0)
    ∧ (∀ n ∈ [0x000, 0x018, 0x030, 0x037, 0x100, 0x11E, 0x12E], (Instr.sysrd (fy 4 (BitVec.ofNat 12 n) 0 0)).wf = true)
    ∧ (Instr.syswr (fy 4 0x018 0 0)).wf = true := by
  decide +kernel

/-- The labelled bench whose handlers stand at label 1, with a trap frame at SCR 0 of the crew, `n` permits taken by other
bands, at TL = 1 or 0. -/
def trapping (tl : Bool) (tvec tfrm : DWord) (n : Nat) : State :=
  (labelled.modCore 0 fun x => { x with bands := x.bands ++ (List.range n).map fun i =>
      (i + 1, { probeBand with crew := 9, permit := true }) }).modBand 0 0 fun b =>
    { b with tl := tl, handler := -1, tvec := tvec, tfrm := tfrm, flags := 5, fen := 4 }

theorem handler_of {h : Here} {g : Nat} (a : ((h.label (h.vector g)).any fun e => e.attr == 2) = true) : h.hasHandler g := by
  cases he : h.label (h.vector g) with
  | none => simp [he] at a
  | some e => exact ⟨e, he, by simpa [he] using a⟩
theorem no_handler_of {h : Here} {g : Nat} (a : ((h.label (h.vector g)).any fun e => e.attr == 2) = false) : ¬h.hasHandler g := by
  rintro ⟨e, he, hn⟩
  simp [he, hn] at a

/-- TrapWordsAndHints, TrapsKillsAndReturns: a band that may enter its handler, with a frame at the end of the allotment, at TL = 0
and at TL = 1; without a handler; without a frame and with one that does not fit; without a permit. -/
theorem witness_traps :
    Ready (trapping false 0x00010001 0 0) (at0 (trapping false 0x00010001 0 0))
    ∧ (at0 (trapping false 0x00010001 0 0)).hasHandler 2 ∧ (at0 (trapping false 0x00010001 0 0)).hasHandler 4
    ∧ (at0 (trapping false 0x00010001 0 0)).hasFrame ∧ (at0 (trapping false 0x00010001 (65536 - 0x4680) 0)).hasFrame
    ∧ ¬(at0 (trapping false 0x00010001 (65536 - 0x4600) 0)).hasFrame ∧ ¬(at0 (trapping false 0x00010001 (-1) 0)).hasFrame
    ∧ (trapping false 0x00010001 0 3).hasPermit (at0 (trapping false 0x00010001 0 3))
    ∧ ¬(trapping false 0x00010001 0 4).hasPermit (at0 (trapping false 0x00010001 0 4))
    ∧ ¬(at0 (trapping false 0xFFFF0000 0 0)).hasHandler 2 ∧ ¬(at0 (trapping false 0xFFFF0000 0 0)).hasHandler 4
    ∧ (at0 (trapping false 0xFFFF0000 0 0)).band.tl = false
    ∧ Ready (trapping true 0x00010001 0 0) (at0 (trapping true 0x00010001 0 0))
    ∧ (at0 (trapping true 0x00010001 0 0)).band.tl = true
    ∧ (at0 (trapping false 0x00010001 0 0)).band.flags &&& (at0 (trapping false 0x00010001 0 0)).band.fen ≠ 0
    ∧ (at0 bench).band.flags &&& (at0 bench).band.fen = 0 ∧ (at0 (trapping false 0x00010001 0 0)).band.leads g0 = true :=
  ⟨ready_of (by decide +kernel), handler_of (by decide +kernel), handler_of (by decide +kernel),
    by unfold Here.hasFrame; decide +kernel, by unfold Here.hasFrame; decide +kernel, by unfold Here.hasFrame; decide +kernel,
    by unfold Here.hasFrame; decide +kernel, by unfold State.hasPermit; decide +kernel, by unfold State.hasPermit; decide +kernel,
    no_handler_of (by decide +kernel), no_handler_of (by decide +kernel), by decide +kernel, ready_of (by decide +kernel),
    by decide +kernel, by decide +kernel, by decide +kernel, by decide +kernel⟩

/-- The barrier object of `barred 3 0` in the band's crew's table, not yet arrived at. -/
def owing : State := (barred 3 0).modCrew 0 0 fun w => { w with objs := [⟨0x100, 0, 0⟩, ⟨0x110, 1, 1⟩] }

/-- TrapsKillsAndReturns: a kill whose band has not arrived at an object of its crew; a log that is not full. -/
theorem witness_kills :
    (∀ e ∈ (at0 owing).crew.objs, ∀ d ∈ (at0 owing).crew.objs, d.off = e.off ∨ d.off + 16 ≤ e.off ∨ e.off + 16 ≤ d.off)
    ∧ ((at0 owing).object owing 0x100).phase < 3 ∧ ((at0 owing).object owing 0x100).apend ≠ 0
    ∧ (∃ e ∈ (at0 owing).crew.objs, e.off = 0x100 ∧ e.arr.getLsbD (at0 owing).band.index = false)
    ∧ owing.hereAt 0 0 = some (at0 owing) ∧ (at0 owing).ctx.log.length < 4096 := by
  decide +kernel

/-- A band at TL = 1 whose frame at SCR 0 is all zeros but for the bytes given. -/
def returning (l : List (Nat × List Byte)) : State :=
  let s := trapping true 0x00010001 0 0
  l.foldl (fun s e => s.scrWrite 0 (at0 s).crew e.1 e.2) s

/-- The conditions that `Claims.TrapReturn` calls good, as a test. -/
def goodFrame (s : State) : Bool :=
  let h := at0 s
  let fr := fun o n => h.frameAt s o n
  let st := fun l => fr 0x78 8 / 4 ^ l % 4
  let cond := fun l => fr (h.frameTail + 4 * l) 4
  decide (fr 0 8 % 8 = 0) && decide (fr 0 8 ≤ h.codeSize) && (List.range 32).all fun l =>
    decide (fr (h.frameTail + 0x80 + 2 * l) 2 ≤ h.band.cstk.toNat / 2)
    && (!(st l == 1 || st l == 2) || (h.label (BitVec.ofNat 16 (fr (0x30 + 2 * l) 2))).any fun e => e.attr != 2)
    && (st l != 2 || (decide (cond l % 2 ^ 20 % 16 = 0) && decide (cond l % 2 ^ 20 + 16 ≤ h.crew.size)))

/-- TrapsKillsAndReturns: a return to the last P of the module; one with a lane WANTING, one BLOCKED, one EXITED and a stack of four;
frames that fail each check; an access to the frame outstanding. -/
theorem witness_returns :
    (∀ l ∈ [[], [(0, toBytes 8 512)], [(0x78, toBytes 8 0x39), (0x4500, toBytes 2 4)]], isReady (returning l) = true
      ∧ (at0 (returning l)).band.tl = true ∧ goodFrame (returning l) = true)
    ∧ (∀ l ∈ [[(0, toBytes 8 4)], [(0, toBytes 8 520)], [(0x78, toBytes 8 1), (0x30, toBytes 2 1)], [(0x78, toBytes 8 1), (0x30, toBytes 2 9)],
        [(0x78, toBytes 8 2), (0x4480, toBytes 4 8)], [(0x78, toBytes 8 2), (0x4480, toBytes 4 0x10000)], [(0x4502, toBytes 2 33)]],
        isReady (returning l) = true ∧ goodFrame (returning l) = false)
    ∧ (at0 (returning [])).band.log = [] ∧ (at0 (returning [])).frameTail = 0x4480 := by
  decide +kernel

/-- TrapsKillsAndReturns: a return that gives a load of before the trap, which the handler let complete, its register. -/
theorem witness_kept :
    ∀ o ∈ [{ opOf 3 .loadS 8 [{ elemOf0 0 (.chip 0x100) [] with st := .done [7, 0, 0, 0, 0, 0, 0, 0] }] with kept := true },
        { opOf 3 .load 4 [{ elemOf0 0 (.chip 0x100) [] with st := .done [7, 0, 0, 0] }] with kept := true }],
      let s := (returning []).modBand 0 0 fun b => { b with log := [o] }
      isReady s = true ∧ goodFrame s = true ∧ (at0 s).band.log.filter (·.kept) = [o] ∧ (at0 s).crew.paired = false := by
  decide +kernel

/-- FlagsClear: masks of nine bits, and one of ten. -/
theorem witness_flags_clear :
    (Instr.flagc (fy 0 0 0 511)).wf = true ∧ 2 ^ 9 ≤ (512 : BitVec 24).toNat ∧ isReady bench = true := by decide +kernel

/-- MismatchesAndRunOff: an armed mismatch whose trap finds no permit, so that the word waits with it. -/
theorem witness_armed_waits :
    (let s := { (trapping false 0x00010001 0 4).modCrew 0 0 (fun w => { w with checked := true }) with clones := [(0, 0, 3)] }
     let t := s.modBand 0 0 fun b => { b with lanes := b.lanes.mapIdx fun i x => if i < 16 then x else { x with st := .exited } }
     let h := at0 t
     t.here? = some h ∧ h.crew.checked = true ∧ ((List.range 32).filter fun k => (h.band.guarded g0).getLsbD k).length = 16
     ∧ (h.band.guarded g0).getLsbD 3 = true ∧ (0, 0, 3) ∈ t.clones
     ∧ ((Claims.HwTrap t h 1 3 (h.band.guarded g0)).band? 0 0).map (fun b => b.waitTo.isSome) = some true) := by
  decide +kernel

/-- The issue of a band of the bench, whose P is `p`, as the next move, in deterministic mode or not. -/
def issuing (detm : Bool) (p : Nat) (f : Band → Band) : State :=
  { ((bench.modCtx 0 fun x => { x with detm := detm }).modBand 0 0 fun b => f { b with p := BitVec.ofNat 64 p }) with
    agenda := [.issue 0 0], cur := none }
/-- The state in which `Selected` has the band issue. -/
def issuingNow (s : State) : State :=
  let u : State := { s with agenda := [], cur := some (0, 0) }
  u.setBand 0 0 (if (at0 s).ctx.detm then { (at0 s).band with waitTo := none } else { (at0 s).band with picked := (s.coreAt 0).retires })
theorem selected_of {s : State} (h : (decide (s.agenda = [.issue 0 0]) && (at0 s).crew.issues
    && (let u : State := { s with agenda := [], cur := some (0, 0) }
        decide (u.hereAt 0 0 = some (at0 s)) && if (at0 s).ctx.detm then decide (u.turn 0 (at0 s).crew = some 0 ∧ (at0 s).band.yld = false)
          else decide ((at0 s).band.waitTo = none ∧ u.selects (at0 s) = true))) = true) :
    ∃ h, Selected s (issuingNow s) 0 0 [] h ∧ h = { at0 s with band := h.band } ∧ h.band.p = (at0 s).band.p := by
  simp only [Bool.and_eq_true, decide_eq_true_eq] at h
  obtain ⟨⟨a, i⟩, u, c⟩ := h
  cases d : (at0 s).ctx.detm
  · rw [d, if_neg (by decide), decide_eq_true_eq] at c
    exact ⟨{ at0 s with band := { (at0 s).band with picked := (s.coreAt 0).retires } },
      ⟨a, at0 s, u, i, .inl ⟨d, c.1, c.2, rfl⟩, by unfold issuingNow; rw [d]; rfl⟩, rfl, rfl⟩
  · rw [d, if_pos rfl, decide_eq_true_eq] at c
    exact ⟨{ at0 s with band := { (at0 s).band with waitTo := none } },
      ⟨a, at0 s, u, i, .inr ⟨d, c.1, c.2, rfl⟩, by unfold issuingNow; rw [d]; rfl⟩, rfl, rfl⟩

/-- MismatchesAndRunOff, StepRunsDecoded: a band selected at the end of its code, and one at a word, in either mode. -/
theorem witness_selected :
    ∀ detm ∈ [false, true], ∀ p ∈ [0, 512], (∃ h, Selected (issuing detm p id) (issuingNow (issuing detm p id)) 0 0 [] h
        ∧ h = { at0 (issuing detm p id) with band := h.band } ∧ h.band.p = (at0 (issuing detm p id)).band.p)
      ∧ ((at0 (issuing detm p id)).band.p.toNat = p ∧ (at0 (issuing detm p id)).codeSize = 512
      ∧ (at0 (issuing detm p id)).band.park = none ∧ (at0 (issuing detm p id)).band.running ≠ 0
      ∧ (issuingNow (issuing detm p id)).asyncTrap (at0 (issuingNow (issuing detm p id))) = none) := by
  intro detm hd p hp
  refine ⟨selected_of ?_, ?_⟩ <;> revert p <;> revert detm <;> decide +kernel

/-- `tasked`, with energy in the reserve. -/
def rich (tasks : List Task) : State := (tasked tasks).modCtx 0 fun x => { x with reserve := 2 ^ 50, cap := 2 ^ 20 }
/-- As `rich`, for a gang of two. -/
def gangTask : Task := { waiting false 0 0 with kind := 2, bytes := record 2 2 }
def richGang : State := (rich [gangTask]).modCtx 0 fun x => { x with modules := [(1, kernelModule 1 2 11)] }
/-- Cluster 0 with a bin that began at cycle 0, `n` cycles later. -/
def binned (n : Nat) : State :=
  { (rich []).setCluster 0 { (rich []).clusterAt 0 with bins := [(5, ⟨0, 1, 0, [(0, 0)], 0, 0⟩)] } with cycle := n }

/-- The band with every lane EXITED. -/
def allOut (b : Band) : Band := { b with lanes := b.lanes.map fun l => { l with st := .exited } }
/-- The bench whose band has exited, alone in its crew, or with another band in slot 1. -/
def outBand : State := withBand allOut
def oneOver : State := outBand.modCore 0 fun x => { x with bands := x.bands ++ [(1, probeBand)] }

theorem lone_of {s : State} {k n : Nat} {w : Crew} {x : Ctx} (a : s.crew? k n = some w) (b : s.ctx? w.task.ctx = some x)
    (c : w.gang = [(k, n)]) (d : w.gone = false) : Lone s k n w x := ⟨a, b, c, d⟩
theorem bench_lone : Lone bench 0 0 (at0 bench).crew (at0 bench).ctx :=
  lone_of (by decide +kernel) (by decide +kernel) (by decide +kernel) (by decide +kernel)

/-- AdmissionAndRetirement: a bin whose timer has just ended, and one whose timer has not; a crew task that the core may take, none,
and a gang task that two of its cores may take; a band that has ended, with and without another one, and one that has not. -/
theorem witness_admission :
    ((binned 4096).clusterAt 0).bins.find 5 = some ⟨0, 1, 0, [(0, 0)], 0, 0⟩ ∧ ((binned 4096).ctx? 0).map (·.btim) = some 4096
    ∧ ((binned 4095).ctx? 0).map (·.detm) = some false
    ∧ ((rich []).look 0).find? ((rich []).canAdmit 0) = none
    ∧ (let s := rich [waiting true 5 0, waiting false 0 0]
       (s.look 0).find? (s.canAdmit 0) = some (waiting false 0 0) ∧ s.crewReturns 0 = false
       ∧ ((waiting false 0 0).launch (at0 s).ctx).any (fun l => ((s.coreAt 0).room l.crew l.regs l.carve l.units).isSome) = true)
    ∧ ((richGang.look 0).find? (richGang.canAdmit 0) = some gangTask ∧ richGang.crewReturns 0 = false
       ∧ (gangTask.launch (at0 richGang).ctx).any (fun l => (richGang.gangCores 0 gangTask (at0 richGang).ctx l).isSome) = true)
    ∧ (∀ l, l < 32 → ((at0 outBand).band.lane l).st = .exited) ∧ outBand.bandIdle (at0 outBand) = true
    ∧ outBand.hereAt 0 0 = some (at0 outBand) ∧ oneOver.hereAt 0 0 = some (at0 oneOver) ∧ oneOver.bandIdle (at0 oneOver) = true
    ∧ (∃ e ∈ (oneOver.coreAt 0).bands, e.1 ≠ 0 ∧ e.2.crew = 0) ∧ (∀ e ∈ (outBand.coreAt 0).bands, e.1 = 0)
    ∧ bench.hereAt 0 0 = some (at0 bench) ∧ ((at0 bench).band.lane 0).st ≠ .exited := by
  decide +kernel
/-- AdmissionAndRetirement: the crew of the last band, alone. -/
theorem witness_last_band : Lone outBand 0 0 (at0 outBand).crew (at0 outBand).ctx :=
  lone_of (by decide +kernel) (by decide +kernel) (by decide +kernel) (by decide +kernel)

/-- The bench with a second band of its crew in slot 1. -/
def twoBands (f g : Band → Band) : State := (withBand f).modCore 0 fun x => { x with
  bands := x.bands ++ [(1, g { probeBand with index := 1 })]
  crews := x.crews.map fun e => (e.1, { e.2 with slots := [0, 1] }) }

/-- AdmissionAndBandChoice: two bands for one pipe: alike, the other ahead by HPRIO, the first behind by YLD and ahead again once the
other has been picked or 32 cycles have passed, an other that has yielded; a stall; a band without a word. -/
theorem witness_band_choice :
    (∀ e ∈ ([(id, id, true), (id, fun b => { b with hprio := 1 }, false), (fun b => { b with hprio := 1 }, id, true),
        (fun b => { b with yld := true }, id, false), (fun b => { b with yld := true, yldMark := 3 }, fun b => { b with picked := 4 }, true),
        (id, fun b => { b with hprio := 1, yld := true, yldMark := 3 }, true), (fun b => { b with stall := 9 }, id, false)] :
          List ((Band → Band) × (Band → Band) × Bool)),
      let s := twoBands e.1 e.2.1
      s.wordPipe (at0 s) = some true ∧ s.readyWord 0 1 = some true ∧ s.selects (at0 s) = e.2.2)
    ∧ (let s : State := { twoBands (fun b => { b with yld := true }) id with cycle := 32 }
       s.selects (at0 s) = true)
    ∧ (let s := twoBands (fun b => { b with lanes := List.replicate 32 ⟨.blocked, 0, 0, 0, 0, 0, []⟩ }) id
       s.wordPipe (at0 s) = none) := by
  decide +kernel

/-- The two bands in deterministic mode, with the pointer at `rot` and `n` permits taken. -/
def rotating (rot n : Nat) (f g : Band → Band) : State :=
  let s := (twoBands f g).modCrew 0 0 fun w => { w with rot := rot }
  (s.modCtx 0 fun x => { x with detm := true }).modCore 0 fun x => { x with
    bands := x.bands ++ (List.range n).map fun i => (i + 2, { probeBand with crew := 9, permit := true }) }

/-- AdmissionAndBandChoice: the pointer's band, the next when that one waits or has exited, round past the last slot; all that wait, with
a permit free and with none; no band in deterministic mode. -/
theorem witness_turns :
    (let off : Band → Band := fun b => { b with waitTo := some 5 }
     (∀ e ∈ ([(0, 0, id, id, some 0), (1, 0, id, id, some 1), (0, 0, off, id, some 1), (1, 0, id, allOut, some 0),
        (0, 4, off, off, none), (1, 0, off, off, some 1)] : List (Nat × Nat × (Band → Band) × (Band → Band) × Option Nat)),
      let s := rotating e.1 e.2.1 e.2.2.1 e.2.2.2.1
      s.turn 0 (at0 s).crew = e.2.2.2.2 ∧ (at0 s).crew.rot = e.1 ∧ (at0 s).crew.slots = [0, 1]
      ∧ ((s.coreAt 0).bands.filter fun b => b.2.permit).length = e.2.1)
     ∧ (let s := rotating 0 0 off id
        s.passes 0 (at0 s).crew 0 = true ∧ s.passes 0 (at0 s).crew 1 = false))
    ∧ (∀ e ∈ bench.ctxs, e.2.detm = false) := by
  decide +kernel

/-- The bench at P, `n` cycles on, whose crew has an event log as a band of it may have. -/
def later (n : Nat) (f : Band → Band) : State := { withBand f with cycle := n }
/-- What a fetch fails with: its sub-cause; 0 for a wait for service. -/
def unfetched : Res (DWord × Bool) → Option Nat
  | .ok _ _ => none
  | .bad e => some e
  | .hold => some 0
/-- The bench without its page: an entry of DSVC, or none. -/
def away (e : DWord) : State :=
  { bench with ptes := bench.ptes.put (pteKey 4 0) e, l2 := [], cores := bench.cores.map fun c => (c.1, { c.2 with l1 := [] }) }

/-- BandEvents: a back-off that has ended and one that has not; a watchdog that is due at TL = 0 and at TL = 1, and one that is
not; a HWERR with and without a WATCHDOG; a waiting sample; a fetch that ends, one past the module, one without a page, one whose
page is to be serviced and one whose service has failed; a window of the collector open 31 and 32 cycles. -/
theorem witness_band_events :
    (at0 (later 64 fun b => { b with waitTo := some 64 })).band.waitTo = some 64
    ∧ (later 64 fun b => { b with waitTo := some 64 }).hereAt 0 0 = some (at0 (later 64 fun b => { b with waitTo := some 64 }))
    ∧ (at0 bench).ctx.detm = false
    ∧ (at0 bench).ctx.wdt.toNat = 2 ^ 30 ∧ (at0 bench).crew.count = 0 ∧ (at0 bench).crew.pre = none
    ∧ bench.crew? 0 0 = some (at0 bench).crew ∧ (at0 bench).crew.slots = [0] ∧ (at0 bench).band.allExited = false
    ∧ (at0 (later (2 ^ 30) fun b => { b with tl := true })).band.tl = true
    ∧ (let h := at0 (later (2 ^ 30) fun b => { b with hwerr := [2], wdog := true })
       h.band.hwerr = 2 :: [] ∧ h.band.running ≠ 0 ∧ h.band.wdog = true ∧ h.band.tl = false)
    ∧ (let h := at0 (later (2 ^ 30) fun b => { b with hwerr := [2], wdog := true, lanes := List.replicate 32 ⟨.blocked, 0, 0, 0, 0, 0, []⟩ })
       h.band.running = 0 ∧ h.band.wdog = true)
    ∧ ((bench.modCore 0 fun x => { x with samples := [(3, ⟨1⟩), (0, ⟨2⟩)] }).coreAt 0).samples = [(3, ⟨1⟩)] ++ (0, ⟨2⟩) :: []
    ∧ unfetched (bench.fetchWord (at0 bench) 0) = none
    ∧ (let s := withBand fun b => { b with p := 0x8000000000000000 }
       unfetched (s.fetchWord (at0 s) (at0 s).band.p.toNat) = some 1)
    ∧ (let s := away 0
       unfetched (s.fetchWord (at0 s) 0) = some 5 ∧ (at0 s).codeIa 0 = some 0 ∧ s.serviced 0 = false)
    ∧ (let s := away 0x40
       unfetched (s.fetchWord (at0 s) 0) = some 0 ∧ (at0 s).codeIa 0 = some 0 ∧ s.serviced 0 = true ∧ s.served = []
       ∧ (at0 s).band.tl = false)
    ∧ (let s := { away 0x40 with served := [(0, false)] }
       unfetched (s.fetchWord (at0 s) 0) = some 5 ∧ s.serviced 0 = true ∧ (0 % 2 ^ 48 / 2 ^ 16, false) ∈ s.served)
    ∧ (bench.coreAt 0).window = none
    ∧ ((bench.modCore 0 fun x => { x with window := some 5 }).coreAt 0).window = some 5 ∧ 5 + 32 ≤ 37 ∧ 36 < 5 + 32 := by
  decide +kernel

/-- A task of PRIO 5 that only core 0 looks at, in deterministic mode. -/
def boundTask : Task := { waiting false 5 0 with id := 16 }
/-- Core 0 in that mode, whose slots are taken by a crew of PRIO 1 while that task has waited 100,000 cycles. -/
def crowded (tl : Bool) : State :=
  let s := (rich [boundTask]).modCtx 0 fun x => { x with detm := true }
  let t := s.modCore 0 fun x => { x with bands := (List.range 32).map fun i => (i, { probeBand with tl := tl, index := i }) }
  { t.modCrew 0 0 fun w => { w with task := { w.task with prio := 1 }, slots := List.range 32 } with cycle := 100000 }

/-- Preemption: a request, with the crew's bands at TL = 0 and at TL = 1; a task that the core can take at once. -/
theorem witness_requests :
    (∀ tl ∈ [false, true],
      (crowded tl).look 0 = [] ++ boundTask :: [] ∧ boundTask.since + 100000 ≤ (crowded tl).cycle
      ∧ ((List.range 256).all fun c => c == 0 || ((crowded tl).look c).isEmpty) = true ∧ (crowded tl).canAdmit 0 boundTask = false
      ∧ ((crowded tl).coreAt 0).crews.map (fun e => (e.1, e.2.gone, e.2.task.prio, e.2.pre)) = [(0, false, 1, none)]
      ∧ (crowded tl).wouldAdmit (at0 (crowded tl)).crew boundTask = true
      ∧ (crowded tl).crew? 0 0 = some (at0 (crowded tl)).crew ∧ (at0 (crowded tl)).crew.gang = [(0, 0)]
      ∧ (∀ e ∈ ((crowded tl).coreAt 0).bands, e.2.crew = 0 ∧ e.2.tl = tl))
    ∧ (let s := { rich [waiting false 5 0] with cycle := 100000 }
       s.canAdmit 0 (waiting false 5 0) = true) := by
  decide +kernel

/-- The bench for whose crew the scheduler has decided `p`, `n` cycles on. -/
def decided (p : PreAct) (n : Nat) (f : Band → Band) : State :=
  { (withBand f).modCrew 0 0 fun w => { w with pre := some p } with cycle := n }

/-- Preemption: a drain that has gone on for 2 × 2^4 instructions and one that has not; a held request, in time and past its window,
with a band at TL = 1 and at TL = 0; a save to be asked for again, and one that takes too long; a flush whose bands are idle and one
whose bands are not; a save that finds room and one that does not; one that is not ready. -/
theorem witness_preemption :
    (∀ e ∈ ([(.drain 4 7, 0), (.hold 5 true, 2 ^ 30 + 4), (.hold 5 false, 2 ^ 30 + 5), (.retry 9, 8), (.retry 9, 9), (.save 3, 2 ^ 31 + 4),
        (.save 3, 2 ^ 31 + 3), (.flush, 0)] : List (PreAct × Nat)),
      let s := decided e.1 e.2 fun b => { b with icnt := 39 }
      s.crew? 0 0 = some (at0 s).crew ∧ (at0 s).crew.pre = some e.1 ∧ (at0 s).crew.gang = [(0, 0)] ∧ (at0 s).crew.gone = false
      ∧ s.ctx? 0 = some (at0 s).ctx ∧ s.maxIcnt 0 0 = 39 ∧ s.cycle = e.2 ∧ ∀ b ∈ (s.coreAt 0).bands, b.2.tl = false)
    ∧ (decided (.drain 4 7) 0 fun b => { b with icnt := 38 }).maxIcnt 0 0 = 38
    ∧ (let s := decided .flush 0 id
       s.crewIdle 0 0 = true ∧ (∀ e ∈ (s.coreAt 0).bands, e.2.log = []))
    ∧ (let s := decided .flush 0 fun b => { b with log := [chipLoad 3] }
       s.crewIdle 0 0 = false ∧ (∀ e ∈ (s.coreAt 0).bands, e.2.log = [chipLoad 3]) ∧ (chipLoad 3).elems.all (fun d => !d.st.isFaulted && !d.st.isDone) = true)
    ∧ (let s := decided (.save 0) 0 id
       s.saveReady (0, 0, (at0 s).crew) = true ∧ (at0 s).ctx.saveUsed + (3 * 2 ^ 19 + 1 * 32 * 64) ≤ 65536 * 4096
       ∧ (s.band? 0 0).map (·.crew) = some 0 ∧ (at0 s).crew.slots = [0])
    ∧ (let s := (decided (.save 0) 0 id).modCtx 0 fun x => { x with csavesz := 24 }
       s.saveReady (0, 0, (at0 s).crew) = true ∧ (at0 s).ctx.saveUsed = 0 ∧ 3 * 2 ^ 19 + 1 * 32 * 64 > 65536 * 24 - 65536 * 1)
    ∧ (let s := ((decided (.save 0) 0 id).modCtx 0 fun x => { x with csavesz := 1 })
       65536 * (at0 s).ctx.csavesz.toNat < (at0 s).ctx.saveUsed + (3 * 2 ^ 19 + 1 * 32 * 64))
    ∧ (let s := decided (.save 0) 0 fun b => { b with log := [remoteStore] }
       s.saveReady (0, 0, (at0 s).crew) = false) := by
  decide +kernel

/-- The bench with its crew saved instead. -/
def savedCrew : Saved :=
  { id := 4, core := 0, crew := { probeCrew with pre := none, size := 4096 }, bands := [{ probeBand with permit := false }], priv := [],
    scr := List.replicate 16 7, poison := [], mx := none, gts := [], eng := [], mxq := [], clq := [], gang := 2 }
def stored (v : Saved) : State :=
  (bench.modCtx 0 fun x => { x with saved := [v] }).modCore 0 fun x => { x with bands := [], crews := [] }

/-- Preemption: a saved crew that may return, and one that finds no matrix unit. -/
theorem witness_restore :
    (stored savedCrew).ctx? 0 = some { probeCtx with saved := [savedCrew] }
    ∧ ({ probeCtx with saved := [savedCrew] } : Ctx).saved.find? (fun u => u.id == 4) = some savedCrew
    ∧ ([savedCrew].filter fun u => u.gang == savedCrew.gang) = [savedCrew]
    ∧ savedCrew.crew.gang = [(savedCrew.core, savedCrew.crew.serial)] ∧ savedCrew.bands.length = savedCrew.crew.slots.length
    ∧ savedCrew.crew.slots.Nodup ∧ probeCtx.held = false ∧ clusterOf savedCrew.core = clusterOf 5
    ∧ (stored savedCrew).canRestore 0 { probeCtx with saved := [savedCrew] } savedCrew = true
    ∧ (let v := { savedCrew with mx := some Matrix.reset }
       ((stored v).modCore 0 fun x => { x with mx := { x.mx with owner := some 3 } }).canRestore 0 { probeCtx with saved := [v] } v = false) := by
  decide +kernel

/-- `rich` with a small reserve, whose module is being replaced or not, and a task of PRIO 5 that asks for more energy than that. -/
def dear (tasks : List Task) (old : Bool) : State := (rich tasks).modCtx 0 fun x => { x with
  reserve := 2 ^ 40, modules := [(1, { kernelModule 1 1 11 with old := old })] }
def dearest : Task := { waiting false 5 0 with bytes := (record 1 1).set 13 15 }
/-- Core 3 with all its slots taken. -/
def fullThree (s : State) : State := s.modCore 3 fun x => { x with
  bands := (List.range 32).map fun i => (i, { probeBand with index := i }), crews := [(0, probeCrew)] }

/-- AdmissionAndBandChoice: a candidate, and what keeps it back: one of higher PRIO without energy, its module, its core; a gang in
deterministic mode that wraps past its cluster's last core, and one of whose cores is full; a saved crew that comes first. -/
theorem witness_choices :
    (let t := waiting false 0 0
     (dear [t] false).canAdmit 0 t = true ∧ (dear [t] true).canAdmit 0 t = false
     ∧ (dear [t, dearest] false).canAdmit 0 t = true
     ∧ ((dear [t] false).setQueue 0 4 ⟨some 0, [dearest]⟩).canAdmit 0 t = false
     ∧ (fullThree (dear [t] false)).canAdmit 3 t = false
     ∧ (rich [t]).roams t = true ∧ (rich [t]).boundTo 0 t = false ∧ (crowded false).boundTo 0 boundTask = true
     ∧ (crowded false).boundTo 1 boundTask = false ∧ ((rich [t]).clusterAt 0).queues.keys = [3]
     ∧ (t.launch (at0 (rich [])).ctx).map (·.units) = some 1)
    ∧ (let l : Launch := ⟨1, 2, 16, 64, 0, 16, false, false, false, 11⟩
       let x : Ctx := { probeCtx with detm := true }
       let s : State := { rich [] with cores := [] }
       (s.gangCores 0 { gangTask with id := 15 } x l).map (·.2) = some [15, 0]
       ∧ ((fullThree s).gangCores 0 { gangTask with id := 2 } x l).isNone = true
       ∧ ((fullThree s).gangCores 0 { gangTask with id := 2 } probeCtx l).isSome = true)
    ∧ (stored savedCrew).ctx? 0 = some { probeCtx with saved := [savedCrew] } ∧ savedCrew.crew.gang.length = 1
    ∧ (stored savedCrew).canRestore 0 { probeCtx with saved := [savedCrew] } savedCrew = true ∧ (stored savedCrew).look 0 = [] := by
  decide +kernel

/-- What an answered request gives. -/
def answered (o : Option (State × RemoteResult)) : Option RemoteResult := o.map (·.2)
/-- Whether the sources and the EPOCH are as they were. -/
def sourcesKept (s : State) (o : Option (State × RemoteResult)) : Bool :=
  o.any fun e => decide (e.1.fab.sources = s.fab.sources) && decide (e.1.fab.epoch = s.fab.epoch)

/-- RemoteRequests: at the target, numbers at both ends of the window and beyond it; requests that a window admits, at its last
word, and that none does; one whose line is pinned; a kept answer. -/
theorem witness_remote_requests :
    (let s := targeted bench
     let x := s.fab.source 4
     x = ⟨11, [12], [(10, .data []), (12, .data [])]⟩
     ∧ (let ahead : BitVec 16 → Nat := fun q => (q - x.la).toNat
        let behind : BitVec 16 → Nat := fun q => (x.la - q).toNat
        ahead 11 = 0 ∧ ahead 4106 = 4095 ∧ ahead 4107 = 4096 ∧ behind 10 = 1 ∧ behind 61451 = 4096 ∧ behind 61450 = 4097 ∧ 4096 ≤ ahead 61450)
     ∧ (11 : BitVec 16) ∉ x.accepted ∧ (∀ e ∈ x.answers, e.1 ≠ 11) ∧ x.answers.find? (fun e => e.1 == 12) = some (12, .data [])
     ∧ (∀ k ∈ [ReqKind.read, .write, .atomic, .cas], (answered (s.handle (remoteAsk 4 11 k 0xFFFC))).isSome = true
         ∧ sourcesKept s (s.handle (remoteAsk 4 11 k 0xFFFC)) = true
         ∧ (answered (s.serve (remoteAsk 4 11 k 0xFFFC))).isSome = true
         ∧ answered (s.handle (remoteAsk 4 11 k 0xFFFD)) = some (.refused 4) ∧ answered (s.handle (remoteAsk 6 11 k 0)) = some (.refused 4)))
    ∧ ((targeted (pinned 0)).handle (remoteAsk 4 11 .write 0x80)).isNone = true
    ∧ (remoteAsk 4 11 .read 0).whole = true ∧ (remoteAsk 4 11 .read 0).epoch = (targeted bench).fab.epoch ∧ bench.fab.epoch ≠ 6 := by
  decide +kernel
/-- RemoteRequests: what the windows say of those requests. -/
theorem witness_windows :
    (targeted bench).fab.Admits (remoteAsk 4 11 .cas 0xFFFC) 2 ∧ ∀ n, n < 32 → ¬(targeted bench).fab.Admits (remoteAsk 4 11 .read 0xFFFD) n := by
  unfold Fabric.Admits; decide +kernel

/-- A request of lane 7 of the band, numbered 9 at device 1, and the operation it belongs to. -/
def sentReq (kind : ReqKind) : Req :=
  ⟨1, 9, 0, 0, kind, 0x1000000000100, 4, [1, 2, 3, 4], [], 3, false, false, 0, .band 0 0 5 7, 0, false, false, none⟩
def sentElem : Elem := ⟨7, .ia 0x1000000000100, [1, 2, 3, 4], [], 0, 0, none, 5, [], .sent 1 9⟩
def asking (l : List Req) : State :=
  let s := logged [opOf 5 .load 4 [sentElem]]
  { s with fab := { s.fab with reqs := l, members := [(1, ⟨true, 0⟩)] }, cycle := 5400000 }

theorem awaits_asking : Awaits (asking [sentReq .read]) (sentReq .read) (at0 (asking [sentReq .read])) (opOf 5 .load 4 [sentElem]) sentElem := by
  constructor <;> decide +kernel
theorem quiet_asking (l : List Req) (h : ∀ r ∈ l, r.stalled = false) : (asking l).fab.Quiet := by
  have a : (asking []).fab.rehash = none ∧ (asking []).fab.early = [] ∧ (asking []).fab.live &&& ~~~(asking []).fab.up = 0 := by
    decide +kernel
  exact ⟨a.1, a.2.1, h, a.2.2⟩

/-- RemoteRequests, PlanesAndMembers: an access that waits for another device, at the cycle its timer ends; 4,096 requests to a
device. -/
theorem witness_awaits :
    (asking [sentReq .read]).fab.Quiet
    ∧ Awaits (asking [sentReq .read]) (sentReq .read) (at0 (asking [sentReq .read])) (opOf 5 .load 4 [sentElem]) sentElem
    ∧ (sentReq .read).sent + (asking []).fab.ftmo.toNat ≤ (asking []).cycle
    ∧ ({ asking [] with cycle := 5399999 } : State).cycle < (sentReq .read).sent + (asking []).fab.ftmo.toNat
    ∧ 4096 ≤ (((List.replicate 4096 (sentReq .read)).filter fun r => r.dst == 1).length)
    ∧ (asking []).fab.members.find 1 = some ⟨true, 0⟩ ∧ (asking []).fab.members.find 2 = none := by
  refine ⟨quiet_asking _ (by decide), awaits_asking, by decide +kernel, by decide +kernel, ?_, by decide +kernel, by decide +kernel⟩
  exact Nat.le_of_eq (by rw [List.filter_replicate_of_pos (by decide), List.length_replicate])

/-- The device with index `d`, of three members 1, 3 and 5, with a rehash under way or none. -/
def meshed (d : Nat) (r : Option Rehash) (rhacks : List (Nat × BitVec 16 × BitVec 8)) : State := { State.reset with
  domidx := BitVec.ofNat 8 d
  fab := { State.reset.fab with members := [(1, ⟨true, 0⟩), (3, ⟨true, 0⟩), (5, ⟨true, 0⟩)], rehash := r, rhacks := rhacks, up := 0xF7 } }
/-- The rehash of plane 3. -/
def plane3 (acked : Bool) : Rehash := ⟨1, 8, deadMap ((List.range 64).map (· % 8)) 8 0xF7, acked, 0⟩

/-- PlanesAndMembers: a member that is not the committer and one that is; links up and down; counters of resends; a rehash for
the last plane left, for one that others survive, and one that says nothing new; sets of RHACKs that are complete and not; a
committer that waits RHTMO cycles, and one cycle less. -/
theorem witness_planes :
    (meshed 3 none []).committer = 1 ∧ (meshed 1 none []).committer = 1 ∧ (meshed 1 none []).peers = [3, 5]
    ∧ (meshed 3 none []).fab.up.getLsbD 3 = false ∧ (meshed 3 none []).fab.up.getLsbD 2 = true ∧ (meshed 3 none []).fab.live.getLsbD 2 = true
    ∧ (({ (meshed 3 none []).fab with live := 0xFB } : Fabric).live.getLsbD 2 = false)
    ∧ (meshed 3 none []).fab.live &&& (meshed 3 none []).fab.up &&& ~~~(1#8 <<< 2) ≠ 0
    ∧ ((1 : BitVec 16) = (meshed 3 none []).fab.pgen + 1 ∧ (8 : BitVec 8) &&& (meshed 3 none []).fab.dead ≠ 8)
    ∧ (meshed 3 (some (plane3 false)) []).fab.rehash = some (plane3 false) ∧ (plane3 false).mask ||| 8 = 8
    ∧ (let s := meshed 1 (some (plane3 true)) [(1, 1, 8), (3, 1, 8)]
       s.committer = s.domidx.toNat ∧ (plane3 true).gen = s.fab.pgen + 1
       ∧ (∀ d, d ∈ s.liveMembers → (d, (1 : BitVec 16), (8 : BitVec 8)) ∈ (s.fab.rhacks.filter fun a => a.1 != 5) ++ [(5, 1, 8)])
       ∧ (∃ d, d ∈ s.liveMembers ∧ (d, (1 : BitVec 16), (8 : BitVec 8)) ∉ (s.fab.rhacks.filter fun a => a.1 != 3) ++ [(3, 1, 8)])
       ∧ (s.fab.live &&& ~~~(plane3 true).mask) &&& ~~~s.fab.up = 0
       ∧ (∀ q ∈ s.fab.reqs, q.stalled = false) ∧ s.fab.rhtmo.toNat = 27000000
       ∧ (5, (1 : BitVec 16), (8 : BitVec 8)) ∉ s.fab.rhacks ∧ 5 ∈ s.peers)
    ∧ ((15 : Nat) + 1 ≥ 16 ∧ (14 : Nat) + 1 < 16)
    ∧ (∀ i, i < 64 → ((List.range 64).map (· % 8)).getD i 0 < 8) := by
  decide +kernel

/-- PlanesAndMembers: a REHASH of the generation after next while one is under way; a mask that adds a plane to it; planes in DEAD that
a REHASH of the next generation names. -/
theorem witness_rehash :
    (let s := meshed 3 (some (plane3 false)) []
     s.fab.rehash ≠ none ∧ (2 : BitVec 16) = s.fab.pgen + 2 ∧ (0x10 : BitVec 8) ≠ 0 ∧ (plane3 false).mask ||| 0x10 ≠ (plane3 false).mask
     ∧ (0x10 : BitVec 8) &&& s.fab.live = 0x10 ∧ (0x10 : BitVec 8) &&& s.fab.dead = 0 ∧ (plane3 false).mask &&& s.fab.live = (plane3 false).mask
     ∧ (plane3 false).mask &&& s.fab.dead = 0 ∧ s.fab.live &&& s.fab.up &&& ~~~((plane3 false).mask ||| 0x10) ≠ 0
     ∧ s.committer ≠ s.domidx.toNat)
    ∧ (let f := { (meshed 3 none []).fab with live := 0xF7, dead := 8 }
       (8 : BitVec 8) &&& f.dead = 8 ∧ (8 : BitVec 8) &&& f.live = 0 ∧ f.rehash = none ∧ (1 : BitVec 16) = f.pgen + 1)
    ∧ (meshed 1 (some (plane3 true)) []).fab.Settles (plane3 true) := by
  unfold Fabric.Settles; decide +kernel

/-- A command of function `fn` for context `x`. -/
def asked (fn x : Nat) : HostCmd := ⟨fn, BitVec.ofNat 16 x, 0x55⟩
/-- `s` with command `code` for `c` at the head of its function's ring of 16 entries at 0x1000, whose completions go to 0x2000. -/
def ringed (s : State) (code : Nat) (c : HostCmd) : State := { s with
  fw := { s.fw with ready := true, job := none }
  fns := s.fns.put c.fn ⟨0x1000, 4, true, 4, 3, 0x2000, 4, true, 14, 15, false, false⟩
  hostMem := s.hostMem.write 1 (0x1000 + 64 * 3) (toBytes 2 code ++ toBytes 2 c.ctx.toNat ++ toBytes 4 c.tag.toNat) }

theorem heads_of {s : State} {code : Nat} {c : HostCmd}
    (a : (s.fw.ready && s.fw.job.isNone && decide (c.fn < 16) && decide (1 ≤ code ∧ code ≤ 16)
      && (s.hostMem.read ((s.fnAt c.fn).rbase.toNat + 64 * (s.fnAt c.fn).rhead.toNat) 8 ==
          toBytes 2 code ++ toBytes 2 c.ctx.toNat ++ toBytes 4 c.tag.toNat)) = true)
    (w : ∀ n, n < 16 → (s.RingWaits n ↔ n = c.fn)) : Heads s code c := by
  simp only [Bool.and_eq_true, Option.isNone_iff_eq_none, decide_eq_true_eq, beq_iff_eq] at a
  obtain ⟨⟨⟨⟨r, j⟩, f⟩, k⟩, e⟩ := a
  refine ⟨⟨r, j⟩, f, (w c.fn f).mpr rfl, fun n hn lt rw => ?_, e, k⟩
  obtain rfl := (w n hn).mp rw
  exact absurd lt (Nat.lt_irrefl _)

/-- The bench whose context belongs to function `fn`, damaged or not. -/
def owned (fn : Nat) (cerr : BitVec 7) : State := bench.modCtx 0 fun x => { x with fn := fn, cerr := cerr }

/-- HostAccessAndRegisters, HostContexts, HostModulesAndTasks, HostCopiesAndDevice: every command at the head of its ring, for a
context of its own, one of another function, a damaged one, and from a virtual function. -/
theorem witness_host_commands :
    (Heads (ringed (owned 0 0) 3 (asked 0 0)) 3 (asked 0 0) ∧ Names (ringed (owned 0 0) 3 (asked 0 0)) (asked 0 0) probeCtx)
    ∧ Heads (ringed (owned 1 0) 1 (asked 0 0)) 1 (asked 0 0) ∧ ((ringed (owned 1 0) 1 (asked 0 0)).ctx? 0).map (·.fn) = some 1
    ∧ Heads (ringed (owned 0 0x20) 16 (asked 0 0)) 16 (asked 0 0)
    ∧ ((ringed (owned 0 0x20) 16 (asked 0 0)).ctx? 0).map (fun x => x.cerr.getLsbD 5) = some true
    ∧ Heads (ringed (owned 15 0) 12 (asked 15 0)) 12 (asked 15 0) ∧ (asked 15 0).fn ≠ 0
    ∧ (ringed bench 9 (asked 0 7)).ctx? 7 = none :=
  ⟨⟨heads_of (by decide +kernel) (by unfold State.RingWaits; decide +kernel), by unfold Names; decide +kernel⟩, heads_of (by decide +kernel) (by unfold State.RingWaits; decide +kernel), by decide +kernel,
    heads_of (by decide +kernel) (by unfold State.RingWaits; decide +kernel), by decide +kernel, heads_of (by decide +kernel) (by unfold State.RingWaits; decide +kernel), by decide, by decide +kernel⟩

/-- HostAccessAndRegisters: rings enabled and not; indices at the limit of the ring; stages that boot may have; a clause array with
an owner, whose queue holds an accepted command or none. -/
theorem witness_host_registers :
    ((bench.fnAt 3).ren = false ∧ ((ringed bench 1 (asked 3 0)).fnAt 3).ren = true)
    ∧ (2 ^ (4 : BitVec 4).toNat ≤ (16 : BitVec 12).toNat ∧ (15 : BitVec 12).toNat < 2 ^ (4 : BitVec 4).toNat)
    ∧ (0x38 ∉ [0x00, 0x08, 0x10, 0x20, 0x28, 0x30]) ∧ bench.fw.ready = false ∧ bench.fw.measures.length = 8
    ∧ ((clBench [] (some 0)).clusterAt 0).clause.owner = some 0
    ∧ (∃ e ∈ ((clBench [clCmd 0xC8 0 0] (some 0)).clusterAt 0).clause.queue, e.accepted = true) := by
  decide +kernel

/-- HostAccessAndRegisters: of any stages, a first number of them verifies. -/
theorem witness_boot (l : List (List Byte)) : ∃ k, k ≤ l.length ∧ (∀ i, i < k → Config.stageVerifies (l.getD i []) = true)
    ∧ (k < l.length → Config.stageVerifies (l.getD k []) = false) := by
  induction l with
  | nil => exact ⟨0, by simp⟩
  | cons d t ih =>
    obtain ⟨k, a, b, c⟩ := ih
    cases h : Config.stageVerifies d
    · exact ⟨0, by simp, by simp, fun _ => h⟩
    · refine ⟨k + 1, by simpa using a, fun i hi => ?_, fun x => c (by simpa using x)⟩
      cases i with
      | zero => exact h
      | succ i => exact b i (by omega)

def openArgs (weight qmask chip : Nat) : OpenArgs := ⟨false, true, 0, chip, 4, 0, BitVec.ofNat 16 qmask, 1, weight, 100, 24⟩
/-- OPEN_CONTEXT may open a context, and firmware finds room for its save area. -/
theorem firmware_places (s : State) (h : s.ptes = []) (p : s.fw.nextPa = 0) :
    (s.fwRegion (2 ^ 16 * 24)).isSome = true := by
  have b : ∃ x, s.openRange (2 ^ 16 * 24) = some x := by
    unfold State.openRange State.leavesIn
    rw [h]
    exact ⟨_, rfl⟩
  obtain ⟨x, b⟩ := b
  have c : ∃ l, freePages (2 ^ 21) [] (2 ^ 39 / 2 ^ 21) (alignUp 0 (2 ^ 21)) (alignUp (2 ^ 16 * 24) (2 ^ 21) / 2 ^ 21) [] = some l :=
    Option.isSome_iff_exists.mp (by decide +kernel)
  obtain ⟨l, c⟩ := c
  have e : ({ s with fresh := s.fresh + 1 } : State).hbmUsed = [] := by unfold State.hbmUsed; rw [h]; rfl
  have d : (({ s with fresh := s.fresh + 1 } : State).takePages (2 ^ 21) (alignUp (2 ^ 16 * 24) (2 ^ 21) / 2 ^ 21)).isSome = true := by
    unfold State.takePages
    rw [e, p, c]
    rfl
  obtain ⟨r, d⟩ := Option.isSome_iff_exists.mp d
  unfold State.fwRegion
  rw [if_neg (by decide), b]
  dsimp only
  rw [d]
  rfl

/-- The reset device with a command at the head of a ring. -/
def idleHost (code : Nat) (c : HostCmd) : State := ringed State.reset code c

/-- HostContexts: OPEN_CONTEXT with arguments that are refused, resources that another context holds, and all it asks for; MAP of one
page of each size and kind, of a range that is mapped and of one that is not whole; UNMAP of the page. -/
theorem witness_contexts :
    Heads (idleHost 1 (asked 0 9)) 1 (asked 0 9)
    ∧ (State.fwRegion { (idleHost 1 (asked 0 9)).taken 0 with fresh := (idleHost 1 (asked 0 9)).fresh + 3 } (2 ^ 16 * 24)).isSome = true
    ∧ (State.fwRegion { (idleHost 1 (asked 0 9)).taken 0 with fresh := (idleHost 1 (asked 0 9)).fresh + 3 } (2 ^ 18 * 0)).isSome = true
    ∧ ((1 : Nat) ≤ (openArgs 255 1 0x1000).weight ∧ (openArgs 255 1 0x1000).weight ≤ 255 ∧ ¬(openArgs 256 1 0).weight ≤ 255)
    ∧ (idleHost 1 (asked 0 9)).ctx? 0 = none ∧ ((idleHost 1 (asked 0 9)).queueAt 0 0).owner = none
    ∧ ((bench.setQueue 0 3 ⟨some 0, []⟩).queueAt 0 3).owner ≠ none ∧ (openArgs 1 8 0).qmask.getLsbD 3 = true
    ∧ (0x10000 + 0 ≤ 0x3F00000 ∧ ∀ e ∈ (idleHost 1 (asked 0 9)).ctxs, (0x1000 ≤ e.2.chiplo.toNat))
    ∧ (bench.leavesIn 0x200000 0x200000 = [] ∧ bench.leavesIn 0 0x10000 ≠ [] ∧ bench.leavesIn 0x10000 0x10000 = [])
    ∧ (bench.takePages (2 ^ 16) 1).isSome = true ∧ (bench.takePages (2 ^ 21) 1).isSome = true
    ∧ (∀ e ∈ bench.leavesIn 0 0x10000, 0 ≤ e.2.1 ∧ e.2.1 + e.2.2 ≤ 0x10000)
    ∧ (outBand.crewsOf 0 ≠ [] ∧ (idleHost 2 (asked 0 0)).crewsOf 0 = [])
    ∧ (1 ≤ (16 : Nat) ∧ ¬(15 : Nat) ≥ 16) := by
  exact ⟨heads_of (by decide +kernel) (by unfold State.RingWaits; decide +kernel),
    firmware_places _ (by decide +kernel) (by decide +kernel), by decide +kernel⟩

/-- A file of one code section of one word. -/
def tinyFile : List Byte :=
  toBytes 4 0x31464F5A ++ toBytes 4 1 ++ toBytes 4 1 ++ toBytes 4 0 ++ toBytes 4 0 ++ toBytes 4 1 ++ toBytes 8 72 ++ toBytes 4 0
    ++ toBytes 4 0 ++ toBytes 4 0 ++ toBytes 4 0 ++ toBytes 8 104 ++ toBytes 8 0
    ++ toBytes 8 0 ++ toBytes 4 0 ++ toBytes 2 1 ++ toBytes 2 3 ++ toBytes 8 64 ++ toBytes 8 8 ++ toBytes 4 0 ++ toBytes 4 0

/-- A host that has put bytes at 0x8000, with a command at the head of its ring. -/
def handed (s : State) (d : List Byte) (code : Nat) : State :=
  ringed { s with hostMem := s.hostMem.write 1 0x8000 d } code (asked 0 0)

/-- HostModulesAndTasks: a file that keeps every rule and one that does not, handles that exist and that do not, a module that a crew runs
and one that none does; a record that SUBMIT may enter, one that it may not, a queue that is the context's and one that is not; a log of
one record. -/
theorem witness_modules_and_tasks :
    Heads (handed (rich []) (record 1 1) 8) 8 (asked 0 0)
    ∧ (parseZof ((handed bench tinyFile 7).hostMem.read 0x8000 104)).isSome = true
    ∧ (parseZof ((handed bench tinyFile 7).hostMem.read 0x8001 104)).isNone = true
    ∧ (parseZof tinyFile).map (fun z => (zSect z.sects 11).isNone) = some true
    ∧ (probeCtx.modules.find 1).isSome = true ∧ probeCtx.modules.find 2 = none
    ∧ (∃ e ∈ bench.crewsOf 0, e.2.2.task.mod = 1) ∧ (∀ e ∈ bench.crewsOf 0, e.2.2.task.mod ≠ 2)
    ∧ ((handed (rich []) (record 1 1) 8).queueAt 0 3).owner = some 0 ∧ ((handed (rich []) (record 1 1) 8).queueAt 0 4).owner = none
    ∧ ((0x103 : DWord).toNat % 16 = 3 ∧ (0x103 : DWord).toNat / 16 % 16 = 0 ∧ (0x103 : DWord).toNat / 2 ^ 8 = 1)
    ∧ ((rich []).checkRec (at0 (rich [])).ctx 0 ((handed (rich []) (record 1 1) 8).hostMem.read 0x8000 64)).isSome = true
    ∧ ((rich []).checkRec (at0 (rich [])).ctx 0 (List.replicate 64 0)).isNone = true := by
  exact ⟨heads_of (by decide +kernel) (by unfold State.RingWaits; decide +kernel), by decide +kernel⟩

/-- A job of a command, at a stage. -/
def working (s : State) (j : Job) : State := { s with fw := { s.fw with ready := true, job := some j } }
def ckptCmd : Instr := .checkpoint (asked 0 0) true 0 65536 0x10000 1
def ckptJob (part : List Byte) (woff cursor : Nat) : Job := { Job.at ckptCmd 2 0 with part := part, woff := woff, cursor := cursor }
/-- Whether firmware's read or write of a piece ends in this step. -/
def arrives : Moved → Bool
  | .ok _ _ => true
  | _ => false

/-- HostCopiesAndDevice: a CHECKPOINT whose crews are still resident and one whose have left; a granule not read yet and one to be
written, the last of the range; ranges that a crew's window meets, and one that none does; the pieces of RESTORE. -/
theorem witness_copies_of_images :
    (bench.crewsOf 0 ≠ [] ∧ (stored savedCrew).crewsOf 0 = [])
    ∧ (working bench (ckptJob [] 0 0)).fw.job = some (ckptJob [] 0 0) ∧ (ckptJob [] 0 0).cmd = ckptCmd ∧ (ckptJob [] 0 0).sent = none
    ∧ (ckptJob [] 0 0).failed = false ∧ (ckptJob [] 0 61440).cursor < 65536 ∧ 65536 ≤ (ckptJob [] 0 65536).cursor
    ∧ arrives ((working bench (ckptJob [] 0 0)).farRead 0 0 64 2 .fw) = true
    ∧ arrives ((working bench (ckptJob [] 0 0)).farWrite 0 0x8000 2 (List.replicate 64 0) false .fw) = true
    ∧ ((List.range 16).any fun k => (probeCtx.vwLo k).getLsbD 0 && decide (probeCtx.iabase k < 65536) && decide (0 < probeCtx.iabase k + probeCtx.vsize k)) = true
    ∧ ((List.range 16).all fun k => !((probeCtx.vwLo k).getLsbD 0 && decide (65536 < probeCtx.iabase k + probeCtx.vsize k))) = true
    ∧ (∃ e ∈ bench.crewsOf 0, e.2.2.gone = false)
    ∧ (let s := { bench with granules := [0] }
       (match s.walk 0 with | .leaf l => l.mt == 0 && s.granules.contains (l.pa / 4096) | .bad _ _ => false) = true) := by
  decide +kernel

/-- HostCopiesAndDevice: a budget at both of its ends and beyond, below and above the present one; the map's plane numbers; nonces of
32 bytes and of others; a return of a dead plane, and of one that lives. -/
theorem witness_device_commands :
    Heads (idleHost 12 (asked 0 0)) 12 (asked 0 0) ∧ Heads (idleHost 13 (asked 0 0)) 13 (asked 0 0)
    ∧ Heads (idleHost 14 (asked 9 0)) 14 (asked 9 0) ∧ Heads (idleHost 16 (asked 0 0)) 16 (asked 0 0)
    ∧ (idleHost 12 (asked 0 0)).budget = 2000 ∧ (∀ e, e < 64 → (idleHost 13 (asked 0 0)).fab.pmap.getD e 0 < 8)
    ∧ (idleHost 13 (asked 0 0)).fab.rehash = none ∧ (meshed 3 (some (plane3 false)) []).fab.rehash ≠ none
    ∧ (8 : BitVec 8) &&& { (meshed 3 none []).fab with dead := 8 }.dead = 8 ∧ (8 : BitVec 8) &&& (meshed 3 none []).fab.dead ≠ 8
    ∧ (List.replicate 32 (0 : Byte)).length = 32 ∧ ([] : List Byte).length ≠ 32
    ∧ (idleHost 16 (asked 0 0)).fab.members = [] ∧ (meshed 3 none []).fab.members ≠ [] :=
  ⟨heads_of (by decide +kernel) (by unfold State.RingWaits; decide +kernel), heads_of (by decide +kernel) (by unfold State.RingWaits; decide +kernel), heads_of (by decide +kernel) (by unfold State.RingWaits; decide +kernel), heads_of (by decide +kernel) (by unfold State.RingWaits; decide +kernel),
    by decide +kernel⟩

/-- DecodeWords, WordsRoundTrip: a word of each family that its fields and registers allow. -/
theorem witness_words :
    ∀ i ∈ ([.go (fc 1 0 0 0), .iadd (fv 4 2 3 0 0 0 4 4), .fadd (fv 4 2 3 0 0 0 8 2), .sadd (fs 4 1 2 0 false 0), .pset (fi 4 0 0 9),
        .ld (fm 2 1 0 1 2 0 0 0 0 0), .atom (fa 1 2 0 1 2 1 0 0 0 3 3), .cpyLin (fe 1 2 3 true 4 0), .bwait ⟨g0, 1, 6, 2, 7⟩,
        .mma (fx 7 8 6 0 1 0 false 0), .clvote (fx 7 10 6 0 0 0 false 12), .spawn (fc 1 0 4 0), .sysrd (fy 1 0 0 0), .hprio 0xF0,
        .idot4 0x00400001420300F8] : List Instr),
      isEvent i = false ∧ i ≠ .skip ∧ i.wf = true ∧ i.regsOk 16 = true := by
  decide +kernel

/-- The bench with the issue of its band as its next move, in deterministic mode or not. -/
def scheduled (detm : Bool) : State := { (bench.modCtx 0 fun x => { x with detm := detm }) with agenda := [.issue 0 0] }

/-- StepRunsDecoded, StepKeepsMemoryForm, StepKeepsStructure, WordsKeepContexts: a band about to issue the NOP at its P, in either
mode; the invariants hold of it; a step and a word that go on. -/
theorem witness_steps :
    (∀ detm ∈ [false, true],
      let s0 : State := { scheduled detm with agenda := [], cur := some (0, 0) }
      s0.hereAt 0 0 = some (at0 s0) ∧ (at0 s0).crew.issues = true ∧ (at0 s0).band.waitTo = none ∧ (at0 s0).band.park = none
      ∧ (at0 s0).band.running ≠ 0 ∧ (at0 s0).band.p.toNat < (at0 s0).codeSize ∧ fetched (s0.fetchWord (at0 s0) 0) = some (0, false)
      ∧ (at0 s0).band.log = [] ∧ (at0 s0).band.hwerr = [] ∧ (at0 s0).band.wdog = false ∧ (at0 s0).ctx.detm = detm
      ∧ s0.turn 0 (at0 s0).crew = some 0 ∧ (at0 s0).band.yld = false
      ∧ (useOf (decodeFor (at0 s0).crew.regs 0)).meets (s0.unitDest (at0 s0) (useOf (decodeFor (at0 s0).crew.regs 0)).all) = false)
    ∧ bench.wf = true ∧ bench.arraysTidy = true ∧ bench.gangsKnown = true
    ∧ isEvent (.nop (fc 0 0 0 0)) = false ∧ bench.here? = some (at0 bench) ∧ (at0 bench).ctx.sys = false := by
  decide +kernel

/-! ### One step of the other families -/

/-- The next state of an instruction, or the same state. -/
def next (i : Instr) (s : State) : State :=
  match exec i s with
  | .next t => t
  | _ => s
/-- What an instruction leaves of the band. -/
def bandAfter (i : Instr) (s : State) : Band := (at0 (next i s)).band

/-- 04_sweep.md R83, R86, R88, 13_tasks.md: lanes that GO want the label and P stays; a guarded GO leaves the others RUNNING; CALL pushes its
second label and RET returns to it; LBL merges; EXIT; YIELD. -/
theorem test_control :
    (let b := bandAfter (.go (fc 2 0 0 0)) labelled; (b.lane 9).st = .wanting ∧ (b.lane 9).want = 2 ∧ b.p = 0)
    ∧ (let b := bandAfter (.go ⟨⟨3, false⟩, 0, 0, 0, 0⟩) (labelled.modBand 0 0 fun b => b.setPred 3 (-1) 0xF)
       (b.lane 3).st = .wanting ∧ (b.lane 4).st = .running ∧ b.p = 8)
    ∧ (let b := bandAfter (.call (fc 0 2 0 0)) (stacked 1 [0]); (b.lane 0).want = 0 ∧ (b.lane 0).top = [2, 0] ∧ (b.lane 0).depth = 2)
    ∧ (let b := bandAfter (.ret (fc 0 0 0 0)) (stacked 1 [2]); (b.lane 0).want = 2 ∧ (b.lane 0).depth = 0)
    ∧ (let b := bandAfter (.lbl (fc 0 0 0 0)) (labelled.modBand 0 0 fun b => { b with lanes := b.lanes.set 9 ⟨.wanting, 0, 0, 0, 0, 0, []⟩ })
       (b.lane 9).st = .running ∧ b.p = 8)
    ∧ (bandAfter (.exit (fc 0 0 0 0)) bench).allExited = true
    ∧ (bandAfter (.yieldBand (fc 0 0 0 0)) bench).yld = true := by
  decide +kernel

/-- 04_sweep.md R97, 15_traps.md R351: a RET with an empty stack in lane 3 is CSTKEMPTY; without a handler it ends the band. -/
theorem test_control_fault :
    ((next (.ret (fc 0 0 0 0)) (uneven 0)).ctx? 0).map (fun x => x.log.map fun r => (r.group, r.status, r.detail))
      = some [(3, 2, 0xFFFF0306)] := by
  decide +kernel

/-- A word of memory as core 0 reads it. -/
def chipWord (s : State) (a : Nat) : Nat := ofBytes (s.chip.read a 4)

/-- 08_memory.md R188, R206 to R212: a load waits in the log and gives what it reads; a store and an atomic add on CHIP; the release of a line. -/
theorem test_memory :
    (bandAfter (.ld (fm 9 2 0 3 2 0 0 0 0 1)) bench).log.map (fun o => (o.kind, o.size, o.dst, o.elems.length)) = [(.load, 4, 9, 32)]
    ∧ (let s := { logged [opOf 5 .load 4 [elemOf0 7 (.chip 0x100) []]] with chip := bench.chip.write 8 0x100 [1, 2, 3, 4] }
       ((bandAfter (.memOpComplete 0 0 5 0x80) s).v32 7 9, (bandAfter (.memOpComplete 0 0 5 0x80) s).log) = (0x04030201, []))
    ∧ chipWord (next (.memOpComplete 0 0 5 0x80) (logged [single .store (.chip 0x100)])) 0x100 = 0x04030201
    ∧ (let s := { logged [single .atom (.chip 0x100)] with chip := bench.chip.write 8 0x100 [0xFF, 0, 0, 0] }
       let t := next (.memOpComplete 0 0 5 0x80) s
       (chipWord t 0x100 = 0x04030201 ∨ chipWord t 0x100 = 0x04030300 ∨ chipWord t 0x100 = 0xFF) ∧ (at0 t).band.v32 7 9 = 0xFF) := by
  decide +kernel

/-- 09_engines.md R223, R224, R244, R245: BINIT writes AINIT and APEND; the last arrival completes generation 15 into 0; one too many is
EXTRA (0x0F); BEXP counts up. -/
theorem test_barriers :
    ((at0 (next (.binit (fe 0 1 0 false 2 0)) (barred 3 0))).object (next (.binit (fe 0 1 0 false 2 0)) (barred 3 0)) 0x100) = ⟨0, 0, 3, 3, 0, 0, 0, 0⟩
    ∧ (⟨15, 0, 1, 2, 0, 0, 0, 0⟩ : Obj).arrive = (⟨0, 1, 2, 2, 0, 0, 0, 0⟩, true)
    ∧ (⟨3, 0, 0, 2, 1, 0, 0, 0⟩ : Obj).arrive = (⟨3, 2, 0, 2, 1, 0, 0x0F, 0⟩, false)
    ∧ (⟨3, 0, 0, 2, 16, 0, 0, 0⟩ : Obj).count 16 0 = (⟨4, 1, 2, 2, 0, 0, 0, 0⟩, true) := by
  decide +kernel

/-- 15_traps.md R347, R357 to R359: TRAP enters the handler behind the word, with its cause and code, and holds a permit; at TL = 1 it ends the
band with a double fault; SYSRD of DEVID and of TL; SYSWR of FEN; TRAPF without a flag. -/
theorem test_traps :
    (let s := (trapping false 0x00010001 0 0).modCrew 0 0 fun w => { w with regs := 8 }
     let t := next (.trap (fy 0 0 0 0x123)) s
     let b := (at0 t).band
     b.tl = true ∧ b.cause = 13 ∧ b.detail = 0x123 ∧ b.permit = true ∧ b.p = -8 ∧ (b.lane 0).want = 1)
    ∧ (bandAfter (.trap (fy 0 0 0 0x123)) (trapping true 0x00010001 0 0)).killed = true
    := by
  decide +kernel
theorem test_system :
    (bandAfter (.sysrd (fy 4 0 0 0)) bench).sreg 4 = 0x10009400200
    ∧ (bandAfter (.sysrd (fy 4 0x012 0 0)) (trapping true 0x00010001 0 0)).sreg 4 = 1
    ∧ (bandAfter (.syswr (fy 4 0x017 0 0)) (withBand fun b => b.setS 4 0xFFF)).fen = 0x1FF
    ∧ (bandAfter (.trapf (fy 0 0 0 0)) bench).p = 8 := by
  decide +kernel

/-- 07_numbers.md R156, R159: the worked contributions, under the anchors 0 and −2. -/
theorem test_accumulator :
    ([(3, 2), (13, -2), (10, -2), (-6, -2)].foldl (fun (a : Acc) (e : Int × Int) => a.add e.1 e.2) (Acc.zero 0)) = ⟨15, 0, true⟩
    ∧ ([(3, 2), (13, -2), (10, -2), (-6, -2)].foldl (fun (a : Acc) (e : Int × Int) => a.add e.1 e.2) (Acc.zero (-2))) = ⟨65, -2, false⟩ := by
  decide +kernel

/-- 09_engines.md R240: eight F16 elements of which five are zeros. -/
theorem test_compress :
    compress 2 true ([0x3C00, 0x8000, 0, 0xC000, 0, 0, 0, 0x0001].flatMap (toBytes 2))
      = toBytes 4 0x89 ++ [0x3C00, 0xC000, 0x0001, 0x0000].flatMap (toBytes 2)
    ∧ expand 2 8 0x89 ([0x3C00, 0xC000, 0x0001].flatMap (toBytes 2)) = [0x3C00, 0, 0, 0xC000, 0, 0, 0, 0x0001].flatMap (toBytes 2) := by
  decide +kernel

/-- 12_clause.md R286, 13_tasks.md R301: the table of draws; Mix of 0 and of 1. -/
theorem test_mixing :
    draw16 0 0 0 0 = 0 ∧ draw16 0 0 0 1 = 0x90C0 ∧ draw16 1 0 0 0 = 0x90C0 ∧ mix 0 = 0 ∧ mix 1 = 0x161D100B05E5 := by
  decide +kernel

/-- 15_traps.md R375, 20_host.md R414: the crew of the example drains; two contexts of WEIGHT 1 and 3 at 1,600 W refill 400 and 1,200 µJ in a
microsecond. -/
theorem test_scheduler :
    (let d : List Byte := List.replicate 16 0 ++ toBytes 4 1000000 ++ List.replicate 44 0
     let s := (withBand fun b => { b with icnt := 980000 }).modCrew 0 0 fun w => { w with task := { w.task with prio := 2, bytes := d } }
     s.remaining 0 0 (at0 s).crew = 20000 ∧ ((s.preempt 0 0).crew? 0 0).map (·.pre) = some (some (.drain 16 980000)))
    ∧ (let s : State := { State.reset with budget := 1600, ctxs := [(0, { probeCtx with cap := 9999 }), (1, { probeCtx with cap := 9999, weight := 3 })] }
       (s.refill 2700).ctxs.map (fun e => e.2.reserve) = [400 * 2 ^ 32, 1200 * 2 ^ 32]) := by
  decide +kernel

/-- 11_matrix.md R249 to R262: the load of `loadCmd` fills the cells of row 0; a product of one row and column then adds to its element. -/
theorem test_matrix :
    ((next (.mxComplete 0) (mxBench [loadCmd] (some 0) 0)).coreAt 0).mx.queue = []
    ∧ ((next (.mxComplete 0) (mxBench [mmaCmd] (some 0) 2)).coreAt 0).mx.queue = [] := by
  decide +kernel

/-- 15_traps.md R359: the first fields of a frame: P, the word, CAUSE, DETAIL, SCNT and the handler lanes. -/
theorem test_frame :
    ((frameBytes { probeBand with p := 0x48, scnt := 7 } 8 0x1122334455667788 13 0x123 0xF0).take 0x30)
      = toBytes 8 0x48 ++ toBytes 8 0x1122334455667788 ++ toBytes 8 13 ++ toBytes 12 0x123 ++ toBytes 4 7 ++ toBytes 8 0xF0 := by
  decide +kernel

/-- 20_host.md R405: an uncorrectable error that strikes what no context has is signalled on vector 3, one inside a context is not. -/
theorem test_astray :
    (bench.upset (.chip 0x20000)).out = bench.out ++ [.msix 0 3] ∧ (bench.upset (.chip 0x100)).out = bench.out
    ∧ (bench.upset (.hbm 0)).out = bench.out := by
  decide +kernel

end Sys2Proof.Tests
end

section
/-! SUPPORT. The statements of 02_formats.md: the codec, the labels, and the trap words and hints, with the laws of the
state that they rest on. -/

/-! ### The codec (02_formats.md R30, R31, R37, R43) -/

namespace Sys2Proof.Laws.Encodes

open Sys2Proof Sys2Proof.Machine

/-- The laws of the single instructions together; an event has no word. -/
theorem decode_encode (i : Instr) : Statement i := by
  cases i with
  | nop f => exact nop f | lbl f => exact lbl f | go f => exact go f | goi f => exact goi f | call f => exact call f
  | calli f => exact calli f | ret f => exact ret f | exit f => exact exit f | yieldBand f => exact yieldBand f
  | lblid f => exact lblid f | swcnt f => exact swcnt f | cens f => exact cens f | iadd f => exact iadd f
  | isub f => exact isub f | imul f => exact imul f | imulh f => exact imulh f | imad f => exact imad f
  | imadw f => exact imadw f | imin f => exact imin f | imax f => exact imax f | iabs f => exact iabs f
  | ineg f => exact ineg f | iaddc f => exact iaddc f | icmp f => exact icmp f | isel f => exact isel f
  | lea f => exact lea f | isad f => exact isad f | mov f => exact mov f | vand f => exact vand f
  | vor f => exact vor f | vxor f => exact vxor f | vnot f => exact vnot f | shl f => exact shl f
  | shr f => exact shr f | sar f => exact sar f | rot f => exact rot f | bfe f => exact bfe f | bfi f => exact bfi f
  | popc f => exact popc f | clz f => exact clz f | brev f => exact brev f | prmb f => exact prmb f
  | movi f => exact movi f | iaddi f => exact iaddi f | fadd f => exact fadd f | fmul f => exact fmul f
  | ffma f => exact ffma f | fmin f => exact fmin f | fmax f => exact fmax f | fcmp f => exact fcmp f
  | fsfu f => exact fsfu f | frnd f => exact frnd f | fclass f => exact fclass f | fdiv f => exact fdiv f
  | cvt f => exact cvt f | qnt f => exact qnt f | dqnt f => exact dqnt f | amax f => exact amax f
  | pkt5 f => exact pkt5 f | upkt5 f => exact upkt5 f | shfl f => exact shfl f | scan f => exact scan f
  | rdc f => exact rdc f | cmpct f => exact cmpct f | vote f => exact vote f | sadd f => exact sadd f
  | ssub f => exact ssub f | smul f => exact smul f | sand f => exact sand f | sor f => exact sor f
  | sxor f => exact sxor f | sshl f => exact sshl f | sshr f => exact sshr f | smov f => exact smov f
  | scmp f => exact scmp f | ssel f => exact ssel f | srdl f => exact srdl f | smin f => exact smin f
  | smax f => exact smax f | smovi f => exact smovi f | smovh f => exact smovh f | plop f => exact plop f
  | pset f => exact pset f | ptov f => exact ptov f | vtop f => exact vtop f | pcnt f => exact pcnt f
  | sprd f => exact sprd f | ld f => exact ld f | st f => exact st f | lds f => exact lds f | sts f => exact sts f
  | pref f => exact pref f | cctl f => exact cctl f | fence f => exact fence f | fencex f => exact fencex f
  | waitc f => exact waitc f | ldtr f => exact ldtr f | atom f => exact atom f | acas f => exact acas f
  | atoms f => exact atoms f | red f => exact red f | cpyLin f => exact cpyLin f | cpy2d f => exact cpy2d f
  | cpyRowg f => exact cpyRowg f | cpyRows f => exact cpyRows f | cpyMrow f => exact cpyMrow f
  | cpyFill f => exact cpyFill f | cpyZc f => exact cpyZc f | cpyZd f => exact cpyZd f | collAr f => exact collAr f
  | collRs f => exact collRs f | collAg f => exact collAg f | collBc f => exact collBc f | ckpt f => exact ckpt f
  | binit f => exact binit f | barv f => exact barv f | bwait f => exact bwait f | bexp f => exact bexp f
  | btest f => exact btest f | mldb f => exact mldb f | mbank f => exact mbank f | mma f => exact mma f
  | mmag f => exact mmag f | macz f => exact macz f | macr f => exact macr f | macv f => exact macv f
  | clcfg f => exact clcfg f | clld f => exact clld f | clst f => exact clst f | clinf f => exact clinf f
  | clvote f => exact clvote f | clfb f => exact clfb f | cltab f => exact cltab f | clseed f => exact clseed f
  | clfnc f => exact clfnc f | clcnt f => exact clcnt f | spawn f => exact spawn f | tqenq f => exact tqenq f
  | tqdeq f => exact tqdeq f | dcinit f => exact dcinit f | dcdec f => exact dcdec f | dcadd f => exact dcadd f
  | binfl f => exact binfl f | targ f => exact targ f | tid f => exact tid f | prog f => exact prog f
  | trapf f => exact trapf f | trap f => exact trap f | rte f => exact rte f | sysrd f => exact sysrd f
  | syswr f => exact syswr f | flagc f => exact flagc f | bkill f => exact bkill f | hprio w => exact hprio w
  | hreuse w => exact hreuse w | hintNop w => exact hintNop w | idot4 w => exact idot4 w
  | emulateTrap w => exact emulateTrap w | illenc w => exact illenc w
  | skip => exact skip
  | _ => exact fun h => nomatch h

end Sys2Proof.Laws.Encodes

namespace Sys2Proof

open Sys2Proof.Machine

theorem checks_of_decode {w : DWord} {i : Instr} (h : decode w = .ok i) :
    rawInstr w = some i ∧ encode i = w ∧ i.wf = true := by
  unfold decode at h
  cases raw : rawInstr w with
  | none => simp [raw] at h
  | some j =>
    simp only [raw] at h
    split at h
    · rename_i word
      split at h
      · rename_i wf
        cases h
        exact ⟨rfl, word, wf⟩
      · cases h
    · cases h

theorem encode_of_isEvent {i : Instr} (h : isEvent i = true) : encode i = 0 := by
  cases i <;> cases h <;> rfl

/-- No event is read from a word: an event's word is 0, and 0 is a NOP. -/
theorem not_isEvent_of_rawInstr {w : DWord} {i : Instr} (raw : rawInstr w = some i) (word : encode i = w) :
    isEvent i = false := by
  cases ev : isEvent i with
  | false => rfl
  | true =>
    obtain rfl : w = 0 := word.symm.trans (encode_of_isEvent ev)
    cases raw
    cases ev

theorem decodeFor_of_decode {n : Nat} {w : DWord} {i : Instr} (h : decode w = .ok i) :
    decodeFor n w = if i.regsOk n then i else .illenc w := by
  simp [decodeFor, h]

theorem decodeTableWord_of_decode {w : DWord} {i : Instr} (h : decode w = .ok i) :
    decodeTableWord 64 w.toNat = some i := by
  have same : BitVec.ofNat 64 (w.toNat % 2 ^ 64) = w := by
    rw [Nat.mod_eq_of_lt w.isLt, BitVec.ofNat_toNat, BitVec.setWidth_eq]
  simp only [decodeTableWord, same, h]

/-- A band finds in a word the instruction that it decodes to, when its registers exist, or the illegal encoding. -/
theorem decodeFor_cases (n : Nat) (w : DWord) :
    (∃ i, decodeFor n w = i ∧ decode w = .ok i ∧ i.regsOk n = true) ∨ decodeFor n w = .illenc w := by
  cases hd : decode w with
  | error e => exact .inr (by simp [decodeFor, hd])
  | ok i =>
    by_cases regs : i.regsOk n = true
    · exact .inl ⟨i, (decodeFor_of_decode hd).trans (if_pos regs), rfl, regs⟩
    · exact .inr ((decodeFor_of_decode hd).trans (if_neg regs))

/-- Settles O54: the words are closed, so the decoder is evaluated on each. -/
theorem decodeWords : Obligations.DecodeWords := by
  unfold Obligations.DecodeWords
  decide

/-- Settles O55, from the round trip of every constructor and the three checks that a decoded word has passed. -/
theorem wordsRoundTrip : Obligations.WordsRoundTrip := by
  refine ⟨fun i n ev sk ill wf regs => ?_, fun w i h => ?_, decodeFor_cases⟩
  · have back : decode (encode i) = .ok i := Laws.Encodes.decode_encode i ev sk ill wf
    exact ⟨(decodeFor_of_decode back).trans (if_pos regs), decodeTableWord_of_decode back⟩
  · obtain ⟨raw, word, wf⟩ := checks_of_decode h
    exact ⟨word, wf, not_isEvent_of_rawInstr raw word⟩

end Sys2Proof

namespace Sys2Proof.Machine

open Sys2Proof

/-! ### The band put back, and what stands beside it -/

theorem Beside.refl {s : State} {h : Here} (e : s.here? = some h) : Beside h s s := by
  obtain ⟨-, -, hw, hx⟩ := State.here?_some e
  exact Beside.intro' rfl (fun _ _ => rfl) rfl rfl (fun _ _ => rfl) (fun _ _ => rfl) hw rfl (fun _ _ => rfl) hx rfl

theorem State.modCore_samples_self (s : State) (c k : Nat) (b : Band) :
    ((s.setBand c k b).modCore c fun x => { x with samples := (s.coreAt c).samples }) = s.setBand c k b := by
  simp [State.modCore, State.setCore, State.setBand, State.coreAt, Tab.put_put]

theorem Beside.put {s t : State} {h : Here} (bs : Beside h s t) (b : Band) : Beside h s (h.put t b) := by
  have := bs.touch b (t.coreAt h.core).samples
  rwa [State.modCore_samples_self] at this

/-! ### Lanes -/

theorem Band.lane_mapLanes (b : Band) (f : Nat → Lane → Lane) {l : Nat} (hl : l < 32) :
    (b.mapLanes f).lane l = f l (b.lane l) := by
  simp [Band.mapLanes, Band.lane, laneIds, List.getD, hl]

theorem Band.lane_merge (b : Band) (x : BitVec 16) {l : Nat} (hl : l < 32) :
    (b.merge x).lane l = if (b.lane l).st = .wanting ∧ (b.lane l).want = x ∧ b.active l = true
      then { b.lane l with st := .running } else b.lane l :=
  b.lane_mapLanes _ hl

theorem Band.getLsbD_wantingOf (b : Band) (x : BitVec 16) {l : Nat} (hl : l < 32) :
    (b.wantingOf x).getLsbD l = true ↔ (b.lane l).st = .wanting ∧ (b.lane l).want = x ∧ b.active l = true := by
  rw [Band.wantingOf, getLsbD_maskOf]
  simp [hl, and_assoc]

/-! ### Words that retire or trap -/

/-- A band with a RUNNING lane goes on to the next word. -/
theorem Band.advance_of_running {b : Band} (hb : b.running ≠ 0) : b.advance = b.stepped := by
  unfold Band.advance
  rw [if_neg hb]
  rfl

/-- A word that retires with its band as it was. -/
theorem Runs.of_retire {s : State} {h : Here} {i : Instr} (r : Ready s h)
    (run : exec i s = .next (h.retire s h.band)) :
    Runs i s h [] [] [] (KeepsFlags h) := by
  obtain ⟨bs, hb⟩ := Here.retire_law r.here h.band
  rw [Band.advance_of_running r.running] at hb
  exact ⟨_, _, run, bs, hb, ⟨fun _ _ _ => rfl, fun _ _ => rfl, fun _ _ => rfl, rfl⟩, rfl, ⟨rfl, rfl, rfl⟩, rfl⟩

theorem State.bandOp_leads {s : State} {h : Here} (r : Ready s h) {g : Guard} (hg : h.band.leads g = true)
    (f : Here → State) : s.bandOp g f = .next (f h) := by
  simp [State.bandOp, State.onBand_next r.here, hg]

theorem State.bandOp_idle {s : State} {h : Here} (r : Ready s h) {g : Guard} (hg : h.band.leads g = false)
    (f : Here → State) : s.bandOp g f = .next (h.retire s h.band) := by
  simp [State.bandOp, State.onBand_next r.here, hg]

/-! ### The conditions of a trap -/

theorem Here.handlerLabel_eq (h : Here) (group : Nat) : h.handlerLabel group =
    (h.label (h.vector group)).bind fun e => if e.attr = 2 then some (h.vector group) else none := by
  unfold Here.handlerLabel Here.vector
  dsimp only
  cases h.label _ <;> rfl

theorem Here.handlerLabel_of_hasHandler {h : Here} {group : Nat} (hh : h.hasHandler group) :
    h.handlerLabel group = some (h.vector group) := by
  obtain ⟨e, he, ha⟩ := hh
  simp [Here.handlerLabel_eq, he, ha]

theorem Here.handlerLabel_of_not_hasHandler {h : Here} {group : Nat} (hh : ¬h.hasHandler group) :
    h.handlerLabel group = none := by
  rw [Here.handlerLabel_eq]
  exact Option.bind_eq_none_iff.2 fun e he => if_neg fun ha => hh ⟨e, he, ha⟩

theorem Here.frameOk_iff (h : Here) : h.frameOk = true ↔ h.hasFrame := by
  rw [Here.frameOk, Crew.holds, Bool.and_eq_true, bne_iff_ne, decide_eq_true_iff, frameSize, ← Nat.add_assoc]
  rfl

theorem State.permitFree_iff (s : State) (h : Here) : (s.coreAt h.core).permitFree = true ↔ s.hasPermit h := by
  simp [Core.permitFree, State.hasPermit]

/-! ### TL of a band -/

/-- TL of the band in slot `k` of core `c`. -/
def State.tlAt (s : State) (c k : Nat) : Option Bool := (s.band? c k).map (·.tl)

theorem State.tlAt_of_hereAt {s : State} {c k : Nat} {h : Here} (e : s.hereAt c k = some h) :
    s.tlAt c k = some h.band.tl := by
  unfold State.hereAt at e
  split at e
  · cases e
  · split at e
    · cases e
    · split at e
      · cases e
      · cases e
        simp [State.tlAt, *]

@[simp] theorem State.tlAt_setBand (s : State) (c k : Nat) (b : Band) : (s.setBand c k b).tlAt c k = some b.tl := by
  simp [State.tlAt]

theorem State.tlAt_modBand (s : State) (c j k : Nat) {f : Band → Band} (hf : ∀ b, (f b).tl = b.tl) :
    (s.modBand c j f).tlAt c k = s.tlAt c k := by
  unfold State.modBand
  split
  · rename_i b hb
    by_cases hk : k = j
    · subst hk
      simp [State.tlAt, hb, hf]
    · simp [State.tlAt, State.band?_setBand_ne _ _ hk]
  · rfl

@[simp] theorem State.tlAt_setCrew (s : State) (c n : Nat) (w : Crew) (k : Nat) :
    (s.setCrew c n w).tlAt c k = s.tlAt c k := by
  simp [State.tlAt]

@[simp] theorem State.tlAt_modCrew (s : State) (c n : Nat) (f : Crew → Crew) (k : Nat) :
    (s.modCrew c n f).tlAt c k = s.tlAt c k := by
  unfold State.modCrew
  split
  · exact State.tlAt_setCrew ..
  · rfl

@[simp] theorem State.tlAt_scrWrite (s : State) (c : Nat) (w : Crew) (o : Nat) (d : List Byte) (k : Nat) :
    (s.scrWrite c w o d).tlAt c k = s.tlAt c k := by
  simp [State.tlAt, State.band?, State.scrWrite]

@[simp] theorem Band.tl_setPred (b : Band) (n : Nat) (m v : LaneMask) : (b.setPred n m v).tl = b.tl := by
  unfold Band.setPred
  split <;> rfl

@[simp] theorem Band.tl_wake (b : Band) (l : Nat) (err : Bool) : (b.wake l err).tl = b.tl := Band.tl_setPred ..

@[simp] theorem Band.tl_release (b : Band) (o : Nat) (x : Obj) (all : Bool) (now : Nat) :
    (b.release o x all now).tl = b.tl := by
  refine List.foldlRecOn laneIds _ (motive := fun a : Band => a.tl = b.tl) rfl fun a ha l _ => ?_
  split
  · exact (a.tl_wake ..).trans ha
  · exact ha

@[simp] theorem State.tlAt_objWrite (s : State) (c n : Nat) (w : Crew) (o : Nat) (x : Obj) (all : Bool) (k : Nat) :
    (s.objWrite c n w o x all).tlAt c k = s.tlAt c k := by
  refine List.foldlRecOn w.slots _ (motive := fun t : State => t.tlAt c k = s.tlAt c k) ?_ fun t ht j _ => ?_
  · split <;> simp
  · rw [State.tlAt_modBand t c j k fun b => by split <;> simp, ht]

@[simp] theorem State.tlAt_objEvent (s : State) (c n o : Nat) (f : Obj → Obj × Bool) (k : Nat) :
    (s.objEvent c n o f).tlAt c k = s.tlAt c k := by
  unfold State.objEvent
  split
  · rfl
  · exact State.tlAt_objWrite ..

@[simp] theorem State.tlAt_logRec (s : State) (x : Nat) (r : LogRec) (c k : Nat) :
    (s.logRec x r).tlAt c k = s.tlAt c k := by
  unfold State.logRec
  split <;> rfl

@[simp] theorem State.tlAt_setCerr (s : State) (x bit c k : Nat) : (s.setCerr x bit).tlAt c k = s.tlAt c k := by
  simp [State.setCerr, State.tlAt, State.band?]

@[simp] theorem State.tlAt_endBand (s : State) (h : Here) (k : Nat) : (s.endBand h).tlAt h.core k = s.tlAt h.core k :=
  List.foldlRecOn _ _ (motive := fun t : State => t.tlAt h.core k = s.tlAt h.core k)
    (s.tlAt_modBand _ _ _ fun _ => rfl) fun _ ht _ _ => (State.tlAt_objEvent ..).trans ht

@[simp] theorem State.tlAt_kill (s : State) (h : Here) (status group : Nat) (detail : BitVec 96) (k : Nat) :
    (s.kill h status group detail).tlAt h.core k = s.tlAt h.core k := by
  simp [State.kill]

/-! ### The outcomes of a trap -/

section
variable {s : State} {h : Here} {group : Nat}

theorem State.trap_enters (tl : h.band.tl = false) (hh : h.hasHandler group) (hf : h.hasFrame) (hp : s.hasPermit h)
    (b : Band) (detail : BitVec 96) (lanes : LaneMask) :
    s.trap h b group detail lanes = s.enter h b group detail lanes (h.vector group) := by
  simp [State.trap, tl, Here.handlerLabel_of_hasHandler hh, h.frameOk_iff.2 hf, (s.permitFree_iff h).2 hp]

/-- A trap that does not enter its handler leaves TL as it was. -/
theorem State.tlAt_trap (hb : s.band? h.core h.slot = some h.band)
    (no : ¬(h.band.tl = false ∧ h.hasHandler group ∧ h.hasFrame ∧ s.hasPermit h))
    (b : Band) (detail : BitVec 96) (lanes : LaneMask) :
    (s.trap h b group detail lanes).tlAt h.core h.slot = some h.band.tl := by
  have killed : ∀ status, (s.kill { h with band := b } status group detail).tlAt h.core h.slot = some h.band.tl :=
    fun status => (s.tlAt_kill { h with band := b } status group detail h.slot).trans (by simp [State.tlAt, hb])
  unfold State.trap
  split
  · exact killed 3
  · rename_i tl
    by_cases hh : h.hasHandler group
    · rw [Here.handlerLabel_of_hasHandler hh]
      by_cases hf : h.hasFrame
      · have hp : ¬(s.coreAt h.core).permitFree = true := fun hp =>
          no ⟨by simpa using tl, hh, hf, (s.permitFree_iff h).1 hp⟩
        simp [h.frameOk_iff.2 hf, hp, State.backOff, Here.put]
      · have bad : h.frameOk = false := by simpa using mt h.frameOk_iff.1 hf
        simpa only [bad, Bool.not_false, if_true] using killed 2
    · rw [Here.handlerLabel_of_not_hasHandler hh]
      exact killed 2

end

theorem State.hereAt_of {s : State} {c k : Nat} {b : Band} {w : Crew} {x : Ctx} (hb : s.band? c k = some b)
    (hw : s.crew? c b.crew = some w) (hx : s.ctx? w.task.ctx = some x) : s.hereAt c k = some ⟨c, k, b, w, x⟩ := by
  simp [State.hereAt, hb, hw, hx]

/-- The band that has entered its handler is in its slot, at TL = 1. -/
theorem State.hereAt_enter {s : State} {h : Here} (e : s.here? = some h) {b : Band} (hc : b.crew = h.band.crew)
    (group : Nat) (detail : BitVec 96) (lanes : LaneMask) (label : BitVec 16) :
    ∃ h1, (s.enter h b group detail lanes label).hereAt h.core h.slot = some h1 ∧ h1.band.tl = true := by
  obtain ⟨-, -, hw, hx⟩ := State.here?_some e
  refine ⟨_, State.hereAt_of (State.band?_setBand ..) (w := h.crew) (x := h.ctx) ?_ hx, rfl⟩
  simpa [State.enter, Here.put, State.scrWrite, State.crew?, Band.mapMask, Band.mapLanes, hc] using hw

/-- A trap-after event retires its word once its handler is entered, and else does not. -/
theorem Here.trapAfter_law {s : State} {h : Here} (r : Ready s h) (group : Nat) (detail : BitVec 96) :
    let entered := h.band.tl = false ∧ h.hasHandler group ∧ h.hasFrame ∧ s.hasPermit h
    let t := s.trap h h.band.stepped group detail h.band.running
    (entered → h.trapAfter s group detail = t.retired h) ∧ (¬entered → h.trapAfter s group detail = t) := by
  unfold Here.trapAfter
  simp only [Band.advance_of_running r.running]
  refine ⟨fun ⟨tl, hh, hf, hp⟩ => ?_, fun no => ?_⟩
  · rw [State.trap_enters tl hh hf hp]
    obtain ⟨h1, here1, tl1⟩ :=
      State.hereAt_enter r.here (b := h.band.stepped) rfl group detail h.band.running (h.vector group)
    simp [here1, tl1, tl]
  · obtain ⟨-, hb, -, -⟩ := State.here?_some r.here
    have htl := State.tlAt_trap hb no h.band.stepped detail h.band.running
    split
    · rename_i h1 here1
      rw [State.tlAt_of_hereAt here1] at htl
      simp [Option.some.inj htl]
    · rfl

/-- A word whose effect is a trap-after event. -/
theorem TrapsAfter.of_trapAfter {s : State} {h : Here} {i : Instr} (r : Ready s h) {group : Nat} {detail : BitVec 96}
    (run : exec i s = .next (h.trapAfter s group detail)) : TrapsAfter i s h group detail := by
  obtain ⟨enters, stays⟩ := Here.trapAfter_law r group detail
  exact ⟨fun c => run.trans (congrArg _ (enters c)), fun c => run.trans (congrArg _ (stays c))⟩

/-! ### The hints on L1 lines -/

/-- A line that HREUSE names: CP 0 asks to keep it, CP 1 to evict it first (02_formats.md R46). -/
def L1Line.hinted (cp : BitVec 2) (e : L1Line) : L1Line :=
  if cp = 0 then { e with keep := true, evict := false }
  else if cp = 1 then { e with keep := false, evict := true }
  else e

theorem L1Line.hinted_hinted (cp : BitVec 2) (e : L1Line) : (e.hinted cp).hinted cp = e.hinted cp := by
  unfold L1Line.hinted
  split
  · rfl
  · split <;> rfl

theorem L1Line.hinted_of_two_le {cp : BitVec 2} (h : 2 ≤ cp.toNat) (e : L1Line) : e.hinted cp = e := by
  have h0 : cp ≠ 0 := fun c => by simp [c] at h
  have h1 : cp ≠ 1 := fun c => by simp [c] at h
  rw [L1Line.hinted, if_neg h0, if_neg h1]

/-- HREUSE for one lane. -/
def State.hintLane (h : Here) (f : FM) (s : State) (l : Nat) : State :=
  match h.reuseLine f l with
  | none => s
  | some line =>
    match s.l1Line h.core line with
    | none => s
    | some e =>
      if f.cp = 0 then s.setL1 h.core line { e with keep := true, evict := false }
      else if f.cp = 1 then s.setL1 h.core line { e with keep := false, evict := true }
      else s

/-- `t` is `s` but for the lines in the L1 of core `c`. -/
structure L1Only (c : Nat) (s t : State) : Prop where
  device : t = { s with cores := t.cores }
  cores  : ∀ d, d ≠ c → t.coreAt d = s.coreAt d
  core   : t.coreAt c = { s.coreAt c with l1 := (t.coreAt c).l1 }

theorem L1Only.refl (c : Nat) (s : State) : L1Only c s s := ⟨rfl, fun _ _ => rfl, rfl⟩

theorem L1Only.setL1 {c : Nat} {s t : State} (o : L1Only c s t) (line : Nat) (e : L1Line) :
    L1Only c s (t.setL1 c line e) := by
  obtain ⟨device, cores, core⟩ := o
  refine ⟨congrArg (fun u : State => { u with cores := (t.setL1 c line e).cores }) device,
    fun d hd => (State.coreAt_modCore_ne _ _ hd).trans (cores d hd), ?_⟩
  have := congrArg (fun x : Core => { x with l1 := (t.coreAt c).l1.put line e }) core
  simpa [State.setL1] using this

theorem L1Only.hintLane {h : Here} {s t : State} (o : L1Only h.core s t) (f : FM) (l : Nat) :
    L1Only h.core s (t.hintLane h f l) := by
  unfold State.hintLane
  split
  · exact o
  · split
    · exact o
    · split
      · exact o.setL1 ..
      · split
        · exact o.setL1 ..
        · exact o

theorem L1Only.here? {h : Here} {s t : State} (o : L1Only h.core s t) (e : s.here? = some h) : t.here? = some h := by
  obtain ⟨device, -, core⟩ := o
  obtain ⟨hc, hb, hw, hx⟩ := State.here?_some e
  have cur : t.cur = some (h.core, h.slot) := by rw [device]; exact hc
  have band : t.band? h.core h.slot = some h.band := by rw [State.band?, core]; exact hb
  have crew : t.crew? h.core h.band.crew = some h.crew := by rw [State.crew?, core]; exact hw
  have ctx : t.ctx? h.ctxId = some h.ctx := by rw [device]; exact hx
  simp only [State.here?, cur]
  exact State.hereAt_of band crew ctx

@[simp] theorem State.l1Line_setL1 (s : State) (c line : Nat) (e : L1Line) :
    (s.setL1 c line e).l1Line c line = some e := by
  simp [State.setL1, State.l1Line]

theorem State.l1Line_setL1_ne (s : State) (c : Nat) {line j : Nat} (e : L1Line) (hj : j ≠ line) :
    (s.setL1 c line e).l1Line c j = s.l1Line c j := by
  simp [State.setL1, State.l1Line, Tab.find_put_ne _ _ hj]

/-- The line that a lane of HREUSE names is hinted, and every other is as it was. -/
theorem State.l1Line_hintLane (h : Here) (f : FM) (s : State) (l line : Nat) :
    (s.hintLane h f l).l1Line h.core line
      = (s.l1Line h.core line).map (if h.reuseLine f l = some line then L1Line.hinted f.cp else id) := by
  unfold State.hintLane
  split
  · rename_i none_named
    simp [none_named]
  · rename_i j named
    by_cases hj : line = j
    · subst hj
      split
      · rename_i absent
        simp [absent]
      · rename_i e he
        unfold L1Line.hinted
        split
        · simp [*]
        · split <;> simp [*]
    · have other : ¬j = line := fun c => hj c.symm
      simp only [named, Option.some.injEq, other, if_false, Option.map_id_fun, id_eq]
      split
      · rfl
      · split
        · exact s.l1Line_setL1_ne _ _ hj
        · split
          · exact s.l1Line_setL1_ne _ _ hj
          · rfl

theorem State.l1Line_foldl_hintLane (h : Here) (f : FM) (ls : List Nat) (s : State) (line : Nat) :
    (ls.foldl (State.hintLane h f) s).l1Line h.core line
      = (s.l1Line h.core line).map (if ∃ l ∈ ls, h.reuseLine f l = some line then L1Line.hinted f.cp else id) := by
  induction ls generalizing s with
  | nil => simp
  | cons a ls ih =>
    rw [List.foldl_cons, ih, State.l1Line_hintLane, Option.map_map]
    congr 1
    funext e
    by_cases ha : h.reuseLine f a = some line <;> by_cases hr : ∃ l ∈ ls, h.reuseLine f l = some line <;>
      simp [ha, hr, L1Line.hinted_hinted]

theorem mem_lanesOf {m : LaneMask} {l : Nat} : l ∈ lanesOf m ↔ l < 32 ∧ m.getLsbD l = true := by
  simp [lanesOf, laneIds]

theorem L1Only.foldl_hintLane (h : Here) (f : FM) (ls : List Nat) (s : State) :
    L1Only h.core s (ls.foldl (State.hintLane h f) s) :=
  List.foldlRecOn ls _ (L1Only.refl _ s) fun _ o l _ => o.hintLane f l

/-- A RUNNING lane of HREUSE names the line. -/
def Here.ReuseNames (h : Here) (f : FM) (line : Nat) : Prop :=
  ∃ l, l < 32 ∧ h.band.running.getLsbD l = true ∧ h.reuseLine f l = some line

/-- HREUSE retires after its hints: the lines it names are hinted, and no other line is touched. -/
theorem hreuse_law {s : State} {h : Here} (r : Ready s h) (w : DWord) :
    ∃ s1, RunsThen (.hreuse w) s s1 h h.band (fun t => t) ∧ L1Only h.core s s1 ∧ ∀ line,
      (h.ReuseNames (parseFM w) line →
        s1.l1Line h.core line = (s.l1Line h.core line).map (L1Line.hinted (parseFM w).cp))
      ∧ (¬h.ReuseNames (parseFM w) line → s1.l1Line h.core line = s.l1Line h.core line) := by
  let s1 := (lanesOf h.band.running).foldl (State.hintLane h (parseFM w)) s
  have only : L1Only h.core s s1 := L1Only.foldl_hintLane ..
  have run : exec (.hreuse w) s = .next (h.retire s1 h.band) := State.onBand_next r.here _
  obtain ⟨bs, hb⟩ := Here.retire_law (only.here? r.here) h.band
  rw [Band.advance_of_running r.running] at hb
  refine ⟨s1, ⟨_, run, bs, hb⟩, only, fun line => ?_⟩
  unfold Here.ReuseNames
  have lines := State.l1Line_foldl_hintLane h (parseFM w) (lanesOf h.band.running) s line
  simp only [mem_lanesOf, and_assoc] at lines
  exact ⟨fun named => by rwa [if_pos named] at lines, fun other => by rwa [if_neg other, Option.map_id] at lines⟩

/-! ### Labels (02_formats.md R42, 03_assembly.md R74, 04_sweep.md R80 to R83, R90, R102) -/

theorem labelMerges : Claims.LabelMerges := by
  intro s h f r _
  refine ⟨h.put s { h.band.merge f.lid with p := h.band.p + 8 }, { h.band.merge f.lid with p := h.band.p + 8 },
    State.onBand_next r.here _, (Beside.refl r.here).put _, State.band?_setBand .., rfl, fun l hl => ?_⟩
  exact h.band.lane_merge f.lid hl

theorem leastLabel_eq_none {t : List (BitVec 16 × Nat)} : leastLabel t = none ↔ t = [] := by
  cases t with
  | nil => simp [leastLabel]
  | cons a t =>
    simp only [leastLabel]
    cases leastLabel t with
    | none => simp
    | some b => by_cases hb : b.2 < a.2 <;> simp [hb]

/-- The entry that `leastLabel` chooses has the least offset. -/
theorem leastLabel_least {t : List (BitVec 16 × Nat)} {e : BitVec 16 × Nat} (h : leastLabel t = some e) :
    e ∈ t ∧ ∀ y ∈ t, e.2 ≤ y.2 := by
  induction t generalizing e with
  | nil => cases h
  | cons a t ih =>
    simp only [leastLabel] at h
    cases ht : leastLabel t with
    | none =>
      obtain rfl := leastLabel_eq_none.1 ht
      obtain rfl : a = e := by simpa [leastLabel] using h
      simp
    | some b =>
      obtain ⟨hb, least⟩ := ih ht
      rw [ht] at h
      by_cases hlt : b.2 < a.2
      · simp only [hlt, if_true, Option.some.injEq] at h
        subst h
        exact ⟨by simp [hb], by simpa [Nat.le_of_lt hlt] using least⟩
      · simp only [hlt, if_false, Option.some.injEq] at h
        subst h
        exact ⟨by simp, fun y hy => by
          rcases List.mem_cons.1 hy with rfl | hy
          · exact Nat.le_refl _
          · exact Nat.le_trans (Nat.not_lt.1 hlt) (least y hy)⟩

theorem Here.nextLabel_least {h : Here} {x : BitVec 16} {o : Nat} {wrap : Bool} (e : h.nextLabel = some ((x, o), wrap)) :
    (x, o) ∈ h.census ∧ (wrap = false → h.band.p.toInt < (o : Int))
      ∧ (∀ y ∈ h.census, (wrap = true ∨ h.band.p.toInt < (y.2 : Int)) → o ≤ y.2)
      ∧ (wrap = true → ∀ y ∈ h.census, (y.2 : Int) ≤ h.band.p.toInt) := by
  unfold Here.nextLabel at e
  split at e
  · rename_i a ahead
    cases e
    obtain ⟨hm, least⟩ := leastLabel_least ahead
    simp only [List.mem_filter, decide_eq_true_eq] at hm least
    exact ⟨hm.1, fun _ => hm.2, fun y hy hp => least y ⟨hy, hp.resolve_left (by simp)⟩, nofun⟩
  · rename_i none_ahead
    obtain ⟨a, ha, he⟩ := Option.map_eq_some_iff.1 e
    cases he
    obtain ⟨hm, least⟩ := leastLabel_least ha
    refine ⟨hm, nofun, fun y hy _ => least y hy, fun _ y hy => ?_⟩
    have not_ahead := List.filter_eq_nil_iff.1 (leastLabel_eq_none.1 none_ahead) y hy
    simpa using not_ahead

/-- SKIP goes to the next label; what it does there is settled by the word it fetches. -/
theorem skipServesLabel : Claims.SkipServesLabel := by
  refine ⟨fun h x o wrap => Here.nextLabel_least, fun s h x o wrap s2 w here still next word => ?_⟩
  have run : exec .skip s = .next (_ : State) := State.onBand_next here _
  simp only [still, ne_eq, not_true_eq_false, if_false, next, word] at run
  refine ⟨fun i lbl hi => ?_, fun e lbl he => ?_, fun m hm lbl => ?_⟩
  · simp only [lbl, and_self, if_true, hi] at run
    refine ⟨_, run, rfl, fun l hl => ?_⟩
    exact ⟨fun hw => (Band.lane_merge _ x hl).trans (if_pos hw), fun hw => (Band.lane_merge _ x hl).trans (if_neg hw)⟩
  · simpa only [lbl, and_self, if_true, he] using run
  · have wants : m = h.band.wantingOf x := BitVec.eq_of_getLsbD_eq fun l hl => by
      rw [Bool.eq_iff_iff, hm l hl, h.band.getLsbD_wantingOf x hl]
    rw [wants, run, if_neg lbl]

theorem State.cacheLabel_entry {s : State} {c x m lid : Nat} {v : Ctx} {y : Module} (hv : s.ctx? x = some v)
    (hy : v.modules.find m = some y) (hl : lid < 2 ^ 16) :
    s.cacheLabel c x m (BitVec.ofNat 16 lid) = if lid < y.labels.length then
      s.modCore c fun e => { e with labels := (x, m, lid) :: (e.labels.filter fun k => k != (x, m, lid)).take 1023 }
    else s := by
  have id_eq : (BitVec.ofNat 16 lid).toNat = lid := Nat.mod_eq_of_lt hl
  simp [State.cacheLabel, hv, hy, id_eq]

theorem labelCacheFills : Claims.LabelCacheFills := by
  intro s c x m lid v y hv hy hl
  have run : exec (.labelCacheFill c x m lid) s = .next (s.cacheLabel c x m (BitVec.ofNat 16 lid)) :=
    congrArg Host.Outcome.next (if_pos hl)
  refine ⟨_, run, rfl, ?_⟩
  rw [State.cacheLabel_entry hv hy hl]
  by_cases hin : lid < y.labels.length
  · simp only [hin, if_true]
    exact ⟨rfl, fun d hd => State.coreAt_modCore_ne _ _ hd, fun _ => State.coreAt_modCore .., fun hle => by omega⟩
  · simp [hin]

/-- Settles O8: the merge, the sequencer's choice and its word, and the label cache, each by its own law. -/
theorem labelsAreServed : Obligations.LabelsAreServed := ⟨labelMerges, skipServesLabel, labelCacheFills⟩

/-! ### Trap words and hints (02_formats.md R43 to R48, 15_traps.md R382, R384, R385, R389, R390) -/

/-- TRAPF, TRAP and BKILL whose guard fails in Leader. -/
theorem trap_words_idle {s : State} {h : Here} (r : Ready s h) (f : FY) (hg : h.band.leads f.g = false) :
    Runs (.trapf f) s h [] [] [] (KeepsFlags h) ∧ Runs (.trap f) s h [] [] [] (KeepsFlags h)
      ∧ Runs (.bkill f) s h [] [] [] (KeepsFlags h) :=
  ⟨.of_retire r (State.bandOp_idle r hg _), .of_retire r (State.bandOp_idle r hg _),
    .of_retire r (State.bandOp_idle r hg _)⟩

/-- TRAPF, TRAP and BKILL that execute: TRAPF and TRAP are trap-after events, BKILL a kill. -/
theorem trap_words_act {s : State} {h : Here} (r : Ready s h) (f : FY) (hg : h.band.leads f.g = true) :
    (h.band.tl = true ∨ h.band.flags &&& h.band.fen = 0 → Runs (.trapf f) s h [] [] [] (KeepsFlags h))
      ∧ (h.band.tl = false → h.band.flags &&& h.band.fen ≠ 0 →
          TrapsAfter (.trapf f) s h 5 ((h.band.flags &&& h.band.fen).setWidth 96))
      ∧ TrapsAfter (.trap f) s h 13 (f.imm.setWidth 96)
      ∧ exec (.bkill f) s = .next (s.kill h 7 0 (f.imm.setWidth 96)) := by
  have trapf : exec (.trapf f) s = .next (_ : State) := State.bandOp_leads r hg _
  refine ⟨fun no => .of_retire r ?_, fun tl raised => .of_trapAfter r ?_, .of_trapAfter r (State.bandOp_leads r hg _),
    State.bandOp_leads r hg _⟩
  · rwa [if_pos (by simpa using no)] at trapf
  · rwa [if_neg] at trapf
    simpa [tl] using raised

/-- A word of emulation space kills its band, or raises a precise EMULATE trap (02_formats.md R47). -/
theorem State.emulate_law {s : State} {h : Here} (r : Ready s h) (w : DWord) :
    (h.band.tl = true ∨ ¬h.hasHandler 2 → s.emulate w = .next (s.kill h 1 0 0))
      ∧ (h.band.tl = false → h.hasHandler 2 →
          s.emulate w = .next (s.trap h h.band 2 (BitVec.ofNat 96 (w.toNat % 256)) h.band.running)) := by
  have run : s.emulate w = .next (_ : State) := State.onBand_next r.here _
  refine ⟨fun no => ?_, fun tl hh => ?_⟩
  · rwa [if_pos] at run
    rcases no with tl | hh
    · simp [tl]
    · simp [Here.handlerLabel_of_not_hasHandler hh]
  · have low : (w.extractLsb' 0 8).setWidth 96 = BitVec.ofNat 96 (w.toNat % 256) :=
      (BitVec.ofNat_toNat ..).symm.trans (congrArg (BitVec.ofNat 96) (Laws.Encodes.opc_toNat w))
    rwa [if_neg (by simp [tl, Here.handlerLabel_of_hasHandler hh]), Here.fault, low] at run

theorem hprio_law {s : State} {h : Here} (r : Ready s h) (w : DWord) :
    RunsThen (.hprio w) s s h { h.band with hprio := BitVec.ofNat 2 (w.toNat / 2 ^ 40) } (fun t => t) := by
  have level : w.extractLsb' 40 2 = BitVec.ofNat 2 (w.toNat / 2 ^ 40) := by
    rw [BitVec.extractLsb', Nat.shiftRight_eq_div_pow]
  have run : exec (.hprio w) s = .next (_ : State) := State.onBand_next r.here _
  rw [level] at run
  obtain ⟨bs, hb⟩ := Here.retire_law r.here { h.band with hprio := BitVec.ofNat 2 (w.toNat / 2 ^ 40) }
  exact ⟨_, run, bs, hb.trans (congrArg some (Band.advance_of_running r.running))⟩

/-- Settles O40: each word retires, traps, kills or marks lines as its own law says. -/
theorem trapWordsAndHints : Obligations.TrapWordsAndHints := by
  refine ⟨fun s h f r => ⟨trap_words_idle r f, trap_words_act r f⟩, fun s h w r => ?_⟩
  obtain ⟨illegal, emulated⟩ := State.emulate_law r w
  refine ⟨State.onBand_next r.here _, fun no => ⟨illegal no, illegal no⟩,
    fun tl hh => ⟨emulated tl hh, emulated tl hh⟩, .of_retire r (State.onBand_next r.here _), hprio_law r w, ?_⟩
  obtain ⟨s1, run, ⟨device, cores, core⟩, lines⟩ := hreuse_law r w
  refine ⟨s1, run, device, cores, ⟨_, rfl, core⟩, fun line none_held => ?_, fun line e held => ?_⟩
  · obtain ⟨named, other⟩ := lines line
    by_cases hn : h.ReuseNames (parseFM w) line
    · exact (named hn).trans (congrArg (Option.map _) none_held)
    · exact (other hn).trans none_held
  · obtain ⟨named, other⟩ := lines line
    refine ⟨fun hn cp => ?_, fun hn cp => ?_, fun keeps => ?_⟩
    · exact (named hn).trans (by simp [State.l1Line, held, L1Line.hinted, cp])
    · exact (named hn).trans (by simp [State.l1Line, held, L1Line.hinted, cp])
    · by_cases hn : h.ReuseNames (parseFM w) line
      · have hcp := keeps.resolve_left (not_not_intro hn)
        exact (named hn).trans (by simp [State.l1Line, held, L1Line.hinted_of_two_le hcp])
      · exact (other hn).trans held

end Sys2Proof.Machine
end

section
/-! SUPPORT. The statements of 04_sweep.md: words that move lanes, the stacks, the control faults, the predicate and read
instructions, and the step that issues a word. -/

namespace Sys2Proof.Machine

open Sys2Proof

/-! ### Lanes and masks -/

theorem lanesOf_nodup (m : LaneMask) : (lanesOf m).Nodup := List.nodup_range.filter _

theorem lanesOf_sorted (m : LaneMask) : (lanesOf m).Pairwise (· < ·) := List.pairwise_lt_range.filter _

@[simp] theorem lanesOf_zero : lanesOf 0#32 = [] := by simp [lanesOf]

theorem getLsbD_one_shiftLeft {l k : Nat} (hk : k < 32) : (1#32 <<< l).getLsbD k = decide (k = l) := by
  simp only [BitVec.getLsbD_shiftLeft, BitVec.getLsbD_one, hk]
  by_cases h : k = l
  · simp [h]
  · simp [h]
    omega

theorem Band.lane_mapMask (b : Band) (m : LaneMask) (f : Nat → Lane → Lane) {l : Nat} (hl : l < 32) :
    (b.mapMask m f).lane l = if m.getLsbD l then f l (b.lane l) else b.lane l :=
  b.lane_mapLanes _ hl

/-- A lane of a word's Running is one of the 32. -/
theorem Here.mem_lanesOf_guarded {h : Here} {g : Guard} {l : Nat} :
    l ∈ lanesOf (h.band.guarded g) ↔ l < 32 ∧ h.lanes g l := mem_lanesOf

theorem Here.guarded_ne_zero {h : Here} {g : Guard} {l : Nat} (hl : h.lanes g l) : h.band.guarded g ≠ 0 := by
  intro h0
  simp [Here.lanes, h0] at hl

theorem Here.not_lanes_of_guarded_zero {h : Here} {g : Guard} (h0 : h.band.guarded g = 0) (l : Nat) : ¬h.lanes g l :=
  fun hl => Here.guarded_ne_zero hl h0

/-! ### The label entries that a word reads (03_assembly.md R74) -/

/-- A change of a core that leaves its bands and crews keeps every band with its crew and context. -/
theorem State.hereAt_modCore (s : State) (c : Nat) {f : Core → Core} (bands : ∀ x, (f x).bands = x.bands)
    (crews : ∀ x, (f x).crews = x.crews) (d k : Nat) : (s.modCore c f).hereAt d k = s.hereAt d k := by
  have band : (s.modCore c f).band? d k = s.band? d k := by
    by_cases hd : d = c
    · subst hd
      simp [State.band?, bands]
    · simp [State.band?, State.coreAt_modCore_ne _ _ hd]
  have crew : ∀ n, (s.modCore c f).crew? d n = s.crew? d n := fun n => by
    by_cases hd : d = c
    · subst hd
      simp [State.crew?, crews]
    · simp [State.crew?, State.coreAt_modCore_ne _ _ hd]
  simp only [State.hereAt, band, crew, State.ctx?_modCore]

@[simp] theorem State.here?_cacheLabel (s : State) (c x m : Nat) (lid : BitVec 16) :
    (s.cacheLabel c x m lid).here? = s.here? := by
  unfold State.cacheLabel
  split
  · split
    · simp only [State.here?, State.modCore_cur]
      split
      · rfl
      · refine State.hereAt_modCore _ _ ?_ ?_ _ _ <;> exact fun _ => rfl
    · rfl
  · rfl

@[simp] theorem State.here?_cacheLanes (s : State) (h : Here) (m : LaneMask) (t : Nat → BitVec 16) :
    (s.cacheLanes h m t).here? = s.here? :=
  List.foldlRecOn (lanesOf m) _ (motive := fun u : State => u.here? = s.here?) rfl fun u hu _ _ =>
    (u.here?_cacheLabel ..).trans hu

/-- The state once a word that names labels in registers, as `ind` says, has read their entries for Running. -/
def State.readLabels (s : State) (h : Here) (ind : Bool) (m : LaneMask) (t : Nat → BitVec 16) : State :=
  if ind then s.cacheLanes h m t else s

@[simp] theorem State.here?_readLabels (s : State) (h : Here) (ind : Bool) (m : LaneMask) (t : Nat → BitVec 16) :
    (s.readLabels h ind m t).here? = s.here? := by
  cases ind
  · rfl
  · exact s.here?_cacheLanes ..

theorem State.readLabels_zero (s : State) (h : Here) (ind : Bool) (t : Nat → BitVec 16) :
    s.readLabels h ind 0 t = s := by
  cases ind
  · rfl
  · simp [State.readLabels, State.cacheLanes]

/-! ### PAIRMIS and the worst control fault (04_sweep.md R97, 15_traps.md R373) -/

theorem Here.pairMiss_of_agrees {h : Here} {g : Guard} {t : Nat → BitVec 16} (a : h.Agrees g t) :
    h.pairMiss (h.band.guarded g) t = none := by
  unfold Here.pairMiss
  split
  · rename_i paired
    refine List.find?_eq_none.2 fun l hl miss => ?_
    obtain ⟨both, same⟩ := a paired l (List.mem_range.1 hl)
    unfold Here.lanes at both same
    rw [Bool.or_eq_true, bne_iff_ne, Bool.and_eq_true, decide_eq_true_iff] at miss
    rcases miss with one | ⟨moves, apart⟩
    · exact one (Bool.eq_iff_iff.2 both)
    · exact apart (same moves)
  · rfl

/-- What `ctrlWorst` makes of the next lane. -/
def ctrlStep (f : Nat → CtrlHit) (a : Option (Nat × CtrlHit)) (l : Nat) : Option (Nat × CtrlHit) :=
  if (f l).code = 0 then a
  else match a with
    | none => some (l, f l)
    | some (_, x) => if (f l).code < x.code then some (l, f l) else a

theorem ctrlWorst_eq_foldl (m : LaneMask) (f : Nat → CtrlHit) : ctrlWorst m f = (lanesOf m).foldl (ctrlStep f) none := by
  unfold ctrlWorst ctrlStep
  rfl

theorem foldl_ctrlStep_of_clean {f : Nat → CtrlHit} {ls : List Nat} (clean : ∀ l ∈ ls, (f l).code = 0)
    (a : Option (Nat × CtrlHit)) : ls.foldl (ctrlStep f) a = a :=
  List.foldlRecOn ls _ (motive := fun b => b = a) rfl fun _ hb l hl => by simp [ctrlStep, clean l hl, hb]

theorem ctrlWorst_eq_none {m : LaneMask} {f : Nat → CtrlHit} (clean : ∀ l ∈ lanesOf m, (f l).code = 0) :
    ctrlWorst m f = none :=
  (ctrlWorst_eq_foldl m f).trans (foldl_ctrlStep_of_clean clean none)

/-- Lanes that meet nothing, or only codes above `c`, leave none or a hit above `c`. -/
theorem foldl_ctrlStep_above {f : Nat → CtrlHit} {ls : List Nat} {c : Nat}
    (above : ∀ l ∈ ls, (f l).code = 0 ∨ c < (f l).code) :
    ∀ e ∈ ls.foldl (ctrlStep f) none, c < e.2.code :=
  List.foldlRecOn ls _ (motive := fun a : Option (Nat × CtrlHit) => ∀ e ∈ a, c < e.2.code) nofun
    fun a ha l hl e he => by
      unfold ctrlStep at he
      rcases above l hl with zero | gt
      · rw [if_pos zero] at he
        exact ha e he
      · rw [if_neg (by omega)] at he
        cases a with
        | none =>
          cases he
          exact gt
        | some x =>
          dsimp only at he
          split at he
          · cases he
            exact gt
          · exact ha e he

/-- A hit stays while no lane meets a lower code. -/
theorem foldl_ctrlStep_keeps {f : Nat → CtrlHit} {ls : List Nat} {l : Nat} {x : CtrlHit}
    (least : ∀ k ∈ ls, (f k).code = 0 ∨ x.code ≤ (f k).code) : ls.foldl (ctrlStep f) (some (l, x)) = some (l, x) :=
  List.foldlRecOn ls _ (motive := fun a => a = some (l, x)) rfl fun a ha k hk => by
    subst ha
    unfold ctrlStep
    rcases least k hk with zero | le
    · rw [if_pos zero]
    · split
      · rfl
      · exact if_neg (by omega)

/-- The fault that is raised is that of the lowest lane that meets the lowest code. -/
theorem ctrlWorst_eq_some {m : LaneMask} {f : Nat → CtrlHit} {l : Nat} (hl : l ∈ lanesOf m) (met : (f l).code ≠ 0)
    (least : ∀ k ∈ lanesOf m, (f k).code = 0 ∨ (f l).code < (f k).code ∨ ((f l).code = (f k).code ∧ l ≤ k)) :
    ctrlWorst m f = some (l, f l) := by
  obtain ⟨before, after, split⟩ := List.append_of_mem hl
  have sorted := lanesOf_sorted m
  rw [split, List.pairwise_append] at sorted
  obtain ⟨-, -, lower⟩ := sorted
  rw [split] at least
  have above : ∀ k ∈ before, (f k).code = 0 ∨ (f l).code < (f k).code := fun k hk => by
    have hkl : k < l := lower k hk l (by simp)
    rcases least k (by simp [hk]) with zero | gt | ⟨-, le⟩
    · exact .inl zero
    · exact .inr gt
    · omega
  have keeps : ∀ k ∈ after, (f k).code = 0 ∨ (f l).code ≤ (f k).code := fun k hk => by
    rcases least k (by simp [hk]) with zero | gt | ⟨eq, -⟩
    · exact .inl zero
    · exact .inr (Nat.le_of_lt gt)
    · exact .inr (Nat.le_of_eq eq)
  have taken : ctrlStep f (before.foldl (ctrlStep f) none) l = some (l, f l) := by
    have worse := foldl_ctrlStep_above above
    unfold ctrlStep
    rw [if_neg met]
    split
    · rfl
    · rename_i k x found
      exact if_pos (worse (k, x) found)
  rw [ctrlWorst_eq_foldl, split, List.foldl_append, List.foldl_cons, taken]
  exact foldl_ctrlStep_keeps keeps

/-! ### What lanes meet at their labels (04_sweep.md R97, R105, R106) -/

theorem Here.meetsLabel_iff (h : Here) (x : BitVec 16) (code : Nat) : h.MeetsLabel x code ↔ code = h.labelCode x := by
  unfold Here.MeetsLabel Here.labelCode
  cases h.label x <;> simp

theorem Here.labelCode_of_target {h : Here} {x : BitVec 16} (tgt : h.Target x) : h.labelCode x = 0 := by
  obtain ⟨e, he, attr⟩ := tgt
  simp [Here.labelCode, he, attr]

theorem Here.labelCode_le (h : Here) (x : BitVec 16) : h.labelCode x ≤ 2 := by
  unfold Here.labelCode
  split
  · omega
  · split <;> omega

theorem CtrlHit.min_of_left_zero {a b : CtrlHit} (h : a.code = 0) : a.min b = b := if_pos h

theorem CtrlHit.min_of_right_zero {a b : CtrlHit} (ha : a.code ≠ 0) (hb : b.code = 0) : a.min b = a := by
  rw [CtrlHit.min, if_neg ha, if_pos hb]

theorem CtrlHit.min_of_lt {a b : CtrlHit} (ha : a.code ≠ 0) (h : a.code < b.code) : a.min b = a := by
  rw [CtrlHit.min, if_neg ha, if_neg (by omega), if_neg (by omega)]

/-- With a return label that is a target, a lane of a call meets what it meets at its own label, or else the limit of its
stack. -/
theorem Here.hitCall_of_target {h : Here} {ret : BitVec 16} (tgt : h.Target ret) (t : BitVec 16) (l : Nat) :
    h.hitCall t ret l = if h.labelCode t = 0
      then ⟨if h.band.cstk.toNat / 2 < (h.band.lane l).depth.toNat + 1 then 5 else 0, t⟩ else h.hitLabel t := by
  have ret0 : (h.hitLabel ret).code = 0 := Here.labelCode_of_target tgt
  have le := h.labelCode_le t
  unfold Here.hitCall
  dsimp only
  by_cases t0 : h.labelCode t = 0
  · rw [if_pos t0, CtrlHit.min_of_left_zero (show (h.hitLabel t).code = 0 from t0), CtrlHit.min_of_left_zero ret0]
  · rw [if_neg t0, CtrlHit.min_of_right_zero (show (h.hitLabel t).code ≠ 0 from t0) ret0]
    split
    · exact CtrlHit.min_of_lt t0 (show h.labelCode t < 5 by omega)
    · exact CtrlHit.min_of_right_zero t0 rfl

/-- A lane of a call whose labels are targets meets nothing while its stack has room. -/
theorem Here.hitCall_clean {h : Here} {t ret : BitVec 16} {l : Nat} (ht : h.Target t) (hr : h.Target ret)
    (room : (h.band.lane l).depth.toNat + 1 ≤ h.band.cstk.toNat / 2) : (h.hitCall t ret l).code = 0 := by
  rw [Here.hitCall_of_target hr, if_pos (Here.labelCode_of_target ht)]
  exact if_neg (by omega)

theorem Here.hitRet_clean {h : Here} {l : Nat} (deep : (h.band.lane l).depth ≠ 0)
    (tgt : h.Target ((h.band.lane l).top.headD 0)) : (h.hitRet l).code = 0 := by
  rw [Here.hitRet, if_neg deep]
  exact Here.labelCode_of_target tgt

/-! ### The shared run of the words that move lanes -/

/-- Of the lanes a word acts on, `l` is the lowest that meets the lowest code. -/
structure Here.Worst (h : Here) (g : Guard) (code : Nat → Nat) (l : Nat) : Prop where
  lt    : l < 32
  acts  : h.lanes g l
  met   : code l ≠ 0
  least : ∀ k, k < 32 → h.lanes g k → code k = 0 ∨ code l < code k ∨ (code l = code k ∧ l ≤ k)

section
variable {s : State} {h : Here} {g : Guard} {reads : Bool} {tgt : Here → Nat → BitVec 16} {hit : Here → Nat → CtrlHit}
  {go : State → Here → LaneMask → State}

/-- With no lane to act on, the word retires. -/
theorem State.moveOp_idle (r : Ready s h) (none_acts : h.band.guarded g = 0) :
    s.moveOp g reads tgt hit go = .next (h.retire s h.band) := by
  simp [State.moveOp, State.onBand_next r.here, none_acts]

/-- Past PAIRMIS the word comes to its worst control fault. -/
theorem State.moveOp_agrees (r : Ready s h) (acts : h.band.guarded g ≠ 0) (a : h.Agrees g (tgt h)) :
    s.moveOp g reads tgt hit go = .next (match ctrlWorst (h.band.guarded g) (hit h) with
      | some (l, x) =>
        (s.readLabels h reads (h.band.guarded g) (tgt h)).trap h h.band 3 (ctrlDetail x.code l x.label) (h.band.guarded g)
      | none => go (s.readLabels h reads (h.band.guarded g) (tgt h)) h (h.band.guarded g)) := by
  unfold State.moveOp
  rw [State.onBand_next r.here]
  simp only [if_neg acts, Here.pairMiss_of_agrees a]
  rfl

/-- With nothing met, the lanes move. -/
theorem State.moveOp_goes (r : Ready s h) (acts : h.band.guarded g ≠ 0) (a : h.Agrees g (tgt h))
    (clean : ∀ l, l < 32 → h.lanes g l → (hit h l).code = 0) :
    s.moveOp g reads tgt hit go
      = .next (go (s.readLabels h reads (h.band.guarded g) (tgt h)) h (h.band.guarded g)) := by
  rw [State.moveOp_agrees r acts a, ctrlWorst_eq_none fun l hl => ?_]
  obtain ⟨lt, acts⟩ := Here.mem_lanesOf_guarded.1 hl
  exact clean l lt acts

/-- The lowest lane that meets the lowest code traps before any lane moves. -/
theorem State.moveOp_faults (r : Ready s h) (a : h.Agrees g (tgt h)) {l : Nat}
    (worst : h.Worst g (fun l => (hit h l).code) l) :
    s.moveOp g reads tgt hit go = .next ((s.readLabels h reads (h.band.guarded g) (tgt h)).trap h h.band 3
      (ctrlDetail (hit h l).code l (hit h l).label) (h.band.guarded g)) := by
  obtain ⟨hl, acts, met, least⟩ := worst
  rw [State.moveOp_agrees r (Here.guarded_ne_zero acts) a,
    ctrlWorst_eq_some (Here.mem_lanesOf_guarded.2 ⟨hl, acts⟩) met fun k hk => ?_]
  obtain ⟨lt, kacts⟩ := Here.mem_lanesOf_guarded.1 hk
  exact least k lt kacts

end

/-- The label that a word moves a lane to: the one its register names when `ind`, else the word's. -/
def Here.dest (h : Here) (f : FC) (ind : Bool) (l : Nat) : BitVec 16 := if ind then h.named f.va l else f.lid

theorem exec_goWord (f : FC) (ind : Bool) (s : State) : exec (if ind then .goi f else .go f) s =
    s.moveOp f.g ind (fun h => h.dest f ind) (fun h l => h.hitLabel (h.dest f ind l)) fun s h m =>
      (h.retire s (h.band.wantAll m (h.dest f ind))).sample h m .control := by
  cases ind <;> rfl

theorem exec_callWord (f : FC) (ind : Bool) (s : State) : exec (if ind then .calli f else .call f) s =
    s.moveOp f.g ind (fun h => h.dest f ind) (fun h l => h.hitCall (h.dest f ind l) f.lid2 l) fun s h m =>
      h.callMove s m f.lid2 (h.dest f ind) := by
  cases ind <;> rfl

theorem exec_ret (f : FC) (s : State) : exec (.ret f) s =
    s.moveOp f.g false (fun h l => (h.band.lane l).top.headD 0) Here.hitRet fun s h m =>
      if s.privBusy h && (lanesOf m).any fun l => decide (5 ≤ (h.band.lane l).depth.toNat) then s
      else h.stacked s m (s.popAll h h.band (lanesOf m)) := rfl

/-! ### Pushes and pops (04_sweep.md R91, R92) -/

/-- A lane that has pushed `x`. -/
def Lane.pushed (y : Lane) (x : BitVec 16) : Lane := { y with depth := y.depth + 1, top := (x :: y.top).take 4 }

/-- A lane that has popped, `more` being what its fill brought. -/
def Lane.popped (y : Lane) (more : List (BitVec 16)) : Lane :=
  { y with st := .wanting, want := y.top.headD 0, depth := y.depth - 1, top := y.top.drop 1 ++ more }

/-- The band with lane `l` replaced. -/
def Band.modLane (b : Band) (l : Nat) (f : Lane → Lane) : Band := b.mapMask (1#32 <<< l) fun _ y => f y

theorem Band.lane_modLane (b : Band) (l : Nat) (f : Lane → Lane) {k : Nat} (hk : k < 32) :
    (b.modLane l f).lane k = if k = l then f (b.lane l) else b.lane k := by
  rw [Band.modLane, Band.lane_mapMask _ _ _ hk, getLsbD_one_shiftLeft hk]
  by_cases h : k = l
  · subst h
    simp
  · simp [h]

theorem Band.modLane_congr (b : Band) (l : Nat) {f : Lane → Lane} {g : Nat → Lane → Lane}
    (same : f (b.lane l) = g l (b.lane l)) : b.mapMask (1#32 <<< l) g = b.modLane l f := by
  unfold Band.modLane Band.mapMask Band.mapLanes
  congr 1
  refine List.map_congr_left fun k hk => ?_
  dsimp only
  rw [getLsbD_one_shiftLeft (List.mem_range.1 hk)]
  by_cases h : k = l
  · subst h
    simpa using same.symm
  · simp [h]

/-- The stack accesses of the lanes that come after those that have ended. -/
def Stacked.andThen : Stacked → (State → Band → Stacked) → Stacked
  | .ok s b, f => f s b
  | r, _ => r

theorem Stacked.andThen_eq_ok {r : Stacked} {f : State → Band → Stacked} {s : State} {b : Band}
    (e : r.andThen f = .ok s b) : ∃ s0 b0, r = .ok s0 b0 ∧ f s0 b0 = .ok s b := by
  cases r with
  | ok s0 b0 => exact ⟨s0, b0, rfl, e⟩
  | bad => cases e
  | poisoned => cases e
  | hold => cases e

/-! #### Pushes -/

theorem State.pushAll_cons (s : State) (h : Here) (b : Band) (x : BitVec 16) (l : Nat) (t : List Nat) :
    s.pushAll h b x (l :: t) = (s.pushAll h b x [l]).andThen fun s1 b1 => s1.pushAll h b1 x t := by
  simp only [State.pushAll]
  split
  · rfl
  · split <;> rfl

theorem State.pushAll_shallow (s : State) (h : Here) {b : Band} (x : BitVec 16) {l : Nat}
    (n : (b.lane l).depth.toNat < 4) : s.pushAll h b x [l] = .ok s (b.modLane l (·.pushed x)) := by
  simp only [State.pushAll, if_pos n]
  rfl

theorem State.pushAll_deep (s : State) (h : Here) {b : Band} (x : BitVec 16) {l : Nat}
    (n : 4 ≤ (b.lane l).depth.toNat) : s.pushAll h b x [l] =
      match s.spill h l ((b.lane l).depth.toNat - 4) ((b.lane l).top.getD 3 0) with
      | .ok s1 _ => .ok s1 (b.modLane l (·.pushed x))
      | .bad e => .bad l (2 * ((b.lane l).depth.toNat - 4)) e
      | .hold => .hold := by
  simp only [State.pushAll, if_neg (Nat.not_lt.2 n)]
  rfl

theorem State.pushAll_one_ok {s s1 : State} {h : Here} {b b1 : Band} {x : BitVec 16} {l : Nat}
    (ok : s.pushAll h b x [l] = .ok s1 b1) : b1 = b.modLane l (·.pushed x) := by
  by_cases n : (b.lane l).depth.toNat < 4
  · rw [State.pushAll_shallow s h x n] at ok
    cases ok
    rfl
  · rw [State.pushAll_deep s h x (Nat.not_lt.1 n)] at ok
    split at ok
    · cases ok
      rfl
    · cases ok
    · cases ok

/-- Where the pushes of some lanes end, each of these lanes has pushed and nothing else of the band has changed. -/
theorem State.pushAll_ok {h : Here} {x : BitVec 16} {ls : List Nat} {s s1 : State} {b b1 : Band} (nodup : ls.Nodup)
    (ok : s.pushAll h b x ls = .ok s1 b1) : b1 = { b with lanes := b1.lanes }
      ∧ ∀ k, k < 32 → b1.lane k = if k ∈ ls then (b.lane k).pushed x else b.lane k := by
  induction ls generalizing s b with
  | nil =>
    cases ok
    exact ⟨rfl, fun k _ => by simp⟩
  | cons l t ih =>
    obtain ⟨lt, nodup⟩ := List.nodup_cons.1 nodup
    rw [State.pushAll_cons] at ok
    obtain ⟨s0, b0, one, rest⟩ := Stacked.andThen_eq_ok ok
    obtain rfl := State.pushAll_one_ok one
    obtain ⟨only, lanes⟩ := ih nodup rest
    refine ⟨only, fun k hk => ?_⟩
    rw [lanes k hk, b.lane_modLane l _ hk]
    by_cases kl : k = l
    · subst kl
      simp [lt]
    · simp [kl]

/-- Pushes onto fewer than four entries reach no memory (R92). -/
theorem State.pushAll_ok_of_shallow (s : State) (h : Here) (x : BitVec 16) {ls : List Nat} {b : Band}
    (nodup : ls.Nodup) (small : ∀ l ∈ ls, l < 32) (n : ∀ l ∈ ls, (b.lane l).depth.toNat < 4) :
    ∃ b1, s.pushAll h b x ls = .ok s b1 := by
  induction ls generalizing b with
  | nil => exact ⟨b, rfl⟩
  | cons l t ih =>
    obtain ⟨lt, nodup⟩ := List.nodup_cons.1 nodup
    rw [State.pushAll_cons, State.pushAll_shallow s h x (n l List.mem_cons_self)]
    refine ih nodup (fun k hk => small k (List.mem_cons_of_mem _ hk)) fun k hk => ?_
    rw [b.lane_modLane l _ (small k (List.mem_cons_of_mem _ hk)), if_neg (ne_of_mem_of_not_mem hk lt)]
    exact n k (List.mem_cons_of_mem _ hk)

/-! #### Pops -/

theorem State.popAll_cons (s : State) (h : Here) (b : Band) (l : Nat) (t : List Nat) :
    s.popAll h b (l :: t) = (s.popAll h b [l]).andThen fun s1 b1 => s1.popAll h b1 t := by
  simp only [State.popAll]
  split
  · rfl
  · split <;> rfl

theorem State.popAll_shallow (s : State) (h : Here) {b : Band} {l : Nat} (n : (b.lane l).depth.toNat < 5) :
    s.popAll h b [l] = .ok s (b.modLane l (·.popped [])) := by
  simp only [State.popAll, if_pos (show (b.lane l).depth.toNat - 1 < 4 by omega)]
  exact congrArg _ (b.modLane_congr l rfl)

theorem State.popAll_deep (s : State) (h : Here) {b : Band} {l : Nat} (n : 5 ≤ (b.lane l).depth.toNat) :
    s.popAll h b [l] = match s.fill h l ((b.lane l).depth.toNat - 5) with
      | .ok _ (_, true) => .poisoned (h.privIa l (2 * ((b.lane l).depth.toNat - 5)))
      | .ok s1 (y, false) => .ok s1 (b.modLane l (·.popped [y]))
      | .bad e => .bad l (2 * ((b.lane l).depth.toNat - 5)) e
      | .hold => .hold := by
  simp only [State.popAll, if_neg (show ¬(b.lane l).depth.toNat - 1 < 4 by omega),
    show (b.lane l).depth.toNat - 1 - 4 = (b.lane l).depth.toNat - 5 by omega]
  generalize s.fill h l ((b.lane l).depth.toNat - 5) = filled
  rcases filled with ⟨s1, y, poison⟩ | e | _
  · cases poison
    · exact congrArg (Stacked.ok s1) (b.modLane_congr l rfl)
    · rfl
  · rfl
  · rfl

theorem State.popAll_one_ok {s s1 : State} {h : Here} {b b1 : Band} {l : Nat}
    (ok : s.popAll h b [l] = .ok s1 b1) : ∃ more : List (BitVec 16), b1 = b.modLane l (·.popped more)
      ∧ ((b.lane l).depth.toNat < 5 → more = []) ∧ (5 ≤ (b.lane l).depth.toNat → more.length = 1) := by
  by_cases n : (b.lane l).depth.toNat < 5
  · rw [State.popAll_shallow s h n] at ok
    cases ok
    exact ⟨[], rfl, fun _ => rfl, fun deep => by omega⟩
  · rw [State.popAll_deep s h (Nat.not_lt.1 n)] at ok
    split at ok
    · cases ok
    · rename_i y _
      cases ok
      exact ⟨[y], rfl, fun shallow => absurd shallow n, fun _ => rfl⟩
    · cases ok
    · cases ok

/-- Where the pops of some lanes end, each of these lanes has popped, the deep ones with a fill, and nothing else of the
band has changed. -/
theorem State.popAll_ok {h : Here} {ls : List Nat} {s s1 : State} {b b1 : Band} (nodup : ls.Nodup)
    (ok : s.popAll h b ls = .ok s1 b1) : b1 = { b with lanes := b1.lanes } ∧ ∀ k, k < 32 →
      (k ∉ ls → b1.lane k = b.lane k) ∧ (k ∈ ls → ∃ more, b1.lane k = (b.lane k).popped more
        ∧ ((b.lane k).depth.toNat < 5 → more = []) ∧ (5 ≤ (b.lane k).depth.toNat → more.length = 1)) := by
  induction ls generalizing s b with
  | nil =>
    cases ok
    exact ⟨rfl, fun k _ => ⟨fun _ => rfl, nofun⟩⟩
  | cons l t ih =>
    obtain ⟨lt, nodup⟩ := List.nodup_cons.1 nodup
    rw [State.popAll_cons] at ok
    obtain ⟨s0, b0, one, rest⟩ := Stacked.andThen_eq_ok ok
    obtain ⟨more, rfl, shallow, deep⟩ := State.popAll_one_ok one
    obtain ⟨only, lanes⟩ := ih nodup rest
    refine ⟨only, fun k hk => ?_⟩
    obtain ⟨same, popped⟩ := lanes k hk
    rw [b.lane_modLane l _ hk] at same popped
    by_cases kl : k = l
    · subst kl
      rw [if_pos rfl] at same
      exact ⟨fun out => absurd List.mem_cons_self out, fun _ => ⟨more, same lt, shallow, deep⟩⟩
    · rw [if_neg kl] at same popped
      exact ⟨fun out => same (mt (List.mem_cons_of_mem l) out), fun mem => popped (List.mem_of_ne_of_mem kl mem)⟩

/-- Pops from at most four entries reach no memory (R92). -/
theorem State.popAll_ok_of_shallow (s : State) (h : Here) {ls : List Nat} {b : Band}
    (nodup : ls.Nodup) (small : ∀ l ∈ ls, l < 32) (n : ∀ l ∈ ls, (b.lane l).depth.toNat < 5) :
    ∃ b1, s.popAll h b ls = .ok s b1 := by
  induction ls generalizing b with
  | nil => exact ⟨b, rfl⟩
  | cons l t ih =>
    obtain ⟨lt, nodup⟩ := List.nodup_cons.1 nodup
    rw [State.popAll_cons, State.popAll_shallow s h (n l List.mem_cons_self)]
    refine ih nodup (fun k hk => small k (List.mem_cons_of_mem _ hk)) fun k hk => ?_
    rw [b.lane_modLane l _ (small k (List.mem_cons_of_mem _ hk)), if_neg (ne_of_mem_of_not_mem hk lt)]
    exact n k (List.mem_cons_of_mem _ hk)

/-! #### Spills and fills -/

theorem toBytes_two (x : BitVec 16) : toBytes 2 x.toNat = [x.extractLsb' 0 8, x.extractLsb' 8 8] := rfl

theorem State.spill_out_of_room (s : State) (h : Here) (l e : Nat) (x : BitVec 16)
    (out : h.ctx.pvsize.toNat < 2 * e + 2) : s.spill h l e x = .bad 3 := if_pos out

theorem State.spill_in_room (s : State) (h : Here) (l e : Nat) (x : BitVec 16) (room : 2 * e + 2 ≤ h.ctx.pvsize.toNat) :
    s.spill h l e x = match s.iaWrite (some h.core) (some h.slot) (h.privIa l (2 * e))
        [x.extractLsb' 0 8, x.extractLsb' 8 8] 0 with
      | .ok s1 _ => .ok s1 false
      | .bad b => .bad b
      | .hold => .hold :=
  if_neg (Nat.not_lt.2 room)

theorem State.fill_out_of_room (s : State) (h : Here) (l e : Nat) (out : h.ctx.pvsize.toNat < 2 * e + 2) :
    s.fill h l e = .bad 3 := if_pos out

theorem State.fill_in_room (s : State) (h : Here) (l e : Nat) (room : 2 * e + 2 ≤ h.ctx.pvsize.toNat) :
    s.fill h l e = match s.iaRead (some h.core) (h.privIa l (2 * e)) 2 0 0 with
      | .ok s1 (d, p) => .ok s1 (BitVec.ofNat 16 (ofBytes d), p)
      | .bad b => .bad b
      | .hold => .hold :=
  if_neg (Nat.not_lt.2 room)

/-- The accesses of the lanes go one after the other; one lane's access is settled by its depth and by its spill or fill. -/
theorem stackAccesses : Claims.StackAccesses := by
  refine ⟨fun s h b x => ⟨rfl, rfl, fun l t s1 b1 one => ?_, fun l t s1 b1 one => ?_⟩,
    fun s h b x l hl len => ?_, fun s h b l hl len nonempty => ?_⟩
  · rw [State.pushAll_cons, one]
    rfl
  · rw [State.popAll_cons, one]
    rfl
  · have pushed : ∀ k, k < 32 → (b.modLane l (·.pushed x)).lane k = _ := fun k hk => b.lane_modLane l _ hk
    refine ⟨fun n => ⟨_, State.pushAll_shallow s h x n, rfl, pushed⟩, fun n out => ?_, fun n room => ?_⟩
    · rw [State.pushAll_deep s h x n, State.spill_out_of_room s h l _ _ out]
    · rw [State.pushAll_deep s h x n, State.spill_in_room s h l _ _ room]
      refine ⟨fun s1 done => ⟨_, by rw [done], rfl, pushed⟩, fun e bad => by rw [bad], fun hold => by rw [hold]⟩
  · have popped : ∀ more k, k < 32 → (b.modLane l (·.popped more)).lane k = _ := fun more k hk => b.lane_modLane l _ hk
    refine ⟨fun n => ⟨_, State.popAll_shallow s h n, rfl, popped []⟩, fun n out => ?_, fun n room => ?_⟩
    · rw [State.popAll_deep s h n, State.fill_out_of_room s h l _ out]
    · rw [State.popAll_deep s h n, State.fill_in_room s h l _ room]
      refine ⟨fun s1 d done => ⟨_, by rw [done], rfl, popped _⟩, fun s1 d poison => by rw [poison],
        fun e bad => by rw [bad], fun hold => by rw [hold]⟩

/-! ### CALL, CALLI and RET: the run up to the stack accesses -/

/-- A word whose lanes' stacks need no memory, or whose band has no private access outstanding, makes its accesses. -/
theorem State.stack_waits_not {s : State} {h : Here} {m : LaneMask} {n : Nat}
    (quiet : s.privBusy h = false ∨ ∀ l ∈ lanesOf m, (h.band.lane l).depth.toNat < n) :
    (s.privBusy h && (lanesOf m).any fun l => decide (n ≤ (h.band.lane l).depth.toNat)) = false := by
  rcases quiet with idle | shallow
  · rw [idle, Bool.false_and]
  · rw [List.any_eq_false.2 fun k hk => by simpa using shallow k hk, Bool.and_false]

section
variable {s : State} {h : Here} {f : FC}

/-- A call whose lanes all may go pushes in each of them. -/
theorem exec_callWord_stacks (r : Ready s h) (ind : Bool) (a : h.Agrees f.g (h.dest f ind))
    (acts : h.band.guarded f.g ≠ 0)
    (may : ∀ l, l < 32 → h.lanes f.g l → h.Target (h.dest f ind l) ∧ h.Target f.lid2
      ∧ (h.band.lane l).depth.toNat + 1 ≤ h.band.cstk.toNat / 2)
    (quiet : (s.readLabels h ind (h.band.guarded f.g) (h.dest f ind)).privBusy h = false
      ∨ ∀ l ∈ lanesOf (h.band.guarded f.g), (h.band.lane l).depth.toNat < 4) :
    exec (if ind then .calli f else .call f) s
      = .next (h.stacked (s.readLabels h ind (h.band.guarded f.g) (h.dest f ind)) (h.band.guarded f.g)
          ((s.readLabels h ind (h.band.guarded f.g) (h.dest f ind)).pushAll h
            (h.band.wantAll (h.band.guarded f.g) (h.dest f ind)) f.lid2 (lanesOf (h.band.guarded f.g)))) := by
  rw [exec_callWord, State.moveOp_goes r acts a fun l hl moves => ?_]
  · exact congrArg _ (if_neg (by simp [State.stack_waits_not quiet]))
  · obtain ⟨target, back, room⟩ := may l hl moves
    exact Here.hitCall_clean target back room

/-- A RET whose lanes all may go pops in each of them. -/
theorem exec_ret_stacks (r : Ready s h) (a : h.Agrees f.g fun l => (h.band.lane l).top.headD 0)
    (acts : h.band.guarded f.g ≠ 0)
    (may : ∀ l, l < 32 → h.lanes f.g l → h.Target ((h.band.lane l).top.headD 0) ∧ (h.band.lane l).depth ≠ 0)
    (quiet : s.privBusy h = false ∨ ∀ l ∈ lanesOf (h.band.guarded f.g), (h.band.lane l).depth.toNat < 5) :
    exec (.ret f) s = .next (h.stacked s (h.band.guarded f.g) (s.popAll h h.band (lanesOf (h.band.guarded f.g)))) := by
  rw [exec_ret, State.moveOp_goes r acts a fun l hl moves => ?_]
  · exact congrArg _ (if_neg (by simp [State.readLabels, State.stack_waits_not quiet]))
  · obtain ⟨target, deep⟩ := may l hl moves
    exact Here.hitRet_clean deep target

end

/-- A stack access that faults traps before any lane has moved; only sub-cause 5 may also be logged (15_traps.md R366). -/
theorem Here.stacked_bad (h : Here) (s : State) (m : LaneMask) (l e : Nat) {sub : Nat} (ne : sub ≠ 5) :
    h.stacked s m (.bad l e sub) = s.trap h h.band 4 (memDetail sub l true false e) m := by
  simp [Here.stacked, State.stackLog, Here.fault, ne]

theorem LanesBecome.mapMask (h : Here) (g : Guard) (f : Nat → Lane → Lane) :
    LanesBecome h g (fun l => f l (h.band.lane l)) (h.band.mapMask (h.band.guarded g) f) := fun _ hl =>
  ⟨fun acts => (Band.lane_mapMask _ _ _ hl).trans (if_pos acts),
    fun idle => (Band.lane_mapMask _ _ _ hl).trans (if_neg idle)⟩

/-- The lanes of a call whose pushes have ended (R92, R105). -/
theorem LanesBecome.of_pushAll {s s1 : State} {h : Here} {g : Guard} {t : Nat → BitVec 16} {x : BitVec 16} {b : Band}
    (ok : s.pushAll h (h.band.wantAll (h.band.guarded g) t) x (lanesOf (h.band.guarded g)) = .ok s1 b) :
    LanesBecome h g (fun l => { h.band.lane l with
      st := .wanting, want := t l, depth := (h.band.lane l).depth + 1, top := (x :: (h.band.lane l).top).take 4 }) b := by
  intro l hl
  obtain ⟨-, lanes⟩ := State.pushAll_ok (lanesOf_nodup _) ok
  obtain ⟨moved, still⟩ := LanesBecome.mapMask h g (fun l x => { x with st := .wanting, want := t l }) l hl
  rw [lanes l hl]
  refine ⟨fun acts => ?_, fun idle => ?_⟩
  · rw [if_pos (Here.mem_lanesOf_guarded.2 ⟨hl, acts⟩)]
    exact congrArg (·.pushed x) (moved acts)
  · rw [if_neg fun mem => idle (Here.mem_lanesOf_guarded.1 mem).2]
    exact still idle

/-- Past four entries the words come to their stack accesses, and end as these do. -/
theorem deepStacks : Claims.DeepStacks := by
  refine ⟨fun s h f ind r a quiet acts may => ?_, fun s h f r a quiet acts may => ?_⟩
  · have run := exec_callWord_stacks r ind a acts may (.inl quiet)
    refine ⟨fun s1 b1 ok => ⟨?_, LanesBecome.of_pushAll ok⟩, fun l e sub bad ne => ?_, fun hold => ?_⟩
    · exact run.trans (congrArg _ (congrArg (h.stacked _ _) ok))
    · exact run.trans (congrArg _ ((congrArg (h.stacked _ _) bad).trans (h.stacked_bad _ _ l e ne)))
    · exact run.trans (congrArg _ (congrArg (h.stacked _ _) hold))
  · have run := exec_ret_stacks r a acts may (.inl quiet)
    refine ⟨fun s1 b1 ok => ?_, fun l e sub bad ne => ?_, fun ia poison => ?_, fun hold => ?_⟩
    · obtain ⟨only, lanes⟩ := State.popAll_ok (lanesOf_nodup _) ok
      refine ⟨run.trans (congrArg _ (congrArg (h.stacked _ _) ok)), only, fun l hl => ?_⟩
      obtain ⟨still, popped⟩ := lanes l hl
      exact ⟨fun idle => still fun mem => idle (Here.mem_lanesOf_guarded.1 mem).2,
        fun moves => popped (Here.mem_lanesOf_guarded.2 ⟨hl, moves⟩)⟩
    · exact run.trans (congrArg _ ((congrArg (h.stacked _ _) bad).trans (h.stacked_bad _ _ l e ne)))
    · exact run.trans (congrArg _ (congrArg (h.stacked _ _) poison))
    · exact run.trans (congrArg _ (congrArg (h.stacked _ _) hold))

/-! ### Control faults (04_sweep.md R97) -/

/-- GO and GOI trap for the lowest lane that meets the lowest code. -/
theorem exec_goWord_faults {s : State} {h : Here} {f : FC} (r : Ready s h) (ind : Bool) (a : h.Agrees f.g (h.dest f ind))
    {l : Nat} (worst : h.Worst f.g (fun l => h.labelCode (h.dest f ind l)) l) :
    exec (if ind then .goi f else .go f) s
      = .next ((s.readLabels h ind (h.band.guarded f.g) (h.dest f ind)).trap h h.band 3
          (ctrlDetail (h.labelCode (h.dest f ind l)) l (h.dest f ind l)) (h.band.guarded f.g)) := by
  rw [exec_goWord]
  exact State.moveOp_faults r a worst

/-- CALL and CALLI with a return label that is a target trap as GO and GOI do: a lane without room meets a higher code. -/
theorem exec_callWord_faults {s : State} {h : Here} {f : FC} (r : Ready s h) (ind : Bool) (a : h.Agrees f.g (h.dest f ind))
    (back : h.Target f.lid2) {l : Nat} (worst : h.Worst f.g (fun l => h.labelCode (h.dest f ind l)) l) :
    exec (if ind then .calli f else .call f) s
      = .next ((s.readLabels h ind (h.band.guarded f.g) (h.dest f ind)).trap h h.band 3
          (ctrlDetail (h.labelCode (h.dest f ind l)) l (h.dest f ind l)) (h.band.guarded f.g)) := by
  obtain ⟨hl, acts, met, least⟩ := worst
  have hit : h.hitCall (h.dest f ind l) f.lid2 l = h.hitLabel (h.dest f ind l) := by
    rw [Here.hitCall_of_target back, if_neg met]
  have code : (h.hitCall (h.dest f ind l) f.lid2 l).code = h.labelCode (h.dest f ind l) := congrArg CtrlHit.code hit
  have met_call : (h.hitCall (h.dest f ind l) f.lid2 l).code ≠ 0 := by rwa [code]
  rw [exec_callWord, State.moveOp_faults r a ⟨hl, acts, met_call, fun k hk moves => ?_⟩]
  · rw [hit]
    rfl
  · have le := h.labelCode_le (h.dest f ind l)
    rw [code, Here.hitCall_of_target back]
    by_cases k0 : h.labelCode (h.dest f ind k) = 0
    · rw [if_pos k0]
      dsimp only
      split
      · exact .inr (.inl (by omega))
      · exact .inl rfl
    · rw [if_neg k0]
      exact least k hk moves

/-- CALL and CALLI whose labels are targets trap for the lowest lane whose stack is full. -/
theorem exec_callWord_full {s : State} {h : Here} {f : FC} (r : Ready s h) (ind : Bool) (a : h.Agrees f.g (h.dest f ind))
    (targets : ∀ k, k < 32 → h.lanes f.g k → h.Target (h.dest f ind k)) (back : h.Target f.lid2) {l : Nat} (hl : l < 32)
    (acts : h.lanes f.g l) (full : h.band.cstk.toNat / 2 < (h.band.lane l).depth.toNat + 1)
    (lowest : ∀ k, k < l → h.lanes f.g k → (h.band.lane k).depth.toNat + 1 ≤ h.band.cstk.toNat / 2) :
    exec (if ind then .calli f else .call f) s
      = .next ((s.readLabels h ind (h.band.guarded f.g) (h.dest f ind)).trap h h.band 3
          (ctrlDetail 5 l (h.dest f ind l)) (h.band.guarded f.g)) := by
  have hit : ∀ k, k < 32 → h.lanes f.g k → h.hitCall (h.dest f ind k) f.lid2 k
      = ⟨if h.band.cstk.toNat / 2 < (h.band.lane k).depth.toNat + 1 then 5 else 0, h.dest f ind k⟩ := fun k hk moves => by
    rw [Here.hitCall_of_target back, if_pos (Here.labelCode_of_target (targets k hk moves))]
  have hitl := hit l hl acts
  rw [if_pos full] at hitl
  rw [exec_callWord, State.moveOp_faults r a ⟨hl, acts, by simp [hitl], fun k hk moves => ?_⟩]
  · rw [hitl]
  · rw [hitl, hit k hk moves]
    by_cases below : k < l
    · exact .inl (if_neg (Nat.not_lt.2 (lowest k below moves)))
    · dsimp only
      split
      · exact .inr (.inr ⟨rfl, by omega⟩)
      · exact .inl rfl

/-- RET traps for the lowest lane whose stack is empty. -/
theorem exec_ret_empty {s : State} {h : Here} {f : FC} (r : Ready s h)
    (a : h.Agrees f.g fun l => (h.band.lane l).top.headD 0) {l : Nat} (hl : l < 32) (acts : h.lanes f.g l)
    (empty : (h.band.lane l).depth = 0) (lowest : ∀ k, k < l → h.lanes f.g k → (h.band.lane k).depth ≠ 0)
    (targets : ∀ k, k < 32 → h.lanes f.g k → (h.band.lane k).depth ≠ 0 → h.Target ((h.band.lane k).top.headD 0)) :
    exec (.ret f) s = .next (s.trap h h.band 3 (ctrlDetail 6 l 0xFFFF) (h.band.guarded f.g)) := by
  have hitl : h.hitRet l = ⟨6, 0xFFFF⟩ := if_pos empty
  rw [exec_ret, State.moveOp_faults r a ⟨hl, acts, by simp [hitl], fun k hk moves => ?_⟩]
  · rw [hitl]
    rfl
  · by_cases k0 : (h.band.lane k).depth = 0
    · have hitk : h.hitRet k = ⟨6, 0xFFFF⟩ := if_pos k0
      rw [hitl, hitk]
      exact .inr (.inr ⟨rfl, Nat.not_lt.1 fun below => lowest k below moves k0⟩)
    · exact .inl (Here.hitRet_clean k0 (targets k hk moves k0))

/-- Each word's control fault is the worst hit of its lanes. -/
theorem controlFaults : Claims.ControlFaults := by
  refine ⟨fun s h f ind call r a back l code hl acts meets met least => ?_,
    fun s h f l ind r a targets back hl acts full lowest => exec_callWord_full r ind a targets back hl acts full lowest,
    fun s h f l r a hl acts empty lowest targets => exec_ret_empty r a hl acts empty lowest targets⟩
  obtain rfl := (h.meetsLabel_iff _ _).1 meets
  have worst : h.Worst f.g (fun l => h.labelCode (h.dest f ind l)) l :=
    ⟨hl, acts, met, fun k hk moves => least k _ hk moves ((h.meetsLabel_iff _ _).2 rfl)⟩
  cases call with
  | false =>
    have run := exec_goWord_faults r ind a worst
    cases ind <;> exact run
  | true =>
    have run := exec_callWord_faults r ind a (back rfl) worst
    cases ind <;> exact run

/-- Settles O6: the accesses lane by lane, the words that make them, and the faults that come before them. -/
theorem stacksAndControlFaults : Obligations.StacksAndControlFaults := ⟨stackAccesses, deepStacks, controlFaults⟩

/-! ### Words that issue and move lanes -/

/-- The end of a word keeps to the frame of its band. -/
theorem BandFrame.advance {b b1 : Band} {vs ps ss : List Nat} (fr : BandFrame b b1 vs ps ss) (n : Nat) :
    BandFrame b { b1.advance with sampled := n } vs ps ss := by
  obtain ⟨v, pr, s, rest⟩ := fr
  exact ⟨v, pr, s, congrArg (fun x : Band => { x.advance with sampled := n, p := b1.advance.p }) rest⟩

theorem BandFrame.of_lanes {b b1 : Band} (only : b1 = { b with lanes := b1.lanes }) : BandFrame b b1 [] [] [] := by
  rw [only]
  exact ⟨fun _ _ _ => rfl, fun _ _ => rfl, fun _ _ => rfl, rfl⟩

section
variable {s s1 : State} {h : Here} {i : Instr} {g : Guard} {x : Nat → Lane}

/-- A word that retires, sampled, with a band of which only lanes have changed. -/
theorem Issues.of_moved (here : s1.here? = some h) {b : Band} {m : LaneMask}
    (run : exec i s = .next ((h.retire s1 b).sample h m .control)) (only : b = { h.band with lanes := b.lanes })
    (moved : LanesBecome h g x b) :
    Issues i s s1 h [] [] [] (fun b => KeepsFlags h b ∧ LanesBecome h g x b) := by
  obtain ⟨bs, hb⟩ := Here.retire_law here b
  obtain ⟨bs, n, hb⟩ := State.sample_law bs hb m .control
  have p : b.p = h.band.p := by rw [only]
  have icnt : b.icnt = h.band.icnt := by rw [only]
  have flags : b.flags = h.band.flags := by rw [only]
  exact ⟨_, _, run, bs, hb, (BandFrame.of_lanes only).advance n, by rw [← p]; rfl, congrArg (· + 1) icnt, rfl, flags,
    moved⟩

/-- A word that moves lanes but has none to act on. -/
theorem Issues.of_idle (r : Ready s h) (none_acts : h.band.guarded g = 0) (run : exec i s = .next (h.retire s h.band)) :
    Issues i s s h [] [] [] (fun b => KeepsFlags h b ∧ LanesBecome h g x b) := by
  obtain ⟨bs, hb⟩ := Here.retire_law r.here h.band
  exact ⟨_, _, run, bs, hb, (BandFrame.of_lanes rfl).advance h.band.sampled, rfl, rfl, rfl, rfl,
    fun l _ => ⟨fun acts => absurd acts (Here.not_lanes_of_guarded_zero none_acts l), fun _ => rfl⟩⟩

end

/-! ### GO, GOI, CALL, CALLI and RET (04_sweep.md R103 to R106) -/

theorem Ready.here?_readLabels {s : State} {h : Here} (r : Ready s h) (ind : Bool) (m : LaneMask) (t : Nat → BitVec 16) :
    (s.readLabels h ind m t).here? = some h := (s.here?_readLabels h ind m t).trans r.here

/-- GO and GOI move their lanes. -/
theorem goWord_issues {s : State} {h : Here} {f : FC} (r : Ready s h) (ind : Bool) (a : h.Agrees f.g (h.dest f ind))
    (targets : ∀ l, l < 32 → h.lanes f.g l → h.Target (h.dest f ind l)) :
    Issues (if ind then .goi f else .go f) s (s.readLabels h ind (h.band.guarded f.g) (h.dest f ind)) h [] [] [] (fun b =>
      KeepsFlags h b ∧ LanesBecome h f.g (fun l => { h.band.lane l with st := .wanting, want := h.dest f ind l }) b) := by
  by_cases acts : h.band.guarded f.g = 0
  · rw [acts, State.readLabels_zero]
    exact .of_idle r acts ((exec_goWord f ind s).trans (State.moveOp_idle r acts))
  · exact .of_moved (r.here?_readLabels ..)
      ((exec_goWord f ind s).trans (State.moveOp_goes r acts a fun l hl moves => Here.labelCode_of_target (targets l hl moves)))
      rfl (LanesBecome.mapMask h f.g _)

/-- CALL and CALLI move their lanes and push the return label, while no stack passes four entries. -/
theorem callWord_issues {s : State} {h : Here} {f : FC} (r : Ready s h) (ind : Bool) (a : h.Agrees f.g (h.dest f ind))
    (may : ∀ l, l < 32 → h.lanes f.g l → h.Target (h.dest f ind l) ∧ h.Target f.lid2
      ∧ (h.band.lane l).depth.toNat < 4 ∧ (h.band.lane l).depth.toNat + 1 ≤ h.band.cstk.toNat / 2) :
    Issues (if ind then .calli f else .call f) s (s.readLabels h ind (h.band.guarded f.g) (h.dest f ind)) h [] [] []
      (fun b => KeepsFlags h b ∧ LanesBecome h f.g (fun l => { h.band.lane l with
        st := .wanting, want := h.dest f ind l, depth := (h.band.lane l).depth + 1,
        top := (f.lid2 :: (h.band.lane l).top).take 4 }) b) := by
  by_cases acts : h.band.guarded f.g = 0
  · rw [acts, State.readLabels_zero]
    exact .of_idle r acts ((exec_callWord f ind s).trans (State.moveOp_idle r acts))
  · have small : ∀ l ∈ lanesOf (h.band.guarded f.g), l < 32 := fun l hl => (mem_lanesOf.1 hl).1
    have shallow : ∀ l ∈ lanesOf (h.band.guarded f.g), (h.band.lane l).depth.toNat < 4 := fun l hl => by
      obtain ⟨lt, moves⟩ := Here.mem_lanesOf_guarded.1 hl
      obtain ⟨-, -, few, -⟩ := may l lt moves
      exact few
    have run := exec_callWord_stacks r ind a acts (fun l hl moves => by
      obtain ⟨target, back, -, room⟩ := may l hl moves
      exact ⟨target, back, room⟩) (.inr shallow)
    obtain ⟨b1, ok⟩ := State.pushAll_ok_of_shallow (s.readLabels h ind (h.band.guarded f.g) (h.dest f ind)) h f.lid2
      (b := h.band.wantAll (h.band.guarded f.g) (h.dest f ind)) (lanesOf_nodup _) small fun l hl => by
        rw [Band.wantAll, Band.lane_mapMask _ _ _ (small l hl), if_pos (mem_lanesOf.1 hl).2]
        exact shallow l hl
    obtain ⟨only, -⟩ := State.pushAll_ok (lanesOf_nodup _) ok
    rw [ok] at run
    exact .of_moved (r.here?_readLabels ..) run only (LanesBecome.of_pushAll ok)

/-- RET moves its lanes to the newest labels of their stacks, while none holds more than four. -/
theorem ret_issues {s : State} {h : Here} {f : FC} (r : Ready s h) (a : h.Agrees f.g fun l => (h.band.lane l).top.headD 0)
    (may : ∀ l, l < 32 → h.lanes f.g l → h.Target ((h.band.lane l).top.headD 0)
      ∧ 1 ≤ (h.band.lane l).depth.toNat ∧ (h.band.lane l).depth.toNat ≤ 4) :
    Issues (.ret f) s s h [] [] [] (fun b => KeepsFlags h b ∧ LanesBecome h f.g (fun l => { h.band.lane l with
      st := .wanting, want := (h.band.lane l).top.headD 0, depth := (h.band.lane l).depth - 1,
      top := (h.band.lane l).top.drop 1 }) b) := by
  by_cases acts : h.band.guarded f.g = 0
  · exact .of_idle r acts ((exec_ret f s).trans (State.moveOp_idle r acts))
  · have shallow : ∀ l ∈ lanesOf (h.band.guarded f.g), (h.band.lane l).depth.toNat < 5 := fun l hl => by
      obtain ⟨lt, moves⟩ := Here.mem_lanesOf_guarded.1 hl
      obtain ⟨-, -, few⟩ := may l lt moves
      omega
    have run := exec_ret_stacks r a acts (fun l hl moves => by
      obtain ⟨target, some_entry, -⟩ := may l hl moves
      exact ⟨target, fun empty => by simp [empty] at some_entry⟩) (.inr shallow)
    obtain ⟨b1, ok⟩ := State.popAll_ok_of_shallow s h (lanesOf_nodup _) (fun l hl => (mem_lanesOf.1 hl).1) shallow
    obtain ⟨only, lanes⟩ := State.popAll_ok (lanesOf_nodup _) ok
    rw [ok] at run
    refine .of_moved r.here run only fun l hl => ?_
    obtain ⟨still, popped⟩ := lanes l hl
    refine ⟨fun moves => ?_, fun idle => still fun mem => idle (Here.mem_lanesOf_guarded.1 mem).2⟩
    have mem := Here.mem_lanesOf_guarded.2 ⟨hl, moves⟩
    obtain ⟨more, lane, no_fill, -⟩ := popped mem
    rw [lane, no_fill (shallow l mem), Lane.popped, List.append_nil]

/-! ### EXIT (04_sweep.md R107, 15_traps.md R360) -/

theorem Band.handlerGone_iff (b : Band) : b.handlerGone = true ↔
    b.tl = true ∧ ∀ l, l < 32 → b.handler.getLsbD l = true → (b.lane l).st = .exited := by
  simp [Band.handlerGone, mem_lanesOf]

/-- A lane that has exited. -/
def Lane.out (x : Lane) : Lane := { x with st := .exited, depth := 0, top := [] }

theorem Here.handlerGone_exit (h : Here) (g : Guard) :
    (h.band.mapMask (h.band.guarded g) fun _ => Lane.out).handlerGone = true ↔ h.band.tl = true ∧
      ∀ l, l < 32 → h.band.handler.getLsbD l = true → h.lanes g l ∨ (h.band.lane l).st = .exited := by
  rw [Band.handlerGone_iff]
  refine and_congr_right fun _ => forall₂_congr fun l hl => imp_congr_right fun _ => ?_
  obtain ⟨out, still⟩ := LanesBecome.mapMask h g (fun _ => Lane.out) l hl
  by_cases acts : h.lanes g l
  · exact iff_of_true (congrArg Lane.st (out acts)) (.inl acts)
  · rw [still acts]
    exact (or_iff_right acts).symm

theorem exec_exit {s : State} {h : Here} (r : Ready s h) (f : FC) : exec (.exit f) s =
    .next (if (h.band.mapMask (h.band.guarded f.g) fun _ => Lane.out).handlerGone then s.kill h 7 0 0
      else (h.retire s (h.band.mapMask (h.band.guarded f.g) fun _ => Lane.out)).sample h (h.band.guarded f.g) .control) :=
  State.onBand_next r.here _

theorem lanesExit : Claims.LanesExit := by
  refine ⟨fun s h f r _ stays => ?_, fun s h f r _ tl gone => ?_⟩
  · have left : ¬(h.band.mapMask (h.band.guarded f.g) fun _ => Lane.out).handlerGone = true := by
      rw [Here.handlerGone_exit]
      rintro ⟨tl, gone⟩
      rcases stays with no_handler | ⟨l, hl, handles, idle, here⟩
      · simp [tl] at no_handler
      · exact (gone l hl handles).elim idle here
    exact .of_moved r.here ((exec_exit r f).trans (congrArg _ (if_neg left))) rfl (LanesBecome.mapMask h f.g _)
  · exact (exec_exit r f).trans (congrArg _ (if_pos ((h.handlerGone_exit f.g).2 ⟨tl, gone⟩)))

/-- Settles O5: each word retires with its lanes moved, from the run that it shares with its indirect form. -/
theorem lanesMove : Obligations.LanesMove := by
  refine ⟨⟨fun s h f r _ a targets => goWord_issues r false a targets,
    fun s h f r _ a targets => goWord_issues r true a targets⟩,
    ⟨fun s h f ind r _ a may => callWord_issues r ind a may, fun s h f r _ a may => ret_issues r a may⟩, lanesExit⟩

/-! ### Words that write registers -/

/-- `b1` is `b` but for the registers named and FLAGS. -/
structure RegsOnly (b b1 : Band) (vs ps ss : List Nat) : Prop where
  v    : ∀ n, n ∉ vs → ∀ l, b1.v32 l n = b.v32 l n
  pr   : ∀ n, n ∉ ps → b1.pred n = b.pred n
  s    : ∀ n, n ∉ ss → b1.sreg n = b.sreg n
  rest : b1 = { b with v := b1.v, pr := b1.pr, s := b1.s, flags := b1.flags }

theorem RegsOnly.refl (b : Band) (vs ps ss : List Nat) : RegsOnly b b vs ps ss :=
  ⟨fun _ _ _ => rfl, fun _ _ => rfl, fun _ _ => rfl, rfl⟩

theorem RegsOnly.setV (b : Band) (n : Nat) (m : LaneMask) (f : Nat → Word) : RegsOnly b (b.setV n m f) [n] [] [] :=
  ⟨fun _ hj l => b.v32_setV_ne m f l (List.ne_of_not_mem_cons hj), fun _ _ => rfl, fun _ _ => rfl, rfl⟩

theorem RegsOnly.setPred (b : Band) (n : Nat) (m v : LaneMask) : RegsOnly b (b.setPred n m v) [] [n] [] := by
  refine ⟨fun j _ l => b.v32_setPred n m v l j, fun j hj => ?_, fun j _ => b.sreg_setPred n m v j, ?_⟩
  · rw [Band.pred_setPred, if_neg fun both => List.ne_of_not_mem_cons hj both.2]
  · unfold Band.setPred
    split <;> rfl

theorem RegsOnly.setS (b : Band) (n : Nat) (x : DWord) : RegsOnly b (b.setS n x) [] [] [n] :=
  ⟨fun _ _ _ => rfl, fun _ _ => rfl, fun _ hj => b.sreg_setS_ne x (List.ne_of_not_mem_cons hj), rfl⟩

theorem RegsOnly.frame {b b1 : Band} {vs ps ss : List Nat} (o : RegsOnly b b1 vs ps ss) : BandFrame b b1 vs ps ss := by
  obtain ⟨v, pr, s, rest⟩ := o
  exact ⟨v, pr, s, congrArg (fun x : Band => { x with
    lanes := b1.lanes, p := b1.p, icnt := b1.icnt, yld := b1.yld, sampled := b1.sampled }) rest⟩

section
variable {s : State} {h : Here} {i : Instr} {g : Guard} {vs ps ss : List Nat} {post : Band → Prop}

/-- A word that retires with registers written goes on to the next word. -/
theorem Runs.of_advance (r : Ready s h) {t : State} {b : Band} {n : Nat} (run : exec i s = .next t) (bs : Beside h s t)
    (hb : t.band? h.core h.slot = some { b.advance with sampled := n }) (only : RegsOnly h.band b vs ps ss)
    (holds : post { b.stepped with sampled := n }) : Runs i s h vs ps ss post := by
  have lanes : b.lanes = h.band.lanes := by rw [only.rest]
  have running : b.running ≠ 0 := by
    have same : b.running = h.band.running := by
      rw [only.rest]
      rfl
    rw [same]
    exact r.running
  have p : b.p = h.band.p := by rw [only.rest]
  have icnt : b.icnt = h.band.icnt := by rw [only.rest]
  have frame := only.frame.advance n
  rw [Band.advance_of_running running] at hb frame
  exact ⟨t, _, run, bs, hb, frame, lanes, ⟨congrArg (· + 8) p, congrArg (· + 1) icnt, rfl⟩, holds⟩

/-- A lane instruction that writes registers. -/
theorem Runs.of_laneOp (r : Ready s h) {chk : Check} {f : Here → LaneMask → Band} (run : exec i s = s.laneOp g chk f)
    (only : RegsOnly h.band (f h (h.band.guarded g)) vs ps ss)
    (holds : ∀ n, post { (f h (h.band.guarded g)).stepped with sampled := n }) : Runs i s h vs ps ss post := by
  obtain ⟨t, n, next, bs, hb⟩ := State.laneOp_law r g chk f
  exact .of_advance r (run.trans next) bs hb only (holds n)

/-- A band-level instruction that retires, checked or not, with registers written when it executes. -/
theorem Runs.of_bandOp (r : Ready s h) {f : Here → State} {b : Band} (run : exec i s = s.bandOp g f)
    (effect : f h = h.retire s b ∨ f h = h.control s b) (only : RegsOnly h.band b vs ps ss)
    (acts : h.band.leads g = true → ∀ n, post { b.stepped with sampled := n })
    (idle : h.band.leads g = false → post h.band.stepped) : Runs i s h vs ps ss post := by
  cases hg : h.band.leads g with
  | false =>
    obtain ⟨bs, hb⟩ := Here.retire_law r.here h.band
    exact .of_advance r (run.trans (State.bandOp_idle r hg f)) bs hb (.refl ..) (idle hg)
  | true =>
    obtain ⟨bs, hb⟩ := Here.retire_law r.here b
    rcases effect with retires | sampled
    · rw [← retires] at bs hb
      exact .of_advance r (run.trans (State.bandOp_leads r hg f)) bs hb only (acts hg b.sampled)
    · obtain ⟨bs, n, hb⟩ := State.sample_law bs hb h.band.running .control
      exact .of_advance r ((run.trans (State.bandOp_leads r hg f)).trans (congrArg _ sampled)) bs hb only (acts hg n)

end

theorem Writes32.setV (h : Here) (g : Guard) (n : Nat) (x : Nat → Word) :
    Writes32 h g n x (h.band.setV n (h.band.guarded g) x) := fun _ hl =>
  ⟨fun acts => (h.band.v32_setV n _ x hl).trans (if_pos acts),
    fun idle => (h.band.v32_setV n _ x hl).trans (if_neg idle)⟩

theorem getLsbD_merged (old new m : LaneMask) {l : Nat} (hl : l < 32) :
    ((old &&& ~~~m) ||| (new &&& m)).getLsbD l = if m.getLsbD l then new.getLsbD l else old.getLsbD l := by
  simp only [BitVec.getLsbD_or, BitVec.getLsbD_and, BitVec.getLsbD_not, hl, decide_true, Bool.true_and]
  cases m.getLsbD l <;> simp

theorem WritesP.setPred (h : Here) (g : Guard) (n : Nat) {x : Nat → Prop} {v : LaneMask}
    (bits : ∀ l, l < 32 → (v.getLsbD l = true ↔ x l)) :
    WritesP h g n x (h.band.setPred n (h.band.guarded g) v) := by
  intro l hl n0
  unfold Here.lanes
  rw [Band.pred_setPred, if_pos ⟨n0, rfl⟩, getLsbD_merged _ _ _ hl]
  exact ⟨fun acts => by rw [if_pos acts, bits l hl], fun idle => if_neg idle⟩

@[simp] theorem Band.flags_setPred (b : Band) (n : Nat) (m v : LaneMask) : (b.setPred n m v).flags = b.flags := by
  unfold Band.setPred
  split <;> rfl

/-! ### Predicates and reads (05_integer.md R138, R140) -/

theorem halfLanes_eq_mates (h : Here) (g : Guard) (l : Nat) :
    halfLanes h.crew.paired (h.band.guarded g) l = h.mates g l := by
  unfold halfLanes lanesOf Here.mates
  rw [List.filter_filter]
  exact List.filter_congr fun k _ => Bool.and_comm ..

theorem srdl_runs {s : State} {h : Here} {f : FS} (r : Ready s h) (wf : (Instr.srdl f).wf = true) :
    Runs (.srdl f) s h [] [] [f.sd.toNat] (fun b => KeepsFlags h b
      ∧ (h.band.leads f.g = true → b.sreg f.sd.toNat
          = (h.band.v32 (if f.sub = 1 then h.band.leader else (h.band.sreg f.sb.toNat).toNat % 32) f.imm.toNat).setWidth 64)
      ∧ (h.band.leads f.g = false → b.sreg f.sd.toNat = h.band.sreg f.sd.toNat)) := by
  have declared : f.imm.toNat % 128 = f.imm.toNat := by
    simp only [Instr.wf, Bool.and_eq_true, decide_eq_true_eq] at wf
    obtain ⟨⟨-, lt⟩, -⟩ := wf
    exact Nat.mod_eq_of_lt lt
  refine .of_bandOp r rfl (.inl rfl) (.setS ..) (fun leads n => ⟨rfl, fun _ => ?_, fun idle => ?_⟩) fun idle =>
    ⟨rfl, fun leads => ?_, fun _ => rfl⟩
  · exact (Band.sreg_setS h.band f.sd.toNat _).trans (by rw [declared])
  · simp [leads] at idle
  · simp [leads] at idle

/-- Each instruction writes one register from the lanes' predicates and registers. -/
theorem predicatesAndReads : Claims.PredicatesAndReads := by
  refine ⟨fun s h f r wf => srdl_runs r wf, fun s h f r _ => ?plop, fun s h f r _ => ?pset, fun s h f r _ => ?ptov,
    fun s h f r _ => ?vtop, fun s h f r _ => ?pcnt, fun s h f r wf => ?sprd⟩
  case plop =>
    refine .of_laneOp r (Eq.refl (execPlop f s)) (.setPred ..) fun _ =>
      ⟨WritesP.setPred h f.g _ fun l hl => ?_, Band.flags_setPred h.band ..⟩
    rw [getLsbD_maskOf, decide_eq_true hl, Bool.true_and]
    cases (h.band.pred f.va.toNat).getLsbD l <;> cases (h.band.pred f.vb.toNat).getLsbD l <;> rfl
  case pset =>
    exact .of_laneOp r (Eq.refl (execPset f s)) (.setPred ..) fun _ =>
      ⟨WritesP.setPred h f.g _ fun _ _ => Iff.rfl, Band.flags_setPred h.band ..⟩
  case ptov => exact .of_laneOp r (Eq.refl (execPtov f s)) (.setV ..) fun _ => ⟨Writes32.setV h f.g _ _, rfl⟩
  case vtop =>
    refine .of_laneOp r (Eq.refl (execVtop f s)) (.setPred ..) fun _ =>
      ⟨WritesP.setPred h f.g _ fun l hl => ?_, Band.flags_setPred h.band ..⟩
    rw [getLsbD_maskOf, decide_eq_true hl, Bool.true_and, bne_iff_ne]
  case pcnt =>
    refine .of_laneOp r (Eq.refl (execPcnt f s)) (.setV ..) fun _ => ⟨?_, rfl⟩
    simp only [← halfLanes_eq_mates]
    exact Writes32.setV h f.g _ _
  case sprd =>
    have scalar : f.vb.toNat % 64 = f.vb.toNat := by
      simp only [Instr.wf, FV.opAB, FV.bLegal, Bool.and_eq_true, Bool.or_eq_true, decide_eq_true_eq, bne_iff_ne,
        beq_iff_eq] at wf
      obtain ⟨⟨⟨⟨_, _, below⟩, _⟩, bk⟩, _⟩ := wf
      exact Nat.mod_eq_of_lt (below.resolve_left fun ne => ne bk)
    refine .of_laneOp r (Eq.refl (execSprd f s)) (.setPred ..) fun _ =>
      ⟨WritesP.setPred h f.g _ fun l hl => ?_, Band.flags_setPred h.band ..⟩
    rw [scalar]
    simp [hl]

/-! ### What the sequencer shows (04_sweep.md R101, R108 to R110) -/

theorem length_eraseDups_le {α : Type} [DecidableEq α] : ∀ l : List α, l.eraseDups.length ≤ l.length
  | [] => Nat.le_refl 0
  | a :: t => by
    have fewer := List.length_filter_le (fun b => !b == a) t
    have rest := length_eraseDups_le (t.filter fun b => !b == a)
    rw [List.eraseDups_cons, List.length_cons, List.length_cons]
    omega
  termination_by l => l.length
  decreasing_by
    have := List.length_filter_le (fun b => !b == a) t
    simp only [List.length_cons]
    omega

theorem length_lanesOf_le (m : LaneMask) : (lanesOf m).length ≤ 32 :=
  Nat.le_trans (List.length_filter_le _ laneIds) (Nat.le_of_eq List.length_range)

/-- The fields of the word that CENS writes (R110). -/
theorem census_fields (w : LaneMask) {n k : Nat} (x : BitVec 16) (hn : n ≤ 32) (hk : k ≤ 32) :
    let v := BitVec.ofNat 64 (w.toNat + n * 2 ^ 32 + k * 2 ^ 40 + x.toNat * 2 ^ 48)
    (∀ l, l < 32 → v.getLsbD l = w.getLsbD l) ∧ (v.extractLsb' 32 8).toNat = n ∧ (v.extractLsb' 40 8).toNat = k
      ∧ v.extractLsb' 48 16 = x := by
  intro v
  have hw := w.isLt
  have hx := x.isLt
  have value : v.toNat = w.toNat + n * 2 ^ 32 + k * 2 ^ 40 + x.toNat * 2 ^ 48 :=
    (BitVec.toNat_ofNat ..).trans (Nat.mod_eq_of_lt (by omega))
  have low : v.setWidth 32 = w := BitVec.eq_of_toNat_eq (by rw [BitVec.toNat_setWidth, value]; omega)
  refine ⟨fun l hl => ?_, ?_, ?_, BitVec.eq_of_toNat_eq ?_⟩
  · rw [← low, BitVec.getLsbD_setWidth, decide_eq_true hl, Bool.true_and]
  all_goals
    rw [BitVec.extractLsb'_toNat, Nat.shiftRight_eq_div_pow, value]
    omega

/-- The label that the sequencer would serve next, or 0xFFFF. -/
def Here.nextWanted (h : Here) : BitVec 16 := (h.nextLabel.map fun e => e.1.1).getD 0xFFFF

/-- The word that CENS writes. -/
def Here.censusWord (h : Here) : DWord :=
  BitVec.ofNat 64 (h.band.wanting.toNat
    + (((lanesOf h.band.wanting).map fun l => (h.band.lane l).want).eraseDups).length * 2 ^ 32
    + laneCount h.band.blocked * 2 ^ 40 + h.nextWanted.toNat * 2 ^ 48)

theorem exec_cens {s : State} {h : Here} (f : FS) (r : Ready s h) (leads : h.band.leads f.g = true) :
    exec (.cens f) s = .next (h.control s (h.band.setS f.sd.toNat h.censusWord)) := by
  refine (State.bandOp_leads r leads _ : execCens f s = _).trans ?_
  unfold Here.censusWord Here.nextWanted
  cases h.nextLabel <;> rfl

/-- The fields of CENS: the lanes WANTING, their labels, the lanes BLOCKED, the next label. -/
theorem Here.censusWord_fields (h : Here) :
    (∀ l, l < 32 → (h.censusWord.getLsbD l = true ↔ (h.band.lane l).st = .wanting ∧ h.band.active l = true))
    ∧ (h.censusWord.extractLsb' 32 8).toNat
        = (((List.range 32).filter fun l => h.band.wanting.getLsbD l).map fun l => (h.band.lane l).want).eraseDups.length
    ∧ (h.censusWord.extractLsb' 40 8).toNat
        = ((List.range 32).filter fun l => (h.band.lane l).st == .blocked && h.band.active l).length
    ∧ h.censusWord.extractLsb' 48 16 = h.nextWanted := by
  have labels : (((lanesOf h.band.wanting).map fun l => (h.band.lane l).want).eraseDups).length ≤ 32 :=
    Nat.le_trans (length_eraseDups_le _) (by rw [List.length_map]; exact length_lanesOf_le _)
  obtain ⟨lanes, wanted, blocked, next⟩ := census_fields h.band.wanting h.nextWanted
    labels (length_lanesOf_le h.band.blocked)
  refine ⟨fun l hl => ?_, wanted, blocked.trans (congrArg List.length (List.filter_congr fun l hl => ?_)), next⟩
  · refine (Bool.eq_iff_iff.1 (lanes l hl)).trans ?_
    rw [Band.wanting, getLsbD_maskOf, decide_eq_true hl, Bool.true_and, Bool.and_eq_true, beq_iff_eq]
  · rw [Band.blocked, getLsbD_maskOf, decide_eq_true (List.mem_range.1 hl), Bool.true_and]

theorem cens_runs {s : State} {h : Here} {f : FS} (r : Ready s h) :
    Runs (.cens f) s h [] [] [f.sd.toNat] (fun b => KeepsFlags h b
      ∧ (h.band.leads f.g = false → b.sreg f.sd.toNat = h.band.sreg f.sd.toNat)
      ∧ (h.band.leads f.g = true → b.sreg f.sd.toNat = h.censusWord)) := by
  cases leads : h.band.leads f.g with
  | false =>
    obtain ⟨bs, hb⟩ := Here.retire_law r.here h.band
    exact .of_advance r (State.bandOp_idle r leads _) bs hb (.refl ..) ⟨rfl, fun _ => rfl, nofun⟩
  | true =>
    obtain ⟨bs, hb⟩ := Here.retire_law r.here (h.band.setS f.sd.toNat h.censusWord)
    obtain ⟨bs, n, hb⟩ := State.sample_law bs hb h.band.running .control
    exact .of_advance r (exec_cens f r leads) bs hb (.setS ..) ⟨rfl, nofun, fun _ => Band.sreg_setS h.band ..⟩

theorem yield_law {s : State} {h : Here} (f : FC) (r : Ready s h) :
    ∃ t b, exec (.yieldBand f) s = .next t ∧ Beside h s t ∧ t.band? h.core h.slot = some b
      ∧ b = { h.band with p := h.band.p + 8, icnt := h.band.icnt + 1, yld := h.band.leads f.g, sampled := b.sampled,
                          yldCycle := b.yldCycle, yldMark := b.yldMark }
      ∧ (h.band.leads f.g = true → b.yldCycle = s.cycle ∧ b.yldMark = (s.coreAt h.core).retires)
      ∧ (h.band.leads f.g = false → b.yldCycle = h.band.yldCycle ∧ b.yldMark = h.band.yldMark) := by
  obtain ⟨bs, hb⟩ := Here.retire_law r.here h.band
  rw [Band.advance_of_running r.running] at hb
  cases leads : h.band.leads f.g with
  | false => exact ⟨_, _, State.bandOp_idle r leads _, bs, hb, rfl, nofun, fun _ => ⟨rfl, rfl⟩⟩
  | true =>
    obtain ⟨bs, n, hb⟩ := State.sample_law bs hb h.band.running .control
    refine ⟨_, _, (State.bandOp_leads r leads _).trans (congrArg _ (State.modBand_eq _ _ hb)), bs.put _,
      State.band?_setBand .., rfl, fun _ => ⟨rfl, rfl⟩, nofun⟩

theorem lblid_runs {s : State} {h : Here} {f : FI} (r : Ready s h) (wf : (Instr.lblid f).wf = true) :
    Runs (.lblid f) s h (if f.ty2 = 0 then [f.vd.toNat] else []) [] (if f.ty2 = 0 then [] else [f.vd.toNat]) (fun b =>
      KeepsFlags h b
      ∧ (f.ty2 = 0 → Writes32 h f.g f.vd.toNat (fun _ => f.imm) b)
      ∧ (f.ty2 ≠ 0 → b.sreg f.vd.toNat = if h.band.leads f.g then f.imm.setWidth 64 else h.band.sreg f.vd.toNat)) := by
  have label : f.imm.toNat < 0xFFFF := by
    simp only [Instr.wf, Bool.and_eq_true, decide_eq_true_eq] at wf
    obtain ⟨⟨lt, -⟩, -⟩ := wf
    exact lt
  have low : (f.imm.extractLsb' 0 16).toNat = f.imm.toNat := by
    rw [BitVec.extractLsb'_toNat, Nat.shiftRight_zero, Nat.mod_eq_of_lt (by omega)]
  by_cases vector : f.ty2 = 0
  · have id32 : (f.imm.extractLsb' 0 16).setWidth 32 = f.imm := by
      rw [← BitVec.toNat_inj, BitVec.toNat_setWidth, low, Nat.mod_eq_of_lt f.imm.isLt]
    rw [if_pos vector, if_pos vector]
    refine .of_laneOp r (if_pos vector : execLblid f s = _) (.setV ..) fun _ =>
      ⟨rfl, fun _ => ?_, fun scalar => absurd vector scalar⟩
    rw [id32]
    exact Writes32.setV h f.g _ _
  · have id64 : (f.imm.extractLsb' 0 16).setWidth 64 = f.imm.setWidth 64 := by
      rw [← BitVec.toNat_inj, BitVec.toNat_setWidth, low, BitVec.toNat_setWidth]
    rw [if_neg vector, if_neg vector]
    refine .of_bandOp r (if_neg vector : execLblid f s = _) (.inr rfl) (.setS ..)
      (fun leads _ => ⟨rfl, fun v => absurd v vector, fun _ => ?_⟩)
      fun idle => ⟨rfl, fun v => absurd v vector, fun _ => by rw [idle]; rfl⟩
    rw [if_pos leads, ← id64]
    exact Band.sreg_setS h.band ..

/-- SWCNT writes SCNT when it executes. -/
theorem swcnt_runs {s : State} {h : Here} {f : FS} (r : Ready s h) :
    Runs (.swcnt f) s h [] [] [f.sd.toNat] (fun b => KeepsFlags h b
      ∧ (h.band.leads f.g = true → b.sreg f.sd.toNat = h.band.scnt.setWidth 64)
      ∧ (h.band.leads f.g = false → b.sreg f.sd.toNat = h.band.sreg f.sd.toNat)) :=
  .of_bandOp r (Eq.refl (execSwcnt f s)) (.inr rfl) (.setS ..)
    (fun leads _ => ⟨rfl, fun _ => Band.sreg_setS h.band .., fun idle => by simp [leads] at idle⟩)
    fun idle => ⟨rfl, fun leads => by simp [leads] at idle, fun _ => rfl⟩

theorem Runs.mono {i : Instr} {s : State} {h : Here} {vs ps ss : List Nat} {post weaker : Band → Prop}
    (runs : Runs i s h vs ps ss post) (imp : ∀ b, post b → weaker b) : Runs i s h vs ps ss weaker := by
  obtain ⟨t, b, run, bs, hb, frame, lanes, next, holds⟩ := runs
  exact ⟨t, b, run, bs, hb, frame, lanes, next, imp b holds⟩

theorem sequencerReads : Claims.SequencerReads := by
  refine ⟨fun s h f r _ => .of_laneOp r (Eq.refl (execNop f s)) (.refl ..) fun _ => rfl, fun s h f r _ => yield_law f r,
    fun s h f r wf => lblid_runs r wf, fun s h f r _ => ?_, fun s h f r _ leads => ?_, fun s h f r _ => ?_⟩
  · exact (swcnt_runs r).mono fun b ⟨flags, _, idle⟩ => ⟨flags, fun _ => trivial, idle⟩
  · exact (swcnt_runs r).mono fun b ⟨_, acts, _⟩ => acts leads
  · refine (cens_runs r).mono fun b ⟨flags, idle, acts⟩ => ⟨flags, idle, fun leads => ?_⟩
    rw [acts leads]
    exact h.censusWord_fields

/-- Settles O4: every word retires with one register, or YLD, written. -/
theorem predicatesReadsAndSequencer : Obligations.PredicatesReadsAndSequencer := ⟨predicatesAndReads, sequencerReads⟩

/-! ### The step that issues a band (04_sweep.md R88, 13_tasks.md R316, 15_traps.md R348) -/

theorem State.hereAt_some {s : State} {c k : Nat} {h : Here} (e : s.hereAt c k = some h) :
    h.core = c ∧ h.slot = k ∧ s.band? c k = some h.band := by
  unfold State.hereAt at e
  split at e
  · cases e
  · split at e
    · cases e
    · split at e
      · cases e
      · cases e
        exact ⟨rfl, rfl, ‹_›⟩

@[simp] theorem State.band?_modCrew (s : State) (c n : Nat) (f : Crew → Crew) (k : Nat) :
    (s.modCrew c n f).band? c k = s.band? c k := by
  unfold State.modCrew
  split
  · exact State.band?_setCrew ..
  · rfl

theorem step_issue {s : State} {c k : Nat} {rest : List Action} (next : s.agenda = .issue c k :: rest) :
    step s = .next (State.issue { s with agenda := rest } c k).turns := by
  rw [step, State.advance, next]
  rfl

section
variable {s t : State} {h : Here}

/-- A word that has been read runs when nothing of its band is due or outstanding. -/
theorem State.issueWord_runs {i : Instr} (log : h.band.log = []) (hwerr : h.band.hwerr = []) (wdog : h.band.wdog = false)
    (free : (useOf i).meets (s.unitDest h (useOf i).all) = false) (run : exec i s = .next t) : s.issueWord h i = t := by
  have stop : s.stopReg h (useOf i) = none := by simp [State.stopReg, log]
  have due : s.dueFault h = none := by simp [State.dueFault, log]
  have async : s.asyncTrap h = none := by simp [State.asyncTrap, hwerr, wdog]
  have live : s.liveOps h = [] := by simp [State.liveOps, log]
  unfold State.issueWord
  simp only [stop, due, async, live, free, run, ite_self, List.filter_nil, List.any_nil, Bool.or_self,
    Bool.false_eq_true, if_false, stateOf]

/-- A band with a RUNNING lane, within its code, issues the word that it fetches. -/
theorem State.issueBand_fetches {s1 : State} {w : DWord} (park : h.band.park = none) (running : h.band.running ≠ 0)
    (inside : h.band.p.toNat < h.codeSize) (fetch : s.fetchWord h h.band.p.toNat = .ok s1 (w, false)) :
    s.issueBand h = s1.issueWord h (decodeFor h.crew.regs w) := by
  rw [State.issueBand, park, if_neg (by simp), if_neg running, State.issueRunning, if_neg (Nat.not_le.2 inside), fetch]

end

section
variable {s : State} {c k : Nat} {g : Here}

/-- The band's crew stands still for a flush or a save. -/
theorem State.issue_stopped (here : State.hereAt { s with cur := some (c, k) } c k = some g)
    (stopped : g.crew.issues = false) : s.issue c k = s := by
  simp [State.issue, here, stopped]

/-- In normal mode a band in its back-off, or which no pipe selects, does not issue. -/
theorem State.issue_unselected (here : State.hereAt { s with cur := some (c, k) } c k = some g)
    (issues : g.crew.issues = true) (normal : g.ctx.detm = false)
    (not_selected : g.band.waitTo ≠ none ∨ State.selects { s with cur := some (c, k) } g = false) : s.issue c k = s := by
  have passed : (g.band.waitTo.isSome || !State.selects { s with cur := some (c, k) } g) = true := by
    rcases not_selected with waits | unchosen
    · rw [Option.isSome_iff_ne_none.2 waits, Bool.true_or]
    · rw [unchosen, Bool.not_false, Bool.or_true]
  simp [State.issue, here, issues, normal, passed]

/-- In normal mode the selection marks the band, which then issues. -/
theorem State.issue_selected (here : State.hereAt { s with cur := some (c, k) } c k = some g)
    (issues : g.crew.issues = true) (normal : g.ctx.detm = false) (waits : g.band.waitTo = none)
    (selected : State.selects { s with cur := some (c, k) } g = true) {t : State}
    (run : (State.setBand { s with cur := some (c, k) } c k { g.band with picked := (s.coreAt c).retires }).issueBand
      { g with band := { g.band with picked := (s.coreAt c).retires } } = t) : s.issue c k = t := by
  obtain ⟨rfl, rfl, -⟩ := State.hereAt_some here
  unfold State.issue
  dsimp only
  rw [here]
  dsimp only
  rw [if_neg (by simp [issues]), if_neg (by simp [normal]), if_neg (by simp [waits, selected])]
  exact run

/-- In deterministic mode a band out of its turn issues no word. -/
theorem State.issue_out_of_turn (here : State.hereAt { s with cur := some (c, k) } c k = some g)
    (issues : g.crew.issues = true) (detm : g.ctx.detm = true)
    (turn : State.turn { s with cur := some (c, k) } c g.crew ≠ some k) :
    s.issue c k = State.outOfTurn { s with cur := some (c, k) } g := by
  simp [State.issue, here, issues, detm, turn]

/-- YLD forfeits the turn. -/
theorem State.issue_yields (here : State.hereAt { s with cur := some (c, k) } c k = some g)
    (issues : g.crew.issues = true) (detm : g.ctx.detm = true)
    (turn : State.turn { s with cur := some (c, k) } c g.crew = some k) (yld : g.band.yld = true) :
    s.issue c k = (s.modCrew c g.band.crew fun w => { w with rot := w.nextSlot k }).setBand c k
      { g.band with yld := false } := by
  obtain ⟨-, -, band⟩ := State.hereAt_some here
  have kept : (s.modCrew c g.band.crew fun w => { w with rot := w.nextSlot k }).band? c k = some g.band :=
    (State.band?_modCrew ..).trans band
  simp [State.issue, here, issues, detm, turn, yld, State.modBand_eq _ _ kept]

/-- Whether the band in a slot has issued a word since it stood as `b` (15_traps.md R356). -/
def State.counted (t : State) (c k : Nat) (b : Band) : Bool :=
  match t.band? c k with
  | some x => x.icnt != b.icnt
  | none => false

theorem State.counted_eq_false {t : State} {b : Band} (same : ∀ x, t.band? c k = some x → x.icnt = b.icnt) :
    t.counted c k b = false := by
  unfold State.counted
  split
  · rename_i x found
    simp [same x found]
  · rfl

theorem State.counted_of_ne {t : State} {b x : Band} (found : t.band? c k = some x) (ne : x.icnt ≠ b.icnt) :
    t.counted c k b = true := by
  simp [State.counted, found, ne]

/-- In deterministic mode the band issues at its turn, which passes once it has issued a word. -/
theorem State.issue_at_turn (here : State.hereAt { s with cur := some (c, k) } c k = some g)
    (issues : g.crew.issues = true) (detm : g.ctx.detm = true)
    (turn : State.turn { s with cur := some (c, k) } c g.crew = some k) (yld : g.band.yld = false) {t : State}
    (run : (State.setBand { s with cur := some (c, k) } c k { g.band with waitTo := none }).issueBand
      { g with band := { g.band with waitTo := none } } = t) :
    s.issue c k = if t.counted c k g.band then t.modCrew c g.band.crew fun w => { w with rot := w.nextSlot k } else t := by
  obtain ⟨rfl, rfl, -⟩ := State.hereAt_some here
  subst run
  unfold State.issue
  dsimp only
  rw [here]
  dsimp only
  rw [if_neg (by simp [issues]), if_pos detm, if_neg (by simp [turn]), if_neg (by simp [yld])]
  rfl

end

/-- Settles O56: a selected band issues the word it fetches, and one that is not selected does what its mode has it do. -/
theorem stepRunsDecoded : Obligations.StepRunsDecoded := by
  refine ⟨fun s s0 c k rest h w s1 sel park running inside fetch log hwerr wdog free t run => ?_,
    fun s c k rest g next here => ?_⟩
  · obtain ⟨next, g, here, issues, mode, rfl⟩ := sel
    have issued := (State.issueBand_fetches park running inside fetch).trans (State.issueWord_runs log hwerr wdog free run)
    rw [step_issue next]
    rcases mode with ⟨normal, waits, selected, rfl⟩ | ⟨detm, turn, yld, rfl⟩
    · rw [State.issue_selected (s := { s with agenda := rest }) here issues normal waits selected issued]
      exact ⟨fun _ => rfl, fun detm => absurd (normal.symm.trans detm) nofun⟩
    · rw [State.issue_at_turn (s := { s with agenda := rest }) here issues detm turn yld issued]
      refine ⟨fun normal => absurd (normal.symm.trans detm) nofun, fun _ => ⟨fun same => ?_, fun b found ne => ?_⟩⟩
      · rw [if_neg (Bool.eq_false_iff.1 (State.counted_eq_false (b := g.band) same))]
      · rw [if_pos (State.counted_of_ne (b := g.band) found ne)]
  · rw [step_issue next]
    refine ⟨fun stopped => ?_, fun issues normal not_selected => ?_, fun issues detm turn => ?_,
      fun issues detm turn yld => ?_⟩
    · rw [State.issue_stopped (s := { s with agenda := rest }) here stopped]
    · rw [State.issue_unselected (s := { s with agenda := rest }) here issues normal not_selected]
    · rw [State.issue_out_of_turn (s := { s with agenda := rest }) here issues detm turn]
    · rw [State.issue_yields (s := { s with agenda := rest }) here issues detm turn yld]

end Sys2Proof.Machine
end
